-- ==== Sys2Proof/Word.lean ====
section
/-! DEFINITION. The words of the Abnyx: bytes, 32-bit words (lanes, instruction words) and 64-bit doublewords. -/

namespace Sys2Proof

/-- One byte of memory or of a record (R3). -/
abbrev Byte := BitVec 8

/-- One 32-bit lane, node word, control word or literal (R74, R108, R118). -/
abbrev Word := BitVec 32

/-- One 64-bit doubleword: a sequencer register, a system register, a record field (R118, R298). -/
abbrev DWord := BitVec 64

/-- The 32-bit word that holds `n` modulo 2^32. -/
abbrev word (n : Nat) : Word := BitVec.ofNat 32 n

/-- The 64-bit doubleword that holds `n` modulo 2^64. -/
abbrev dword (n : Nat) : DWord := BitVec.ofNat 64 n

end Sys2Proof
end

