-- ==== Sys2Proof/Machine/Bits.lean ====
section
/-! DEFINITION. Bit fields, little-endian byte strings (R3) and sorted sparse maps: the plain helpers of every other file. -/

namespace Sys2Proof.Machine

/-- The field x[hi:lo] of R7, as a number; 0 when hi < lo. -/
def fld (x hi lo : Nat) : Nat := (x >>> lo) % 2 ^ (hi + 1 - lo)

/-- The single bit x[n] (R1). -/
def bitAt (x n : Nat) : Bool := (x >>> n) % 2 == 1

/-- The low w bits of n read in two's complement. -/
def sext (w n : Nat) : Int :=
  let m := n % 2 ^ w
  if 2 * m < 2 ^ w then (m : Int) else (m : Int) - (2 ^ w : Nat)

/-- The w-bit pattern of an integer, modulo 2^w. -/
def wrap (w : Nat) (z : Int) : Nat := (z % ((2 ^ w : Nat) : Int)).toNat

/-- Division rounded up. -/
def ceilDiv (a b : Nat) : Nat := (a + b - 1) / b

/-- The n lowest bytes of v, lowest first (R3). -/
def toBytes (n v : Nat) : List Byte := (List.range n).map fun i => BitVec.ofNat 8 (v >>> (8 * i))

/-- The number a little-endian byte string holds (R3). -/
def ofBytes : List Byte → Nat
  | [] => 0
  | b :: bs => b.toNat + 256 * ofBytes bs

/-- A sparse map from numbers, sorted by key once it is built with put. -/
abbrev AMap (α : Type) := List (Nat × α)

/-- The value at key k, if one is listed. -/
def AMap.find? {α : Type} (m : AMap α) (k : Nat) : Option α :=
  match m with
  | [] => none
  | (j, v) :: t => if k = j then some v else AMap.find? t k

/-- The value at key k, or the default of an unlisted key. -/
def AMap.get {α : Type} (m : AMap α) (k : Nat) (d : α) : α := (AMap.find? m k).getD d

/-- The map with v at key k, in its sorted place. -/
def AMap.put {α : Type} (m : AMap α) (k : Nat) (v : α) : AMap α :=
  match m with
  | [] => [(k, v)]
  | (j, u) :: t => if k < j then (k, v) :: (j, u) :: t else if k = j then (k, v) :: t else (j, u) :: AMap.put t k v

/-- The map with no entry at key k. -/
def AMap.del {α : Type} (m : AMap α) (k : Nat) : AMap α := m.filter fun p => p.1 != k

/-- The list with its i-th element replaced; unchanged when i is past the end. -/
def setNth {α : Type} (l : List α) (i : Nat) (v : α) : List α := l.set i v

/-- The first index at which p holds, counted from i. -/
def firstFrom {α : Type} (p : α → Bool) : List α → Nat → Option Nat
  | [], _ => none
  | x :: t, i => if p x then some i else firstFrom p t (i + 1)

/-- The element of least key under a strict order given as a Bool test, the earliest on ties. -/
def leastBy {α : Type} (lt : α → α → Bool) : List α → Option α
  | [] => none
  | x :: t => match leastBy lt t with
    | none => some x
    | some y => if lt y x then some y else some x

end Sys2Proof.Machine
end

