-- ==== Sys2Proof/Syntax.lean ====
section
/-! DEFINITION. The instructions and events of the part: one constructor per row of spec/opcode_table.json.

The first rows are node words of format N (R108, R120), then sequencer words and stream words of format C
(R118, R121); the rest are the part's events, which have no encoding: whom an event happens to and what it brings stand
in the state (its field cur). Instructions carry the fields of their word; the mnemonics that stand in both maps are
`add` (node map) and `seqAdd` (control map), and so on. -/

namespace Sys2Proof

/-- The fields of a format N word below its opcode (R108). -/
structure NF where
  a : BitVec 4
  b : BitVec 4
  x : BitVec 4
  y : BitVec 4
  tg : BitVec 4
  m : BitVec 4
  deriving DecidableEq, Repr

/-- The fields of a format C word below its opcode (R118). -/
structure CF where
  d : BitVec 5
  a : BitVec 5
  b : BitVec 5
  imm : BitVec 9
  deriving DecidableEq, Repr

/-- A signed topology record (R29, R456, R458): the package's ID, its retired cores, its neighbours as
(port, peer package), the time master, the destinations' route entries as (package, entry), and whether its two
signatures verify against the roots in the boot ROM. -/
structure TopoRec where
  pkg : BitVec 8
  retired : List Nat
  ports : List (Nat × Nat)
  master : Nat
  routes : List (Nat × BitVec 64)
  sigEd : Bool
  sigMl : Bool
  deriving DecidableEq, Repr

/-- A firmware image as staged: its version and whether its two signatures verify (R27, R458). -/
structure FwImage where
  version : Nat
  sigEd : Bool
  sigMl : Bool
  deriving DecidableEq, Repr

/-- The attestation evidence a port receives (R458): the peer's package ID and port, whether each of the four
signatures verifies, and whether the peer has accepted this side's evidence. -/
structure Evidence where
  peer : Nat
  pport : Nat
  certEd : Bool
  certMl : Bool
  measEd : Bool
  measMl : Bool
  accepted : Bool
  deriving DecidableEq, Repr

/-- A flit of the link layer (R452): the fields of its header, whether its CRC holds, its payload, and, from the network header of the
message it carries, source and destination numbers (R455) and the row message's bin (R419); about says in the message's last flit what
message it is, whose layout on a link no rule gives (DESIGN CHOICE, log 24); hub is the hub die whose route table it goes by (R455): the
one it came in at, HD0 for a message of this package (DESIGN CHOICE, log 24); idx counts the flits of its message before it. -/
structure Flit where
  kind : Nat
  fseq : BitVec 12
  ack : BitVec 12
  crcOk : Bool
  spkg : Nat
  dpkg : Nat
  hops : Nat
  vc : Nat
  last : Bool
  payload : List (BitVec 8)
  src : Nat
  dst : Nat
  bin : Nat
  about : List Nat
  hub : Nat
  idx : Nat
  deriving DecidableEq, Repr

/-- A peer's memory request as it reaches the ingress of a hub die (R454, R457): hub, source package, request number, the offset in
the peer window, and what it does: 0 a load, 1 a store, 2 the 64-bit add, 3 the 64-bit compare-and-swap, or the opcode of an atomic
node. phase 0 as it arrives, 1 on its way to the memory that offset then names, 2 with its response, status first, on the way back. -/
structure PeerReq where
  hub : Nat
  src : Nat
  num : Nat
  offset : Nat
  op : Nat
  len : Nat
  data : List (BitVec 8)
  phase : Nat
  deriving DecidableEq, Repr

/-- Where an uncorrectable error strikes (R292). -/
inductive ErrSite where
  /-- core state, frames, scratch, state cache or group window of the core -/
  | coreState (core : Nat)
  /-- an interval store entry of the die's slice -/
  | storeEntry (die slice : Nat)
  /-- the committed half of a snapshot region -/
  | committedHalf (launch : Nat)
  /-- a line of memory, by physical address -/
  | memLine (pa : Nat)
  deriving DecidableEq, Repr

/-- The instructions and events of spec/opcode_table.json, in the table's order. -/
inductive Instr where
  /-- ADD (node, R138). -/
  | add (f : NF)
  /-- SUB (node, R138). -/
  | sub (f : NF)
  /-- ADDS (node, R138). -/
  | adds (f : NF)
  /-- SUBS (node, R138). -/
  | subs (f : NF)
  /-- MUL (node, R138). -/
  | mul (f : NF)
  /-- MULH (node, R138). -/
  | mulh (f : NF)
  /-- MULHN (node, R138). -/
  | mulhn (f : NF)
  /-- MIN (node, R138). -/
  | min (f : NF)
  /-- MAX (node, R138). -/
  | max (f : NF)
  /-- MINN (node, R138). -/
  | minn (f : NF)
  /-- MAXN (node, R138). -/
  | maxn (f : NF)
  /-- ABS (node, R138). -/
  | abs (f : NF)
  /-- NEG (node, R138). -/
  | neg (f : NF)
  /-- AND (node, R138). -/
  | and (f : NF)
  /-- OR (node, R138). -/
  | or (f : NF)
  /-- XOR (node, R138). -/
  | xor (f : NF)
  /-- ANDN (node, R138). -/
  | andn (f : NF)
  /-- NOT (node, R138). -/
  | not (f : NF)
  /-- SHL (node, R138). -/
  | shl (f : NF)
  /-- SHR (node, R138). -/
  | shr (f : NF)
  /-- SAR (node, R138). -/
  | sar (f : NF)
  /-- ROT (node, R138). -/
  | rot (f : NF)
  /-- CLZ (node, R138). -/
  | clz (f : NF)
  /-- POPC (node, R138). -/
  | popc (f : NF)
  /-- BREV (node, R138). -/
  | brev (f : NF)
  /-- LEA (node, R138). -/
  | lea (f : NF)
  /-- CMP (node, R138). -/
  | cmp (f : NF)
  /-- CMPN (node, R138). -/
  | cmpn (f : NF)
  /-- TST (node, R138). -/
  | tst (f : NF)
  /-- SEL (node, R138). -/
  | sel (f : NF)
  /-- MOV (node, R138). -/
  | mov (f : NF)
  /-- STEER (node, R141). -/
  | steer (f : NF)
  /-- MERGE (node, R142). -/
  | merge (f : NF)
  /-- GATE (node, R143). -/
  | gate (f : NF)
  /-- COPY (node, R144). -/
  | copy (f : NF)
  /-- SINK (node, R145). -/
  | sink (f : NF)
  /-- CONST (node, R146). -/
  | const (f : NF)
  /-- FILT (node, R147). -/
  | filt (f : NF)
  /-- CMPCT (node, R147). -/
  | cmpct (f : NF)
  /-- ITER (node, R148). -/
  | iter (f : NF)
  /-- DONE (node, R149). -/
  | done (f : NF)
  /-- MARK (node, R150). -/
  | mark (f : NF)
  /-- CALL (node, R151). -/
  | call (f : NF)
  /-- RET (node, R152). -/
  | ret (f : NF)
  /-- TAGRD (node, R153). -/
  | tagrd (f : NF)
  /-- TAGWR (node, R153). -/
  | tagwr (f : NF)
  /-- SNIP (node, R92). -/
  | snip (f : NF)
  /-- END (node, R94). -/
  | snipEnd (f : NF)
  /-- ERRCHK (node, R155). -/
  | errchk (f : NF)
  /-- SYNC (node, R143). -/
  | sync (f : NF)
  /-- COUNT (node, R156). -/
  | count (f : NF)
  /-- FADD (node, R162). -/
  | fadd (f : NF)
  /-- FSUB (node, R162). -/
  | fsub (f : NF)
  /-- FMUL (node, R162). -/
  | fmul (f : NF)
  /-- FMA (node, R162). -/
  | fma (f : NF)
  /-- FMIN (node, R163). -/
  | fmin (f : NF)
  /-- FMAX (node, R163). -/
  | fmax (f : NF)
  /-- FABS (node, R163). -/
  | fabs (f : NF)
  /-- FNEG (node, R163). -/
  | fneg (f : NF)
  /-- FCMP (node, R164). -/
  | fcmp (f : NF)
  /-- FRCP (node, R165). -/
  | frcp (f : NF)
  /-- FRSQ (node, R165). -/
  | frsq (f : NF)
  /-- FEX2 (node, R165). -/
  | fex2 (f : NF)
  /-- FLG2 (node, R165). -/
  | flg2 (f : NF)
  /-- FCLS (node, R164). -/
  | fcls (f : NF)
  /-- HADD (node, R166). -/
  | hadd (f : NF)
  /-- HMUL (node, R166). -/
  | hmul (f : NF)
  /-- HFMA (node, R166). -/
  | hfma (f : NF)
  /-- CVTF (node, R167). -/
  | cvtf (f : NF)
  /-- CVTE (node, R167). -/
  | cvte (f : NF)
  /-- CVTQ (node, R168). -/
  | cvtq (f : NF)
  /-- XPND (node, R169). -/
  | xpnd (f : NF)
  /-- CVTFI (node, R167). -/
  | cvtfi (f : NF)
  /-- CVTIF (node, R167). -/
  | cvtif (f : NF)
  /-- SEED (node, R170). -/
  | seed (f : NF)
  /-- RSUM (node, R171). -/
  | rsum (f : NF)
  /-- RMIN (node, R172). -/
  | rmin (f : NF)
  /-- RMAX (node, R172). -/
  | rmax (f : NF)
  /-- SHUF (node, R173). -/
  | shuf (f : NF)
  /-- BCAST (node, R173). -/
  | bcast (f : NF)
  /-- PACK (node, R174). -/
  | pack (f : NF)
  /-- UNPK (node, R174). -/
  | unpk (f : NF)
  /-- LANE (node, R173). -/
  | lane (f : NF)
  /-- LD (node, R183). -/
  | ld (f : NF)
  /-- ST (node, R183). -/
  | st (f : NF)
  /-- LDX (node, R184). -/
  | ldx (f : NF)
  /-- STX (node, R184). -/
  | stx (f : NF)
  /-- LDS (node, R183). -/
  | lds (f : NF)
  /-- STS (node, R183). -/
  | sts (f : NF)
  /-- AADD (node, R185). -/
  | aadd (f : NF)
  /-- AFADD (node, R185). -/
  | afadd (f : NF)
  /-- AMIN (node, R185). -/
  | amin (f : NF)
  /-- AMAX (node, R185). -/
  | amax (f : NF)
  /-- AMINN (node, R185). -/
  | aminn (f : NF)
  /-- AMAXN (node, R185). -/
  | amaxn (f : NF)
  /-- AAND (node, R185). -/
  | aand (f : NF)
  /-- AOR (node, R185). -/
  | aor (f : NF)
  /-- AXOR (node, R185). -/
  | axor (f : NF)
  /-- AXCH (node, R185). -/
  | axch (f : NF)
  /-- ACAS (node, R185). -/
  | acas (f : NF)
  /-- FENCE (node, R188). -/
  | fence (f : NF)
  /-- XFENCE (node, R189). -/
  | xfence (f : NF)
  /-- PRFT (node, R190). -/
  | prft (f : NF)
  /-- WBL (node, R190). -/
  | wbl (f : NF)
  /-- CBPUT (node, R193). -/
  | cbput (f : NF)
  /-- CBGET (node, R193). -/
  | cbget (f : NF)
  /-- CBWAIT (node, R193). -/
  | cbwait (f : NF)
  /-- CBROOM (node, R193). -/
  | cbroom (f : NF)
  /-- CNTADD (node, R395). -/
  | cntadd (f : NF)
  /-- MXI (node, R214). -/
  | mxi (f : NF)
  /-- MXIS (node, R214). -/
  | mxis (f : NF)
  /-- MXZ (node, R225). -/
  | mxz (f : NF)
  /-- MXPEEK (node, R227). -/
  | mxpeek (f : NF)
  /-- MXRD (node, R227). -/
  | mxrd (f : NF)
  /-- MXDR (node, R228). -/
  | mxdr (f : NF)
  /-- MXSPL (node, R229). -/
  | mxspl (f : NF)
  /-- MXFIL (node, R229). -/
  | mxfil (f : NF)
  /-- MXADD (node, R230). -/
  | mxadd (f : NF)
  /-- MXCLS (node, R225). -/
  | mxcls (f : NF)
  /-- MXST (node, R231). -/
  | mxst (f : NF)
  /-- MXWT (node, R226). -/
  | mxwt (f : NF)
  /-- MXPOL (node, R223). -/
  | mxpol (f : NF)
  /-- CFW (node, R425). -/
  | cfw (f : NF)
  /-- CFWR (node, R426). -/
  | cfwr (f : NF)
  /-- STAMP (node, R427). -/
  | stamp (f : NF)
  /-- DISP (node, R429). -/
  | disp (f : NF)
  /-- BINNX (node, R446). -/
  | binnx (f : NF)
  /-- BINWT (node, R446). -/
  | binwt (f : NF)
  /-- CMBADD (node, R444). -/
  | cmbadd (f : NF)
  /-- CMBOUT (node, R444). -/
  | cmbout (f : NF)
  /-- RWST (node, R448). -/
  | rwst (f : NF)
  /-- SEQ_ADD (sequencer, R350). -/
  | seqAdd (f : CF)
  /-- SEQ_SUB (sequencer, R350). -/
  | seqSub (f : CF)
  /-- ADDI (sequencer, R350). -/
  | addi (f : CF)
  /-- SEQ_MUL (sequencer, R350). -/
  | seqMul (f : CF)
  /-- SEQ_AND (sequencer, R350). -/
  | seqAnd (f : CF)
  /-- SEQ_OR (sequencer, R350). -/
  | seqOr (f : CF)
  /-- SEQ_XOR (sequencer, R350). -/
  | seqXor (f : CF)
  /-- SHLI (sequencer, R350). -/
  | shli (f : CF)
  /-- SHRI (sequencer, R350). -/
  | shri (f : CF)
  /-- SARI (sequencer, R350). -/
  | sari (f : CF)
  /-- LI (sequencer, R350). -/
  | li (f : CF) (imm32 : Word)
  /-- LIH (sequencer, R350). -/
  | lih (f : CF) (imm32 : Word)
  /-- SLT (sequencer, R350). -/
  | slt (f : CF)
  /-- SLTN (sequencer, R350). -/
  | sltn (f : CF)
  /-- BEQ (sequencer, R351). -/
  | beq (f : CF)
  /-- BNE (sequencer, R351). -/
  | bne (f : CF)
  /-- BLT (sequencer, R351). -/
  | blt (f : CF)
  /-- BGE (sequencer, R351). -/
  | bge (f : CF)
  /-- BLTN (sequencer, R351). -/
  | bltn (f : CF)
  /-- BGEN (sequencer, R351). -/
  | bgen (f : CF)
  /-- JMP (sequencer, R351). -/
  | jmp (f : CF) (imm32 : Word)
  /-- JAL (sequencer, R351). -/
  | jal (f : CF) (imm32 : Word)
  /-- JR (sequencer, R351). -/
  | jr (f : CF)
  /-- LDG (sequencer, R352). -/
  | ldg (f : CF)
  /-- STG (sequencer, R352). -/
  | stg (f : CF)
  /-- LDGA (sequencer, R352). -/
  | ldga (f : CF)
  /-- STGR (sequencer, R352). -/
  | stgr (f : CF)
  /-- AADDG (sequencer, R352). -/
  | aaddg (f : CF)
  /-- ACASG (sequencer, R352). -/
  | acasg (f : CF)
  /-- FORK (sequencer, R353). -/
  | fork (f : CF)
  /-- JOIN (sequencer, R353). -/
  | join (f : CF)
  /-- CTX (sequencer, R354). -/
  | ctx (f : CF)
  /-- STAGE (sequencer, R355). -/
  | stage (f : CF)
  /-- PRED (sequencer, R356). -/
  | pred (f : CF)
  /-- WAITEV (sequencer, R357). -/
  | waitev (f : CF)
  /-- TIME (sequencer, R358). -/
  | time (f : CF)
  /-- SEQ_XFENCE (sequencer, R359). -/
  | seqXfence (f : CF)
  /-- SEAM (sequencer, R374). -/
  | seam (f : CF)
  /-- GUARD (sequencer, R375). -/
  | guard (f : CF)
  /-- GRPID (sequencer, R376). -/
  | grpid (f : CF)
  /-- GANG (sequencer, R377). -/
  | gang (f : CF)
  /-- BARINI (sequencer, R391). -/
  | barini (f : CF)
  /-- BARARV (sequencer, R391). -/
  | bararv (f : CF)
  /-- BARWT (sequencer, R391). -/
  | barwt (f : CF)
  /-- BARAW (sequencer, R391). -/
  | baraw (f : CF)
  /-- CNTINI (sequencer, R392). -/
  | cntini (f : CF)
  /-- CNTADDG (sequencer, R392). -/
  | cntaddg (f : CF)
  /-- CNTWZ (sequencer, R392). -/
  | cntwz (f : CF)
  /-- QUIES (sequencer, R393). -/
  | quies (f : CF)
  /-- ENQ (sequencer, R325). -/
  | enq (f : CF)
  /-- PQPUSH (sequencer, R326). -/
  | pqpush (f : CF)
  /-- PQPOP (sequencer, R326). -/
  | pqpop (f : CF)
  /-- DQPUSH (sequencer, R327). -/
  | dqpush (f : CF)
  /-- DQPOP (sequencer, R327). -/
  | dqpop (f : CF)
  /-- DQSTEAL (sequencer, R327). -/
  | dqsteal (f : CF)
  /-- CANCEL (sequencer, R328). -/
  | cancel (f : CF)
  /-- SEQ_DONE (sequencer, R328). -/
  | seqDone (f : CF)
  /-- PROMOTE (sequencer, R413). -/
  | promote (f : CF)
  /-- DEMOTE (sequencer, R413). -/
  | demote (f : CF)
  /-- TLBINV (sequencer, R414). -/
  | tlbinv (f : CF)
  /-- SLWAYS (sequencer, R415). -/
  | slways (f : CF)
  /-- BNKHINT (sequencer, R416). -/
  | bnkhint (f : CF)
  /-- PSTAT (sequencer, R417). -/
  | pstat (f : CF)
  /-- BINCFG (sequencer, R431). -/
  | bincfg (f : CF)
  /-- BINTRG (sequencer, R438). -/
  | bintrg (f : CF)
  /-- BINSEAL (sequencer, R434). -/
  | binseal (f : CF)
  /-- CMBCFG (sequencer, R441). -/
  | cmbcfg (f : CF)
  /-- CMBWT (sequencer, R444). -/
  | cmbwt (f : CF)
  /-- SPILLCFG (sequencer, R440). -/
  | spillcfg (f : CF)
  /-- EXMAP (sequencer, R422). -/
  | exmap (f : CF)
  /-- TRAP (sequencer, R302). -/
  | trap (f : CF)
  /-- BRK (sequencer, R303). -/
  | brk (f : CF)
  /-- SYSRD (sequencer, R301). -/
  | sysrd (f : CF)
  /-- SYSWR (sequencer, R301). -/
  | syswr (f : CF)
  /-- MARKER (sequencer, R304). -/
  | marker (f : CF)
  /-- YIELD (sequencer, R305). -/
  | yield (f : CF)
  /-- HALT (sequencer, R305). -/
  | halt (f : CF)
  /-- FLTRD (sequencer, R306). -/
  | fltrd (f : CF)
  /-- AREDX (sequencer, R459). -/
  | aredx (f : CF)
  /-- COLWT (sequencer, R461). -/
  | colwt (f : CF)
  /-- LNKST (sequencer, R461). -/
  | lnkst (f : CF)
  /-- SOPEN (stream, R207). -/
  | sopen (f : CF) (imm32 : Word)
  /-- SCLOSE (stream, R206). -/
  | sclose (f : CF)
  /-- SLD (stream, R201). -/
  | sld (f : CF)
  /-- SST (stream, R201). -/
  | sst (f : CF)
  /-- SGTH (stream, R202). -/
  | sgth (f : CF)
  /-- SSCT (stream, R202). -/
  | ssct (f : CF)
  /-- SCPY (stream, R203). -/
  | scpy (f : CF)
  /-- SMC (stream, R204). -/
  | smc (f : CF)
  /-- SCB (stream, R205). -/
  | scb (f : CF)
  /-- CBPUTS (stream, R205). -/
  | cbputs (f : CF)
  /-- CBWAITS (stream, R205). -/
  | cbwaits (f : CF)
  /-- SWAIT (stream, R206). -/
  | swait (f : CF)
  /-- SEND (stream, R206). -/
  | send (f : CF)
  /-- SLOOP (stream, R206). -/
  | sloop (f : CF)
  /-- SBNE (stream, R206). -/
  | sbne (f : CF)
  /-- POWER_ON (event, R27). -/
  | powerOn
  /-- MODULE_RESET (event, R458). -/
  | moduleReset
  /-- DIE_RESET (event, R458). -/
  | dieReset
  /-- READ_TELEMETRY (event, R458). -/
  | readTelemetry
  /-- READ_FAULT_LOG (event, R458). -/
  | readFaultLog
  /-- READ_TOPOLOGY (event, R458). -/
  | readTopology
  /-- REPLACE_TOPOLOGY (event, R458). -/
  | replaceTopology
  /-- CLEAR_PORT (event, R451). -/
  | clearPort
  /-- STAGE_FIRMWARE (event, R458). -/
  | stageFirmware
  /-- OPERATOR_CAP (event, R21). -/
  | operatorCap
  /-- CAP_UPDATE (event, R21). -/
  | capUpdate
  /-- GOVERNOR_GRANT (event, R21). -/
  | governorGrant
  /-- GRANT_ARRIVAL (event, R224). -/
  | grantArrival
  /-- BALANCE_RETURN (event, R224). -/
  | balanceReturn
  /-- RESULT_DELIVERY (event, R89). -/
  | resultDelivery
  /-- FABRIC_END_TOKEN (event, R149). -/
  | fabricEndToken
  /-- STAGE_SWITCH (event, R347). -/
  | stageSwitch
  /-- GUARD_DROP (event, R367). -/
  | guardDrop
  /-- GUARD_ERROR_TOKEN (event, R368). -/
  | guardErrorToken
  /-- STREAM_ELEMENT (event, R200). -/
  | streamElement
  /-- CHANNEL_ACCEPT (event, R200). -/
  | channelAccept
  /-- INDEX_TOKEN (event, R202). -/
  | indexToken
  /-- PASS_END (event, R207). -/
  | passEnd
  /-- FQ_ENTRY_START (event, R211). -/
  | fqEntryStart
  /-- KSTEP_SELECT (event, R222). -/
  | kstepSelect
  /-- KSTEP_FETCH (event, R217). -/
  | kstepFetch
  /-- KSTEP_ISSUE (event, R216). -/
  | kstepIssue
  /-- KSTEP_COMPLETE (event, R62). -/
  | kstepComplete
  /-- PERFORM (event, R255). -/
  | perform
  /-- ACCESS_RESPONSE (event, R495). -/
  | accessResponse
  /-- PAGE_WALK (event, R399). -/
  | pageWalk
  /-- WC_DRAIN (event, R265). -/
  | wcDrain
  /-- FILL_ARRIVAL (event, R247). -/
  | fillArrival
  /-- ORDER_SLICE_ARRIVAL (event, R269). -/
  | orderSliceArrival
  /-- ORDER_SLICE_RELEASE (event, R269). -/
  | orderSliceRelease
  /-- NACK_RETRY (event, R269). -/
  | nackRetry
  /-- PROMOTION_RUN (event, R405). -/
  | promotionRun
  /-- PROMOTION_FORCE (event, R251). -/
  | promotionForce
  /-- CUT (event, R290). -/
  | cut
  /-- CUT_PERIOD (event, R289). -/
  | cutPeriod
  /-- UNCORRECTABLE_ERROR (event, R292). -/
  | uncorrectableError
  /-- ROLLBACK (event, R291). -/
  | rollback
  /-- STOP_WAVE_ARRIVAL (event, R287). -/
  | stopWaveArrival
  /-- GROUP_FROZEN (event, R287). -/
  | groupFrozen
  /-- QUIESCENCE_SWEEP (event, R388). -/
  | quiescenceSweep
  /-- SAVE_COMPLETE (event, R283). -/
  | saveComplete
  /-- RESTORE (event, R283). -/
  | restore
  /-- WATCHDOG_EXPIRY (event, R297). -/
  | watchdogExpiry
  /-- TRAP_POLL (event, R302). -/
  | trapPoll
  /-- WAITEV_POLL (event, R357). -/
  | waitevPoll
  /-- CTX_CREATE (event, R310). -/
  | ctxCreate
  /-- CTX_STOP (event, R310). -/
  | ctxStop
  /-- CTX_RESUME (event, R310). -/
  | ctxResume
  /-- CTX_DESTROY (event, R310). -/
  | ctxDestroy
  /-- CTX_RELEASE (event, R310). -/
  | ctxRelease
  /-- CTXCMD_BAD_OP (event, R310). -/
  | ctxcmdBadOp
  /-- PG_RETRY (event, R401). -/
  | pgRetry
  /-- PG_REFUSE (event, R401). -/
  | pgRefuse
  /-- PG_INVALIDATE_PAGE (event, R401). -/
  | pgInvalidatePage
  /-- PG_INVALIDATE_CONTEXT (event, R401). -/
  | pgInvalidateContext
  /-- PGCMD_BAD_OP (event, R401). -/
  | pgcmdBadOp
  /-- QTAIL_WRITE (event, R309). -/
  | qtailWrite
  /-- QCFG_WRITE (event, R314). -/
  | qcfgWrite
  /-- QBASE_WRITE (event, R314). -/
  | qbaseWrite
  /-- REGISTER_WRITE (event, R308). -/
  | registerWrite
  /-- HEAD_CHECK (event, R313). -/
  | headCheck
  /-- DEPENDENCE_EVALUATION (event, R316). -/
  | dependenceEvaluation
  /-- PLACEMENT_DECISION (event, R318). -/
  | placementDecision
  /-- IMAGE_DECODE (event, R331). -/
  | imageDecode
  /-- CORE_LOAD_COMPLETE (event, R342). -/
  | coreLoadComplete
  /-- SPILL_PASS_PLACE (event, R321). -/
  | spillPassPlace
  /-- PQ_ARRIVAL (event, R322). -/
  | pqArrival
  /-- PQ_REFILL_START (event, R322). -/
  | pqRefillStart
  /-- PQ_REFILL_LAND (event, R322). -/
  | pqRefillLand
  /-- DEQUE_ARRIVAL (event, R323). -/
  | dequeArrival
  /-- COUNTER_ARRIVAL (event, R386). -/
  | counterArrival
  /-- BARRIER_ARRIVAL (event, R380). -/
  | barrierArrival
  /-- BARRIER_TRIP (event, R384). -/
  | barrierTrip
  /-- BARRIER_TIMEOUT (event, R380). -/
  | barrierTimeout
  /-- ARRIVE (event, R381). -/
  | arrive
  /-- TRIP (event, R381). -/
  | trip
  /-- READY (event, R371). -/
  | ready
  /-- GO (event, R370). -/
  | go
  /-- GANG_DEADLINE (event, R371). -/
  | gangDeadline
  /-- ABANDON (event, R370). -/
  | abandon
  /-- GANG_START (event, R370). -/
  | gangStart
  /-- GANG_RETRY (event, R370). -/
  | gangRetry
  /-- BANKER_MOVE (event, R408). -/
  | bankerMove
  /-- BANKER_HALVE (event, R407). -/
  | bankerHalve
  /-- MIGRATION_COMPLETE (event, R402). -/
  | migrationComplete
  /-- DISPATCH_ARRIVAL (event, R433). -/
  | dispatchArrival
  /-- ROW_COUNTED (event, R433). -/
  | rowCounted
  /-- RESULT_ARRIVAL (event, R442). -/
  | resultArrival
  /-- NULL_ARRIVAL (event, R442). -/
  | nullArrival
  /-- BOUNCE_ARRIVAL (event, R430). -/
  | bounceArrival
  /-- REFUSAL_ARRIVAL (event, R430). -/
  | refusalArrival
  /-- REFUSAL_RETRY (event, R430). -/
  | refusalRetry
  /-- REFUSAL_WAIT_EXPIRY (event, R430). -/
  | refusalWaitExpiry
  /-- BIN_TIMER_EXPIRY (event, R434). -/
  | binTimerExpiry
  /-- GROUP_FIX (event, R435). -/
  | groupFix
  /-- BIN_GROUP_ADVANCE (event, R435). -/
  | binGroupAdvance
  /-- BIN_DRAIN (event, R436). -/
  | binDrain
  /-- COMBINE_ROW_WRITE (event, R443). -/
  | combineRowWrite
  /-- LKCTL_EN_SET (event, R451). -/
  | lkctlEnSet
  /-- LKCTL_EN_CLEAR (event, R451). -/
  | lkctlEnClear
  /-- LANE_LOCK (event, R451). -/
  | laneLock
  /-- LANE_LOCK_LOST (event, R451). -/
  | laneLockLost
  /-- TRAINING_TIMEOUT (event, R451). -/
  | trainingTimeout
  /-- RETRAIN_TIMEOUT (event, R451). -/
  | retrainTimeout
  /-- ATTESTATION (event, R458). -/
  | attestation
  /-- DATA_FLIT (event, R453). -/
  | dataFlit
  /-- ACK_FLIT (event, R453). -/
  | ackFlit
  /-- NAK_FLIT (event, R453). -/
  | nakFlit
  /-- CREDIT_FLIT (event, R452). -/
  | creditFlit
  /-- TIME_FLIT (event, R456). -/
  | timeFlit
  /-- ATTEST_FLIT (event, R458). -/
  | attestFlit
  /-- REPLAY_TIMEOUT (event, R453). -/
  | replayTimeout
  /-- TIME_FLIT_SEND (event, R456). -/
  | timeFlitSend
  /-- PEER_REQUEST (event, R457). -/
  | peerRequest
  /-- COLLECTIVE_IMAGE (event, R459). -/
  | collectiveImage
  /-- COLLECTIVE_TIMEOUT (event, R459). -/
  | collectiveTimeout
  /-- SLICE_BOUNDARY (event, R371). -/
  | sliceBoundary
  /-- TRAINING_RETRY (event, R451). -/
  | trainingRetry
  /-- WAITEV_TIME_REACHED (event, R357). -/
  | waitevTimeReached
  deriving DecidableEq, Repr

end Sys2Proof
end

