-- ==== Sys2Proof/Machine/WordCheck.lean ====
section
/-! DEFINITION. The loader's checks of single words (R109-R117, R118, R122, R136, R140, R159, R177, R180, R197, R212,
R228, R349, R446): well-formed node words with their literals, snippet words, sequencer words and stream words. -/

namespace Sys2Proof

open Machine

/-- What a source field may name in a node word (R109, R110 and the entries). -/
inductive SrcKind where
  /-- must be 15 -/
  | no
  /-- a network port 0-8 -/
  | net
  /-- a network port, lt or sf -/
  | any
  /-- any, or 15 -/
  | opt
  /-- a network port or sf (a node whose literal is a format word) -/
  | anyf
  /-- anyf, or 15 -/
  | optf
  /-- a vector port or sf -/
  | vec
  /-- a vector port -/
  | vp
  /-- a vector port, or 15 -/
  | optvp
  /-- a vector port that is a network port (CMPCT) -/
  | vecnet
  /-- lt -/
  | lt
  /-- lt or sf -/
  | ltsf
  /-- a network port, sf or mp -/
  | src
  /-- a vector port, sf or mp -/
  | vsrc
  /-- a network port or sf -/
  | netsf
  deriving DecidableEq, Repr

/-- What a destination field may name. -/
inductive DstKind where
  | no | yes | nosf | mem | xq
  deriving DecidableEq, Repr

/-- The role of the literal (R115). -/
inductive LitRole where
  | operand | attr | fmt | call
  deriving DecidableEq, Repr

/-- What the m field may hold (R112). -/
inductive MRule where
  | zero | round | cond6 | cond8 | two | red | pack
  deriving DecidableEq, Repr

/-- Which tag actions a word may carry (R111). -/
inductive TgRule where
  | std | call | ret
  deriving DecidableEq, Repr

/-- The signature of a node opcode: sources, destinations, literal, m and tag action. -/
structure Sig where
  a : SrcKind
  b : SrcKind
  x : DstKind
  y : DstKind
  lit : LitRole
  m : MRule
  tg : TgRule
  deriving DecidableEq, Repr

/-- The signatures of the node map, from the entries' tables; none for what is no node word. CMPCT's A is held to the vector ports, as R147
requires a vector A where R140 says net; DISP's A may be any network port, of which R429 takes lane 0, and its y must be 15, as R429 sends
A to x alone (DEDUCED, log 33). -/
def sig : Instr → Option Sig
  | .add _ => some ⟨.any, .any, .yes, .yes, .operand, .zero, .std⟩
  | .sub _ => some ⟨.any, .any, .yes, .yes, .operand, .zero, .std⟩
  | .adds _ => some ⟨.any, .any, .yes, .yes, .operand, .zero, .std⟩
  | .subs _ => some ⟨.any, .any, .yes, .yes, .operand, .zero, .std⟩
  | .mul _ => some ⟨.any, .any, .yes, .yes, .operand, .zero, .std⟩
  | .mulh _ => some ⟨.any, .any, .yes, .yes, .operand, .zero, .std⟩
  | .mulhn _ => some ⟨.any, .any, .yes, .yes, .operand, .zero, .std⟩
  | .min _ => some ⟨.any, .any, .yes, .yes, .operand, .zero, .std⟩
  | .max _ => some ⟨.any, .any, .yes, .yes, .operand, .zero, .std⟩
  | .minn _ => some ⟨.any, .any, .yes, .yes, .operand, .zero, .std⟩
  | .maxn _ => some ⟨.any, .any, .yes, .yes, .operand, .zero, .std⟩
  | .abs _ => some ⟨.any, .no, .yes, .yes, .operand, .zero, .std⟩
  | .neg _ => some ⟨.any, .no, .yes, .yes, .operand, .zero, .std⟩
  | .and _ => some ⟨.any, .any, .yes, .yes, .operand, .zero, .std⟩
  | .or _ => some ⟨.any, .any, .yes, .yes, .operand, .zero, .std⟩
  | .xor _ => some ⟨.any, .any, .yes, .yes, .operand, .zero, .std⟩
  | .andn _ => some ⟨.any, .any, .yes, .yes, .operand, .zero, .std⟩
  | .not _ => some ⟨.any, .no, .yes, .yes, .operand, .zero, .std⟩
  | .shl _ => some ⟨.any, .any, .yes, .yes, .operand, .zero, .std⟩
  | .shr _ => some ⟨.any, .any, .yes, .yes, .operand, .zero, .std⟩
  | .sar _ => some ⟨.any, .any, .yes, .yes, .operand, .zero, .std⟩
  | .rot _ => some ⟨.any, .any, .yes, .yes, .operand, .zero, .std⟩
  | .clz _ => some ⟨.any, .no, .yes, .yes, .operand, .zero, .std⟩
  | .popc _ => some ⟨.any, .no, .yes, .yes, .operand, .zero, .std⟩
  | .brev _ => some ⟨.any, .no, .yes, .yes, .operand, .zero, .std⟩
  | .lea _ => some ⟨.any, .any, .yes, .yes, .operand, .zero, .std⟩
  | .cmp _ => some ⟨.any, .any, .yes, .yes, .operand, .cond6, .std⟩
  | .cmpn _ => some ⟨.any, .any, .yes, .yes, .operand, .cond6, .std⟩
  | .tst _ => some ⟨.any, .any, .yes, .yes, .operand, .two, .std⟩
  | .sel _ => some ⟨.any, .any, .yes, .yes, .operand, .zero, .std⟩
  | .mov _ => some ⟨.any, .no, .yes, .yes, .operand, .zero, .std⟩
  | .steer _ => some ⟨.any, .net, .yes, .yes, .operand, .zero, .std⟩
  | .merge _ => some ⟨.net, .net, .yes, .yes, .operand, .zero, .std⟩
  | .gate _ => some ⟨.any, .net, .yes, .yes, .operand, .zero, .std⟩
  | .copy _ => some ⟨.net, .no, .yes, .yes, .operand, .zero, .std⟩
  | .sink _ => some ⟨.net, .no, .no, .no, .operand, .zero, .std⟩
  | .const _ => some ⟨.net, .ltsf, .yes, .yes, .operand, .zero, .std⟩
  | .filt _ => some ⟨.net, .any, .yes, .no, .operand, .cond6, .std⟩
  | .cmpct _ => some ⟨.vecnet, .any, .yes, .yes, .operand, .cond6, .std⟩
  | .iter _ => some ⟨.net, .no, .yes, .yes, .operand, .zero, .std⟩
  | .done _ => some ⟨.net, .no, .yes, .no, .operand, .zero, .std⟩
  | .mark _ => some ⟨.net, .no, .yes, .yes, .operand, .zero, .std⟩
  | .call _ => some ⟨.net, .no, .yes, .yes, .call, .zero, .call⟩
  | .ret _ => some ⟨.net, .no, .no, .no, .operand, .zero, .ret⟩
  | .tagrd _ => some ⟨.net, .no, .yes, .yes, .operand, .zero, .std⟩
  | .tagwr _ => some ⟨.net, .any, .yes, .yes, .operand, .zero, .std⟩
  | .snip _ => some ⟨.net, .opt, .yes, .yes, .operand, .zero, .std⟩
  | .snipEnd _ => some ⟨.no, .no, .yes, .yes, .operand, .zero, .std⟩
  | .errchk _ => some ⟨.net, .no, .yes, .yes, .operand, .zero, .std⟩
  | .sync _ => some ⟨.net, .net, .yes, .yes, .operand, .zero, .std⟩
  | .count _ => some ⟨.net, .lt, .nosf, .no, .operand, .zero, .std⟩
  | .fadd _ => some ⟨.any, .any, .yes, .yes, .operand, .round, .std⟩
  | .fsub _ => some ⟨.any, .any, .yes, .yes, .operand, .round, .std⟩
  | .fmul _ => some ⟨.any, .any, .yes, .yes, .operand, .round, .std⟩
  | .fma _ => some ⟨.any, .any, .yes, .yes, .operand, .round, .std⟩
  | .fmin _ => some ⟨.any, .any, .yes, .yes, .operand, .zero, .std⟩
  | .fmax _ => some ⟨.any, .any, .yes, .yes, .operand, .zero, .std⟩
  | .fabs _ => some ⟨.any, .no, .yes, .yes, .operand, .zero, .std⟩
  | .fneg _ => some ⟨.any, .no, .yes, .yes, .operand, .zero, .std⟩
  | .fcmp _ => some ⟨.any, .any, .yes, .yes, .operand, .cond8, .std⟩
  | .frcp _ => some ⟨.any, .no, .yes, .yes, .operand, .zero, .std⟩
  | .frsq _ => some ⟨.any, .no, .yes, .yes, .operand, .zero, .std⟩
  | .fex2 _ => some ⟨.any, .no, .yes, .yes, .operand, .zero, .std⟩
  | .flg2 _ => some ⟨.any, .no, .yes, .yes, .operand, .zero, .std⟩
  | .fcls _ => some ⟨.any, .no, .yes, .yes, .operand, .zero, .std⟩
  | .hadd _ => some ⟨.any, .any, .yes, .yes, .operand, .round, .std⟩
  | .hmul _ => some ⟨.any, .any, .yes, .yes, .operand, .round, .std⟩
  | .hfma _ => some ⟨.any, .any, .yes, .yes, .operand, .round, .std⟩
  | .cvtf _ => some ⟨.anyf, .optf, .yes, .yes, .fmt, .round, .std⟩
  | .cvte _ => some ⟨.anyf, .optf, .yes, .yes, .fmt, .round, .std⟩
  | .cvtq _ => some ⟨.vec, .optf, .yes, .yes, .fmt, .round, .std⟩
  | .xpnd _ => some ⟨.vec, .optf, .yes, .yes, .fmt, .zero, .std⟩
  | .cvtfi _ => some ⟨.anyf, .optf, .yes, .yes, .fmt, .round, .std⟩
  | .cvtif _ => some ⟨.anyf, .optf, .yes, .yes, .fmt, .round, .std⟩
  | .seed _ => some ⟨.any, .no, .yes, .yes, .operand, .zero, .std⟩
  | .rsum _ => some ⟨.any, .opt, .yes, .yes, .operand, .round, .std⟩
  | .rmin _ => some ⟨.any, .no, .yes, .yes, .operand, .red, .std⟩
  | .rmax _ => some ⟨.any, .no, .yes, .yes, .operand, .red, .std⟩
  | .shuf _ => some ⟨.vec, .any, .yes, .yes, .operand, .zero, .std⟩
  | .bcast _ => some ⟨.vec, .any, .yes, .yes, .operand, .zero, .std⟩
  | .pack _ => some ⟨.any, .opt, .yes, .yes, .operand, .pack, .std⟩
  | .unpk _ => some ⟨.vec, .opt, .yes, .yes, .operand, .pack, .std⟩
  | .lane _ => some ⟨.any, .any, .yes, .yes, .operand, .zero, .std⟩
  | .ld _ => some ⟨.src, .no, .mem, .mem, .attr, .zero, .std⟩
  | .st _ => some ⟨.src, .src, .mem, .mem, .attr, .zero, .std⟩
  | .ldx _ => some ⟨.src, .no, .mem, .mem, .attr, .zero, .std⟩
  | .stx _ => some ⟨.src, .src, .mem, .mem, .attr, .zero, .std⟩
  | .lds _ => some ⟨.src, .no, .mem, .mem, .attr, .zero, .std⟩
  | .sts _ => some ⟨.src, .src, .mem, .mem, .attr, .zero, .std⟩
  | .aadd _ => some ⟨.src, .src, .mem, .mem, .attr, .zero, .std⟩
  | .afadd _ => some ⟨.src, .src, .mem, .mem, .attr, .zero, .std⟩
  | .amin _ => some ⟨.src, .src, .mem, .mem, .attr, .zero, .std⟩
  | .amax _ => some ⟨.src, .src, .mem, .mem, .attr, .zero, .std⟩
  | .aminn _ => some ⟨.src, .src, .mem, .mem, .attr, .zero, .std⟩
  | .amaxn _ => some ⟨.src, .src, .mem, .mem, .attr, .zero, .std⟩
  | .aand _ => some ⟨.src, .src, .mem, .mem, .attr, .zero, .std⟩
  | .aor _ => some ⟨.src, .src, .mem, .mem, .attr, .zero, .std⟩
  | .axor _ => some ⟨.src, .src, .mem, .mem, .attr, .zero, .std⟩
  | .axch _ => some ⟨.src, .src, .mem, .mem, .attr, .zero, .std⟩
  | .acas _ => some ⟨.src, .vsrc, .mem, .mem, .attr, .zero, .std⟩
  | .fence _ => some ⟨.src, .no, .mem, .mem, .attr, .zero, .std⟩
  | .xfence _ => some ⟨.src, .no, .mem, .mem, .attr, .zero, .std⟩
  | .prft _ => some ⟨.src, .no, .mem, .mem, .attr, .zero, .std⟩
  | .wbl _ => some ⟨.src, .no, .mem, .mem, .attr, .zero, .std⟩
  | .cbput _ => some ⟨.src, .no, .mem, .mem, .attr, .zero, .std⟩
  | .cbget _ => some ⟨.src, .no, .mem, .mem, .attr, .zero, .std⟩
  | .cbwait _ => some ⟨.src, .no, .mem, .mem, .attr, .zero, .std⟩
  | .cbroom _ => some ⟨.src, .no, .mem, .mem, .attr, .zero, .std⟩
  | .cntadd _ => some ⟨.src, .src, .mem, .mem, .attr, .zero, .std⟩
  | .mxi _ => some ⟨.netsf, .netsf, .xq, .yes, .attr, .zero, .std⟩
  | .mxis _ => some ⟨.netsf, .netsf, .xq, .yes, .attr, .zero, .std⟩
  | .mxz _ => some ⟨.netsf, .no, .yes, .yes, .attr, .zero, .std⟩
  | .mxpeek _ => some ⟨.netsf, .no, .yes, .yes, .attr, .zero, .std⟩
  | .mxrd _ => some ⟨.netsf, .no, .yes, .yes, .attr, .zero, .std⟩
  | .mxdr _ => some ⟨.netsf, .vec, .yes, .yes, .attr, .zero, .std⟩
  | .mxspl _ => some ⟨.netsf, .netsf, .yes, .yes, .attr, .zero, .std⟩
  | .mxfil _ => some ⟨.netsf, .netsf, .yes, .yes, .attr, .zero, .std⟩
  | .mxadd _ => some ⟨.netsf, .netsf, .yes, .yes, .attr, .zero, .std⟩
  | .mxcls _ => some ⟨.netsf, .no, .yes, .yes, .attr, .zero, .std⟩
  | .mxst _ => some ⟨.net, .no, .yes, .yes, .attr, .zero, .std⟩
  | .mxwt _ => some ⟨.netsf, .no, .yes, .yes, .attr, .zero, .std⟩
  | .mxpol _ => some ⟨.netsf, .no, .yes, .yes, .attr, .zero, .std⟩
  | .cfw _ => some ⟨.vp, .vp, .yes, .yes, .attr, .zero, .std⟩
  | .cfwr _ => some ⟨.vp, .optvp, .yes, .yes, .attr, .zero, .std⟩
  | .stamp _ => some ⟨.vp, .no, .yes, .yes, .attr, .zero, .std⟩
  | .disp _ => some ⟨.net, .no, .yes, .no, .attr, .zero, .std⟩
  | .binnx _ => some ⟨.net, .no, .yes, .yes, .attr, .zero, .std⟩
  | .binwt _ => some ⟨.net, .no, .yes, .yes, .attr, .zero, .std⟩
  | .cmbadd _ => some ⟨.net, .netsf, .yes, .yes, .attr, .zero, .std⟩
  | .cmbout _ => some ⟨.net, .no, .yes, .yes, .attr, .zero, .std⟩
  | .rwst _ => some ⟨.net, .no, .yes, .yes, .attr, .zero, .std⟩
  | _ => none

/-- The fields a format C word uses: register (1), channel or handle (2), or none (0) for d, a and b; and the signed
range of imm9 (R118, R198, R300, R324, R349, R373, R389, R412, R447, R460). -/
structure CSig where
  d : Nat
  a : Nat
  b : Nat
  lo : Int
  hi : Int
  deriving DecidableEq, Repr

/-- R300's table: the fields that a context instruction uses and the range of its imm9; none for every other instruction. -/
def Machine.contextSig : Instr → Option (CF × CSig)
  | .trap f => some (f, ⟨1, 1, 0, 0, 255⟩)
  | .brk f => some (f, ⟨0, 0, 0, 0, 255⟩)
  | .sysrd f => some (f, ⟨1, 0, 0, 0, 11⟩)
  | .syswr f => some (f, ⟨0, 1, 0, 3, 5⟩)
  | .marker f => some (f, ⟨1, 0, 0, 0, 0⟩)
  | .yield f => some (f, ⟨1, 0, 0, 0, 0⟩)
  | .halt f => some (f, ⟨0, 0, 0, 0, 0⟩)
  | .fltrd f => some (f, ⟨1, 1, 0, 0, 9⟩)
  | _ => none

/-- The signatures of sequencer words; none for what is no sequencer word. -/
def seqSig : Instr → Option (CF × CSig)
  | .seqAdd f => some (f, ⟨1, 1, 1, 0, 0⟩)
  | .seqSub f => some (f, ⟨1, 1, 1, 0, 0⟩)
  | .addi f => some (f, ⟨1, 1, 0, -256, 255⟩)
  | .seqMul f => some (f, ⟨1, 1, 1, 0, 0⟩)
  | .seqAnd f => some (f, ⟨1, 1, 1, 0, 0⟩)
  | .seqOr f => some (f, ⟨1, 1, 1, 0, 0⟩)
  | .seqXor f => some (f, ⟨1, 1, 1, 0, 0⟩)
  | .shli f => some (f, ⟨1, 1, 0, 0, 63⟩)
  | .shri f => some (f, ⟨1, 1, 0, 0, 63⟩)
  | .sari f => some (f, ⟨1, 1, 0, 0, 63⟩)
  | .li f _ => some (f, ⟨1, 0, 0, 0, 0⟩)
  | .lih f _ => some (f, ⟨1, 0, 0, 0, 0⟩)
  | .slt f => some (f, ⟨1, 1, 1, 0, 0⟩)
  | .sltn f => some (f, ⟨1, 1, 1, 0, 0⟩)
  | .beq f => some (f, ⟨0, 1, 1, -256, 255⟩)
  | .bne f => some (f, ⟨0, 1, 1, -256, 255⟩)
  | .blt f => some (f, ⟨0, 1, 1, -256, 255⟩)
  | .bge f => some (f, ⟨0, 1, 1, -256, 255⟩)
  | .bltn f => some (f, ⟨0, 1, 1, -256, 255⟩)
  | .bgen f => some (f, ⟨0, 1, 1, -256, 255⟩)
  | .jmp f _ => some (f, ⟨0, 0, 0, 0, 0⟩)
  | .jal f _ => some (f, ⟨1, 0, 0, 0, 0⟩)
  | .jr f => some (f, ⟨1, 1, 0, 0, 0⟩)
  | .ldg f => some (f, ⟨1, 1, 0, -256, 255⟩)
  | .stg f => some (f, ⟨0, 1, 1, -256, 255⟩)
  | .ldga f => some (f, ⟨1, 1, 0, 0, 5⟩)
  | .stgr f => some (f, ⟨0, 1, 1, 0, 5⟩)
  | .aaddg f => some (f, ⟨1, 1, 1, 0, 0⟩)
  | .acasg f => some (f, ⟨1, 1, 1, 0, 0⟩)
  | .fork f => some (f, ⟨0, 0, 0, 0, 3⟩)
  | .join f => some (f, ⟨0, 0, 0, 0, 0⟩)
  | .ctx f => some (f, ⟨0, 0, 0, 0, 3⟩)
  | .stage f => some (f, ⟨0, 1, 0, 0, 15⟩)
  | .pred f => some (f, ⟨0, 0, 0, 0, 31⟩)
  | .waitev f => some (f, ⟨1, 1, 0, 0, 3⟩)
  | .time f => some (f, ⟨1, 0, 0, 0, 0⟩)
  | .seqXfence f => some (f, ⟨0, 1, 1, 0, 127⟩)
  | .seam f => some (f, ⟨1, 1, 0, 0, 2⟩)
  | .guard f => some (f, ⟨1, 1, 0, 0, 2⟩)
  | .grpid f => some (f, ⟨1, 0, 0, 0, 2⟩)
  | .gang f => some (f, ⟨1, 0, 0, 0, 1⟩)
  | .barini f => some (f, ⟨1, 1, 1, 0, 0⟩)
  | .bararv f => some (f, ⟨1, 1, 0, 1, 255⟩)
  | .barwt f => some (f, ⟨1, 1, 1, 0, 0⟩)
  | .baraw f => some (f, ⟨1, 1, 0, 1, 255⟩)
  | .cntini f => some (f, ⟨1, 1, 1, 0, 0⟩)
  | .cntaddg f => some (f, ⟨1, 1, 1, 0, 0⟩)
  | .cntwz f => some (f, ⟨1, 1, 0, 0, 0⟩)
  | .quies f => some (f, ⟨1, 0, 0, 0, 1⟩)
  | .enq f => some (f, ⟨1, 1, 1, 0, 0⟩)
  | .pqpush f => some (f, ⟨1, 1, 1, 0, 0⟩)
  | .pqpop f => some (f, ⟨1, 1, 0, 0, 0⟩)
  | .dqpush f => some (f, ⟨1, 1, 0, 0, 0⟩)
  | .dqpop f => some (f, ⟨1, 0, 0, 0, 0⟩)
  | .dqsteal f => some (f, ⟨1, 0, 0, 0, 255⟩)
  | .cancel f => some (f, ⟨0, 0, 0, 1, 4⟩)
  | .seqDone f => some (f, ⟨0, 0, 0, 1, 4⟩)
  | .promote f => some (f, ⟨1, 1, 0, 0, 1⟩)
  | .demote f => some (f, ⟨1, 1, 0, 0, 1⟩)
  | .tlbinv f => some (f, ⟨0, 1, 0, 0, 1⟩)
  | .slways f => some (f, ⟨1, 1, 0, 0, 0⟩)
  | .bnkhint f => some (f, ⟨0, 1, 1, 0, 2⟩)
  | .pstat f => some (f, ⟨1, 1, 0, 0, 0⟩)
  | .bincfg f => some (f, ⟨0, 1, 1, 0, 0⟩)
  | .bintrg f => some (f, ⟨0, 1, 0, 0, 1⟩)
  | .binseal f => some (f, ⟨1, 1, 0, 0, 0⟩)
  | .cmbcfg f => some (f, ⟨0, 1, 0, 0, 0⟩)
  | .cmbwt f => some (f, ⟨1, 1, 0, 0, 0⟩)
  | .spillcfg f => some (f, ⟨0, 1, 0, 0, 0⟩)
  | .exmap f => some (f, ⟨0, 1, 0, 0, 3⟩)
  | .aredx f => some (f, ⟨1, 1, 0, 0, 0⟩)
  | .colwt f => some (f, ⟨1, 1, 0, 0, 1⟩)
  | .lnkst f => some (f, ⟨1, 0, 0, 0, 16⟩)
  | i => Machine.contextSig i

/-- The signatures of stream words; none for what is no stream word. -/
def strmSig : Instr → Option (CF × CSig)
  | .sopen f _ => some (f, ⟨2, 0, 0, 0, 0⟩)
  | .sclose f => some (f, ⟨2, 0, 0, 0, 0⟩)
  | .sld f => some (f, ⟨2, 1, 0, 0, 0⟩)
  | .sst f => some (f, ⟨2, 1, 0, 0, 0⟩)
  | .sgth f => some (f, ⟨2, 2, 0, 0, 0⟩)
  | .ssct f => some (f, ⟨2, 2, 0, 0, 0⟩)
  | .scpy f => some (f, ⟨2, 2, 1, 0, 0⟩)
  | .smc f => some (f, ⟨2, 1, 1, 0, 0⟩)
  | .scb f => some (f, ⟨2, 1, 1, 0, 0⟩)
  | .cbputs f => some (f, ⟨2, 1, 0, -256, 255⟩)
  | .cbwaits f => some (f, ⟨2, 1, 0, -256, 255⟩)
  | .swait f => some (f, ⟨2, 0, 0, 0, 0⟩)
  | .send f => some (f, ⟨0, 0, 0, 0, 0⟩)
  | .sloop f => some (f, ⟨1, 1, 1, 0, 0⟩)
  | .sbne f => some (f, ⟨0, 1, 1, -256, 255⟩)
  | _ => none

/-- Whether port code p is a network port (R109). -/
def isNet (p : Nat) : Bool := p ≤ 8

/-- Whether a source code of a node word fits its kind. -/
def srcOk (k : SrcKind) (p : Nat) : Bool :=
  match k with
  | .no => p == 15
  | .net => p ≤ 8
  | .any => p ≤ 10
  | .opt => p ≤ 10 || p == 15
  | .anyf | .netsf => p ≤ 8 || p == 10
  | .optf => p ≤ 8 || p == 10 || p == 15
  | .vec => (4 ≤ p && p ≤ 7) || p == 10
  | .vp | .vecnet => 4 ≤ p && p ≤ 7
  | .optvp => (4 ≤ p && p ≤ 7) || p == 15
  | .lt => p == 9
  | .ltsf => p == 9 || p == 10
  | .src => p ≤ 8 || p == 10 || p == 11
  | .vsrc => (4 ≤ p && p ≤ 7) || p == 10 || p == 11

/-- Whether a destination code of a node word fits its kind. -/
def dstOk (k : DstKind) (p : Nat) : Bool :=
  match k with
  | .no => p == 15
  | .yes => p ≤ 8 || p == 10 || p == 15
  | .nosf => p ≤ 8 || p == 15
  | .mem => p ≤ 8 || p == 10 || p == 11 || p == 15
  | .xq => p == 12 || p == 13

/-- Whether a source code of a node gives a vector operand (R135). -/
def isVecSrc (p : Nat) : Bool := (4 ≤ p && p ≤ 7) || p == 10

/-- Whether a source code of a snippet word gives a vector operand: in.a and in.b have the widths of the SNIP node's operands (R135). -/
def snipVecSrc (sn : NF) (p : Nat) : Bool :=
  p ≤ 7 || (p == 8 && isVecSrc sn.a.toNat) || (p == 9 && isVecSrc sn.b.toNat) || p == 12

/-- Whether a source code of a snippet word fits its kind (R117): temporaries, in.a, in.b, sf, lt; sn is the SNIP node. A word that may
not name lt as a node may not name it in a snippet (R159; DEDUCED beside R117's code 13, log 33). -/
def snipSrcOk (sn : NF) (k : SrcKind) (p : Nat) : Bool :=
  match k with
  | .no => p == 15
  | .opt => p ≤ 9 || p == 12 || p == 13 || p == 15
  | .optf => p ≤ 9 || p == 12 || p == 15
  | .anyf => p ≤ 9 || p == 12
  | .vec => snipVecSrc sn p
  | _ => p ≤ 9 || p == 12 || p == 13

/-- Whether a destination code of a snippet word is permitted (R117). -/
def snipDstOk (p : Nat) : Bool := p ≤ 7 || (10 ≤ p && p ≤ 12) || p == 15

/-- The m field (R112). -/
def mOk (r : MRule) (m : Nat) : Bool :=
  match r with
  | .zero => m == 0
  | .round => m % 8 != 6
  | .cond6 => m ≤ 5
  | .cond8 => m ≤ 7
  | .two => m ≤ 1
  | .red => m == 7 || m == 10 || m == 11
  | .pack => m == 0 || m == 1 || m == 8 || m == 9 || m == 14

/-- The tag action field (R111). -/
def tgOk (r : TgRule) (tg b : Nat) : Bool :=
  match r with
  | .std => (tg ≤ 3 || tg == 6 || tg == 7) && (tg != 3 || b ≤ 8)
  | .call => tg == 4
  | .ret => tg == 5

/-- Whether (SRC, DST) is a pair that R51 lists for the opcode (R116). -/
def fmtOk (i : Instr) (src dst : Nat) : Bool :=
  let fl := fun t => t == 5 || t == 6 || t == 7
  let it := fun t => t == 0 || t == 1 || (8 ≤ t && t ≤ 11)
  match i with
  | .cvtf _ => fl src && fl dst && src != dst
  | .cvte _ => (fl src && (dst == 2 || dst == 3)) || ((src == 2 || src == 3) && (fl dst || (dst == 2 || dst == 3) && src != dst))
  | .cvtq _ => (fl src && dst == 4) || (src == 4 && fl dst)
  | .cvtfi _ => fl src && it dst
  | .cvtif _ => it src && fl dst
  | .xpnd _ => ((src == 12 || src == 14) && (dst == 2 || dst == 3)) || (src == 13 && dst == 2) || (src == 15 && dst == 4)
  | _ => false

/-- What CVTQ and XPND ask of B (R168, R169): required vector, none, optional part, or required scalar. -/
def fmtBOk (i : Instr) (src dst b : Nat) (vecB scB : Nat → Bool) : Bool :=
  match i with
  | .cvtq _ => if src == 7 then vecB b else if dst == 7 then true else b == 15
  | .xpnd _ => if src == 15 then b != 15 && scB b else if src == 14 then true else b == 15
  | _ => true

/-- The memory attribute word (R176, R177), by node opcode. -/
def attrOk (op lit : Nat) : Bool :=
  let seqs := fld lit 31 28
  let seqb := fld lit 27 24
  let win := fld lit 19 16
  let hint := fld lit 15 14
  let path := fld lit 13 13
  let ord := fld lit 12 11
  let scope := fld lit 10 8
  let esz := fld lit 7 6
  let wid := fld lit 5 0
  let common := hint != 3 && scope ≤ 5 && esz != 3 && (esz == 2 || wid == 0) && seqb ≤ seqs
  let ldOrd := ord == 0 || ord == 1
  let stOrd := ord == 0 || ord == 2
  let xw := esz == 0 || (esz == 2 && (wid == 0 || wid == 1 || wid == 3))
  match op with
  | 0x70 => common && ldOrd && hint != 2
  | 0x71 => common && stOrd
  | 0x72 => common && ldOrd && hint != 2 && xw
  | 0x73 => common && stOrd && xw
  | 0x74 => common && ldOrd && hint == 0 && path == 0 && win == 0
  | 0x75 => common && stOrd && hint == 0 && path == 0 && win == 0
  | 0x81 => common && win == 0 && hint == 0 && path == 0 && esz == 0 && ord != 0
  | 0x82 => lit % 128 != 0 && fld lit 7 7 == 0 && fld lit 15 15 == 0 && scope' lit ≤ 5 && fld lit 31 19 == 0
  | 0x83 => common && seqs == 0 && seqb == 0 && path == 0 && ord == 0 && esz == 0 && hint != 2
  | 0x84 => common && seqs == 0 && seqb == 0 && hint == 0 && path == 0 && ord == 0 && esz == 0
  | 0x89 => lit == (scope <<< 8) + (ord <<< 11) && scope ≤ 5 && stOrd
  | _ =>
    if 0x76 ≤ op && op ≤ 0x80 then common && hint == 0 && wid == 0 && esz == 0
    else if 0x85 ≤ op && op ≤ 0x88 then lit < 16 else false
where
  /-- SCOPE of a path word (R189). -/
  scope' (lit : Nat) : Nat := fld lit 18 16

/-- The attribute words of matrix and row nodes (R212, R214, R225, R228-R230, R425-R429, R446). -/
def unitAttrOk (op lit : Nat) : Bool :=
  match op with
  | 0x90 | 0x91 => fld lit 15 8 == 0 && fld lit 3 2 == 0
  | 0x95 =>
    let dst := fld lit 23 20
    fld lit 26 24 == 0 && fld lit 15 7 == 0 && (dst == 0 || dst == 2 || dst == 3 || dst == 5 || dst == 6 || dst == 7 || dst == 10)
      && fld lit 18 16 != 6 && (bitAt lit 27 || fld lit 31 28 == 0)
  | 0x96 | 0x97 => fld lit 31 20 == 0 && fld lit 15 0 == 0
  | 0x98 => fld lit 31 20 == 0 && fld lit 15 2 == 0
  | 0x99 => lit ≤ 2
  | 0xA0 => lit ≤ 1
  | 0xA1 => lit < 256 && (bitAt lit 6 || lit == 0)
  | 0xA2 => lit < 128
  | 0xA3 => lit < 4
  | _ => lit == 0

/-- The literal of a node word (R115). -/
def litOk (i : Instr) (r : LitRole) (lit b : Nat) : Bool :=
  match r with
  | .operand => true
  | .call => lit < 2 ^ 13
  | .fmt => lit < 256 && fmtOk i (lit % 16) (lit / 16) && fmtBOk i (lit % 16) (lit / 16) b (fun p => (4 ≤ p && p ≤ 7) || p == 10) fun p => p ≤ 3 || p == 8
  | .attr => if nodeOpAttr i < 0x90 then attrOk (nodeOpAttr i) lit else unitAttrOk (nodeOpAttr i) lit
where
  /-- The opcode of a node whose literal is an attribute word. -/
  nodeOpAttr : Instr → Nat
    | .ld _ => 0x70
    | .st _ => 0x71
    | .ldx _ => 0x72
    | .stx _ => 0x73
    | .lds _ => 0x74
    | .sts _ => 0x75
    | .aadd _ => 0x76
    | .afadd _ => 0x77
    | .amin _ => 0x78
    | .amax _ => 0x79
    | .aminn _ => 0x7a
    | .amaxn _ => 0x7b
    | .aand _ => 0x7c
    | .aor _ => 0x7d
    | .axor _ => 0x7e
    | .axch _ => 0x7f
    | .acas _ => 0x80
    | .fence _ => 0x81
    | .xfence _ => 0x82
    | .prft _ => 0x83
    | .wbl _ => 0x84
    | .cbput _ => 0x85
    | .cbget _ => 0x86
    | .cbwait _ => 0x87
    | .cbroom _ => 0x88
    | .cntadd _ => 0x89
    | .mxi _ => 0x90
    | .mxis _ => 0x91
    | .mxz _ => 0x92
    | .mxpeek _ => 0x93
    | .mxrd _ => 0x94
    | .mxdr _ => 0x95
    | .mxspl _ => 0x96
    | .mxfil _ => 0x97
    | .mxadd _ => 0x98
    | .mxcls _ => 0x99
    | .mxst _ => 0x9a
    | .mxwt _ => 0x9b
    | .mxpol _ => 0x9c
    | .cfw _ => 0xa0
    | .cfwr _ => 0xa1
    | .stamp _ => 0xa2
    | .disp _ => 0xa3
    | .binnx _ => 0xa4
    | .binwt _ => 0xa5
    | .cmbadd _ => 0xa6
    | .cmbout _ => 0xa7
    | .rwst _ => 0xa8
    | _ => 0

/-- A node word that the loader accepts in a slot whatever its literal (R109-R114, R136 and the entries): END never, the
others by their signature, with a network port among the sources and no port named twice. -/
def Machine.wordOk (i : Instr) (f : NF) : Bool :=
  match sig i with
  | none => false
  | some g =>
    let a := f.a.toNat
    let b := f.b.toNat
    let x := f.x.toNat
    let y := f.y.toNat
    let mem := g.x == .mem
    let netA := isNet a || (mem && a == 11)
    let netB := isNet b || (mem && b == 11)
    !isEnd i && srcOk g.a a && srcOk g.b b && dstOk g.x x && dstOk g.y y && (x == 15 || x != y)
      && (netA || netB) && !(isNet a && a == b) && tgOk g.tg f.tg.toNat b && mOk g.m f.m.toNat
where
  /-- END stands only inside a snippet (R140). -/
  isEnd : Instr → Bool
    | .snipEnd _ => true
    | _ => false

/-- A node word with its literal that the loader accepts in a slot (R109-R116, R136 and the entries). -/
def nodeOk (i : Instr) (f : NF) (lit : Word) : Bool :=
  Machine.wordOk i f && (match sig i with | some g => litOk i g.lit lit.toNat f.b.toNat | none => false) && leafOk i f.b.toNat lit.toNat
where
  /-- CFWR reads B exactly with LEAF = 0 (R426). -/
  leafOk (i : Instr) (b lit : Nat) : Bool :=
    match i with
    | .cfwr _ => bitAt lit 6 == (b == 15)
    | _ => true

/-- A snippet word that the loader accepts in the snippet of a SNIP node whatever its slot's literal (R95, R117). -/
def Machine.snipWordOk (sn : NF) (i : Instr) (f : NF) (op : Nat) : Bool :=
  if op == 0x30 then f == ⟨0, 0, 0, 0, 0, 0⟩ else
  match sig i with
  | none => false
  | some g =>
    ((1 ≤ op && op ≤ 0x1F) || (0x40 ≤ op && op ≤ 0x5F)) && snipSrcOk sn g.a f.a.toNat && snipSrcOk sn g.b f.b.toNat
      && snipDstOk f.x.toNat && snipDstOk f.y.toNat && (f.x == 15 || f.x != f.y) && f.tg == 0 && mOk g.m f.m.toNat

/-- A snippet word with its slot's literal that the loader accepts in the snippet of a SNIP node (R95, R117). -/
def snipOk (sn : NF) (i : Instr) (f : NF) (op : Nat) (lit : Word) : Bool :=
  Machine.snipWordOk sn i f op && (if op == 0x30 then lit == 0 else
    match sig i with
    | none => false
    | some g => if g.lit == .fmt then lit.toNat < 256 && fmtOk i (lit.toNat % 16) (lit.toNat / 16)
          && fmtBOk i (lit.toNat % 16) (lit.toNat / 16) f.b.toNat (snipVecSrc sn) (fun p => (p == 8 || p == 9) && !snipVecSrc sn p)
        else lit == 0)

/-- The fields of a format C word against its signature (R118): unused fields 0, channels and handles below 16, imm9 in
range. -/
def cfOk (f : CF) (g : CSig) : Bool :=
  let reg := fun (k v : Nat) => k == 1 || (k == 2 && v < 16) || (k == 0 && v == 0)
  reg g.d f.d.toNat && reg g.a f.a.toNat && reg g.b f.b.toNat
    && decide (g.lo ≤ f.imm.toInt) && decide (f.imm.toInt ≤ g.hi)

/-- A sequencer word that the loader accepts (R118, R122, R300, R324, R349, R373, R389, R412, R447, R460). -/
def seqOk (i : Instr) : Bool :=
  match seqSig i with
  | none => false
  | some (f, g) => cfOk f g && (match i with
    | .seqXfence f => f.imm != 0 && fld f.b.toNat 4 2 ≤ 5
    | _ => true)

/-- A stream word that the loader accepts (R197, R198). -/
def strmOk (i : Instr) : Bool :=
  match strmSig i with
  | none => false
  | some (f, g) => cfOk f g && (match i with
    | .scpy f => f.b.toNat % 2 == 0
    | _ => true)

/-- Whether a control word is one the loader accepts in its program. -/
def ctlFits (i : Instr) : Bool := seqOk i || strmOk i

/-- An instruction that the loader accepts somewhere: a node word with some literal, a snippet word, or a control
word. The literals tried are one of each role. -/
def wordOk (i : Instr) (lit : Word) : Bool :=
  match sig i with
  | some _ => nodeOk i (nodeF i) lit || snipOk ⟨0, 0, 4, 4, 0, 0⟩ i (nodeF i) (nodeO i) lit || snipOk ⟨0, 0, 0, 0, 0, 0⟩ i (nodeF i) (nodeO i) lit
  | none => ctlFits i
where
  /-- The fields of a node word. -/
  nodeF : Instr → NF
    | .add f => f
    | .sub f => f
    | .adds f => f
    | .subs f => f
    | .mul f => f
    | .mulh f => f
    | .mulhn f => f
    | .min f => f
    | .max f => f
    | .minn f => f
    | .maxn f => f
    | .abs f => f
    | .neg f => f
    | .and f => f
    | .or f => f
    | .xor f => f
    | .andn f => f
    | .not f => f
    | .shl f => f
    | .shr f => f
    | .sar f => f
    | .rot f => f
    | .clz f => f
    | .popc f => f
    | .brev f => f
    | .lea f => f
    | .cmp f => f
    | .cmpn f => f
    | .tst f => f
    | .sel f => f
    | .mov f => f
    | .steer f => f
    | .merge f => f
    | .gate f => f
    | .copy f => f
    | .sink f => f
    | .const f => f
    | .filt f => f
    | .cmpct f => f
    | .iter f => f
    | .done f => f
    | .mark f => f
    | .call f => f
    | .ret f => f
    | .tagrd f => f
    | .tagwr f => f
    | .snip f => f
    | .snipEnd f => f
    | .errchk f => f
    | .sync f => f
    | .count f => f
    | .fadd f => f
    | .fsub f => f
    | .fmul f => f
    | .fma f => f
    | .fmin f => f
    | .fmax f => f
    | .fabs f => f
    | .fneg f => f
    | .fcmp f => f
    | .frcp f => f
    | .frsq f => f
    | .fex2 f => f
    | .flg2 f => f
    | .fcls f => f
    | .hadd f => f
    | .hmul f => f
    | .hfma f => f
    | .cvtf f => f
    | .cvte f => f
    | .cvtq f => f
    | .xpnd f => f
    | .cvtfi f => f
    | .cvtif f => f
    | .seed f => f
    | .rsum f => f
    | .rmin f => f
    | .rmax f => f
    | .shuf f => f
    | .bcast f => f
    | .pack f => f
    | .unpk f => f
    | .lane f => f
    | .ld f => f
    | .st f => f
    | .ldx f => f
    | .stx f => f
    | .lds f => f
    | .sts f => f
    | .aadd f => f
    | .afadd f => f
    | .amin f => f
    | .amax f => f
    | .aminn f => f
    | .amaxn f => f
    | .aand f => f
    | .aor f => f
    | .axor f => f
    | .axch f => f
    | .acas f => f
    | .fence f => f
    | .xfence f => f
    | .prft f => f
    | .wbl f => f
    | .cbput f => f
    | .cbget f => f
    | .cbwait f => f
    | .cbroom f => f
    | .cntadd f => f
    | .mxi f => f
    | .mxis f => f
    | .mxz f => f
    | .mxpeek f => f
    | .mxrd f => f
    | .mxdr f => f
    | .mxspl f => f
    | .mxfil f => f
    | .mxadd f => f
    | .mxcls f => f
    | .mxst f => f
    | .mxwt f => f
    | .mxpol f => f
    | .cfw f => f
    | .cfwr f => f
    | .stamp f => f
    | .disp f => f
    | .binnx f => f
    | .binwt f => f
    | .cmbadd f => f
    | .cmbout f => f
    | .rwst f => f
    | _ => ⟨15, 15, 15, 15, 15, 15⟩

  /-- The opcode of a node word. -/
  nodeO : Instr → Nat
    | .add _ => 0x01
    | .sub _ => 0x02
    | .adds _ => 0x03
    | .subs _ => 0x04
    | .mul _ => 0x05
    | .mulh _ => 0x06
    | .mulhn _ => 0x07
    | .min _ => 0x08
    | .max _ => 0x09
    | .minn _ => 0x0a
    | .maxn _ => 0x0b
    | .abs _ => 0x0c
    | .neg _ => 0x0d
    | .and _ => 0x0e
    | .or _ => 0x0f
    | .xor _ => 0x10
    | .andn _ => 0x11
    | .not _ => 0x12
    | .shl _ => 0x13
    | .shr _ => 0x14
    | .sar _ => 0x15
    | .rot _ => 0x16
    | .clz _ => 0x17
    | .popc _ => 0x18
    | .brev _ => 0x19
    | .lea _ => 0x1a
    | .cmp _ => 0x1b
    | .cmpn _ => 0x1c
    | .tst _ => 0x1d
    | .sel _ => 0x1e
    | .mov _ => 0x1f
    | .steer _ => 0x20
    | .merge _ => 0x21
    | .gate _ => 0x22
    | .copy _ => 0x23
    | .sink _ => 0x24
    | .const _ => 0x25
    | .filt _ => 0x26
    | .cmpct _ => 0x27
    | .iter _ => 0x28
    | .done _ => 0x29
    | .mark _ => 0x2a
    | .call _ => 0x2b
    | .ret _ => 0x2c
    | .tagrd _ => 0x2d
    | .tagwr _ => 0x2e
    | .snip _ => 0x2f
    | .snipEnd _ => 0x30
    | .errchk _ => 0x31
    | .sync _ => 0x32
    | .count _ => 0x33
    | .fadd _ => 0x40
    | .fsub _ => 0x41
    | .fmul _ => 0x42
    | .fma _ => 0x43
    | .fmin _ => 0x44
    | .fmax _ => 0x45
    | .fabs _ => 0x46
    | .fneg _ => 0x47
    | .fcmp _ => 0x48
    | .frcp _ => 0x49
    | .frsq _ => 0x4a
    | .fex2 _ => 0x4b
    | .flg2 _ => 0x4c
    | .fcls _ => 0x4d
    | .hadd _ => 0x4e
    | .hmul _ => 0x4f
    | .hfma _ => 0x50
    | .cvtf _ => 0x51
    | .cvte _ => 0x52
    | .cvtq _ => 0x53
    | .xpnd _ => 0x54
    | .cvtfi _ => 0x55
    | .cvtif _ => 0x56
    | .seed _ => 0x57
    | .rsum _ => 0x58
    | .rmin _ => 0x59
    | .rmax _ => 0x5a
    | .shuf _ => 0x5b
    | .bcast _ => 0x5c
    | .pack _ => 0x5d
    | .unpk _ => 0x5e
    | .lane _ => 0x5f
    | .ld _ => 0x70
    | .st _ => 0x71
    | .ldx _ => 0x72
    | .stx _ => 0x73
    | .lds _ => 0x74
    | .sts _ => 0x75
    | .aadd _ => 0x76
    | .afadd _ => 0x77
    | .amin _ => 0x78
    | .amax _ => 0x79
    | .aminn _ => 0x7a
    | .amaxn _ => 0x7b
    | .aand _ => 0x7c
    | .aor _ => 0x7d
    | .axor _ => 0x7e
    | .axch _ => 0x7f
    | .acas _ => 0x80
    | .fence _ => 0x81
    | .xfence _ => 0x82
    | .prft _ => 0x83
    | .wbl _ => 0x84
    | .cbput _ => 0x85
    | .cbget _ => 0x86
    | .cbwait _ => 0x87
    | .cbroom _ => 0x88
    | .cntadd _ => 0x89
    | .mxi _ => 0x90
    | .mxis _ => 0x91
    | .mxz _ => 0x92
    | .mxpeek _ => 0x93
    | .mxrd _ => 0x94
    | .mxdr _ => 0x95
    | .mxspl _ => 0x96
    | .mxfil _ => 0x97
    | .mxadd _ => 0x98
    | .mxcls _ => 0x99
    | .mxst _ => 0x9a
    | .mxwt _ => 0x9b
    | .mxpol _ => 0x9c
    | .cfw _ => 0xa0
    | .cfwr _ => 0xa1
    | .stamp _ => 0xa2
    | .disp _ => 0xa3
    | .binnx _ => 0xa4
    | .binwt _ => 0xa5
    | .cmbadd _ => 0xa6
    | .cmbout _ => 0xa7
    | .rwst _ => 0xa8
    | _ => 0

/-- A literal that suits a node word's role: a format word that R51 lists for it, an attribute word its entry accepts,
or 0. Used only where a word comes without its slot (log 6). -/
def defaultLit (i : Instr) : Word :=
  match i with
  | .cvtf _ => 0x57
  | .cvte _ => 0x27
  | .cvtq f => if f.b == 15 then 0x45 else 0x47
  | .xpnd f => if f.b == 15 then 0x2C else 0x4F
  | .cvtfi _ => 0xA7
  | .cvtif _ => 0x7A
  | .fence _ => 0x800
  | .xfence _ => 1
  | .mxdr _ => 0x00700000
  | .cfwr f => if f.b == 15 then 0x40 else 0
  | _ => 0

/-- A node word that the loader accepts with its default literal. -/
def nodeFits (i : Instr) : Bool := wordOk i (defaultLit i) && (sig i).isSome

end Sys2Proof
end

