-- ==== Sys2Proof/Decode.lean ====
section
/-! DEFINITION. The decoder of the two formats (R108, R118-R121), total on any word, and the encoder. -/

namespace Sys2Proof

/-- The opcode, bits 31:24 of a word of either format (R108, R118). -/
def opOf (w : Word) : Nat := w.toNat / 2 ^ 24

/-- The fields of a format N word (R108). -/
def nfOf (w : Word) : NF :=
  ⟨w.extractLsb' 20 4, w.extractLsb' 16 4, w.extractLsb' 12 4, w.extractLsb' 8 4, w.extractLsb' 4 4, w.extractLsb' 0 4⟩

/-- The fields of a format C word (R118). -/
def cfOf (w : Word) : CF := ⟨w.extractLsb' 19 5, w.extractLsb' 14 5, w.extractLsb' 9 5, w.extractLsb' 0 9⟩

/-- The word of an opcode and format N fields. -/
def packN (op : BitVec 8) (f : NF) : Word := op ++ f.a ++ f.b ++ f.x ++ f.y ++ f.tg ++ f.m

/-- The word of an opcode and format C fields. -/
def packC (op : BitVec 8) (f : CF) : Word := op ++ f.d ++ f.a ++ f.b ++ f.imm

/-- The instruction of an opcode and its fields in the node map (R120); none at an unassigned opcode. -/
def nodeAt (op : Nat) (f : NF) : Option Instr :=
  match op with
  | 0x01 => some (.add f)
  | 0x02 => some (.sub f)
  | 0x03 => some (.adds f)
  | 0x04 => some (.subs f)
  | 0x05 => some (.mul f)
  | 0x06 => some (.mulh f)
  | 0x07 => some (.mulhn f)
  | 0x08 => some (.min f)
  | 0x09 => some (.max f)
  | 0x0a => some (.minn f)
  | 0x0b => some (.maxn f)
  | 0x0c => some (.abs f)
  | 0x0d => some (.neg f)
  | 0x0e => some (.and f)
  | 0x0f => some (.or f)
  | 0x10 => some (.xor f)
  | 0x11 => some (.andn f)
  | 0x12 => some (.not f)
  | 0x13 => some (.shl f)
  | 0x14 => some (.shr f)
  | 0x15 => some (.sar f)
  | 0x16 => some (.rot f)
  | 0x17 => some (.clz f)
  | 0x18 => some (.popc f)
  | 0x19 => some (.brev f)
  | 0x1a => some (.lea f)
  | 0x1b => some (.cmp f)
  | 0x1c => some (.cmpn f)
  | 0x1d => some (.tst f)
  | 0x1e => some (.sel f)
  | 0x1f => some (.mov f)
  | 0x20 => some (.steer f)
  | 0x21 => some (.merge f)
  | 0x22 => some (.gate f)
  | 0x23 => some (.copy f)
  | 0x24 => some (.sink f)
  | 0x25 => some (.const f)
  | 0x26 => some (.filt f)
  | 0x27 => some (.cmpct f)
  | 0x28 => some (.iter f)
  | 0x29 => some (.done f)
  | 0x2a => some (.mark f)
  | 0x2b => some (.call f)
  | 0x2c => some (.ret f)
  | 0x2d => some (.tagrd f)
  | 0x2e => some (.tagwr f)
  | 0x2f => some (.snip f)
  | 0x30 => some (.snipEnd f)
  | 0x31 => some (.errchk f)
  | 0x32 => some (.sync f)
  | 0x33 => some (.count f)
  | 0x40 => some (.fadd f)
  | 0x41 => some (.fsub f)
  | 0x42 => some (.fmul f)
  | 0x43 => some (.fma f)
  | 0x44 => some (.fmin f)
  | 0x45 => some (.fmax f)
  | 0x46 => some (.fabs f)
  | 0x47 => some (.fneg f)
  | 0x48 => some (.fcmp f)
  | 0x49 => some (.frcp f)
  | 0x4a => some (.frsq f)
  | 0x4b => some (.fex2 f)
  | 0x4c => some (.flg2 f)
  | 0x4d => some (.fcls f)
  | 0x4e => some (.hadd f)
  | 0x4f => some (.hmul f)
  | 0x50 => some (.hfma f)
  | 0x51 => some (.cvtf f)
  | 0x52 => some (.cvte f)
  | 0x53 => some (.cvtq f)
  | 0x54 => some (.xpnd f)
  | 0x55 => some (.cvtfi f)
  | 0x56 => some (.cvtif f)
  | 0x57 => some (.seed f)
  | 0x58 => some (.rsum f)
  | 0x59 => some (.rmin f)
  | 0x5a => some (.rmax f)
  | 0x5b => some (.shuf f)
  | 0x5c => some (.bcast f)
  | 0x5d => some (.pack f)
  | 0x5e => some (.unpk f)
  | 0x5f => some (.lane f)
  | 0x70 => some (.ld f)
  | 0x71 => some (.st f)
  | 0x72 => some (.ldx f)
  | 0x73 => some (.stx f)
  | 0x74 => some (.lds f)
  | 0x75 => some (.sts f)
  | 0x76 => some (.aadd f)
  | 0x77 => some (.afadd f)
  | 0x78 => some (.amin f)
  | 0x79 => some (.amax f)
  | 0x7a => some (.aminn f)
  | 0x7b => some (.amaxn f)
  | 0x7c => some (.aand f)
  | 0x7d => some (.aor f)
  | 0x7e => some (.axor f)
  | 0x7f => some (.axch f)
  | 0x80 => some (.acas f)
  | 0x81 => some (.fence f)
  | 0x82 => some (.xfence f)
  | 0x83 => some (.prft f)
  | 0x84 => some (.wbl f)
  | 0x85 => some (.cbput f)
  | 0x86 => some (.cbget f)
  | 0x87 => some (.cbwait f)
  | 0x88 => some (.cbroom f)
  | 0x89 => some (.cntadd f)
  | 0x90 => some (.mxi f)
  | 0x91 => some (.mxis f)
  | 0x92 => some (.mxz f)
  | 0x93 => some (.mxpeek f)
  | 0x94 => some (.mxrd f)
  | 0x95 => some (.mxdr f)
  | 0x96 => some (.mxspl f)
  | 0x97 => some (.mxfil f)
  | 0x98 => some (.mxadd f)
  | 0x99 => some (.mxcls f)
  | 0x9a => some (.mxst f)
  | 0x9b => some (.mxwt f)
  | 0x9c => some (.mxpol f)
  | 0xa0 => some (.cfw f)
  | 0xa1 => some (.cfwr f)
  | 0xa2 => some (.stamp f)
  | 0xa3 => some (.disp f)
  | 0xa4 => some (.binnx f)
  | 0xa5 => some (.binwt f)
  | 0xa6 => some (.cmbadd f)
  | 0xa7 => some (.cmbout f)
  | 0xa8 => some (.rwst f)
  | _ => none

/-- A node or snippet word by the node map (R120). -/
def decodeNode (w : Word) : Option Instr := nodeAt (opOf w) (nfOf w)

/-- The sequencer instruction of an opcode, its fields and the word that follows (R121, rows 0-5 of the control map). -/
def seqAt (op : Nat) (f : CF) (imm32 : Word) : Option Instr :=
  match op with
  | 0x01 => some (.seqAdd f)
  | 0x02 => some (.seqSub f)
  | 0x03 => some (.addi f)
  | 0x04 => some (.seqMul f)
  | 0x05 => some (.seqAnd f)
  | 0x06 => some (.seqOr f)
  | 0x07 => some (.seqXor f)
  | 0x08 => some (.shli f)
  | 0x09 => some (.shri f)
  | 0x0a => some (.sari f)
  | 0x0b => some (.li f imm32)
  | 0x0c => some (.lih f imm32)
  | 0x0d => some (.slt f)
  | 0x0e => some (.sltn f)
  | 0x10 => some (.beq f)
  | 0x11 => some (.bne f)
  | 0x12 => some (.blt f)
  | 0x13 => some (.bge f)
  | 0x14 => some (.bltn f)
  | 0x15 => some (.bgen f)
  | 0x16 => some (.jmp f imm32)
  | 0x17 => some (.jal f imm32)
  | 0x18 => some (.jr f)
  | 0x19 => some (.ldg f)
  | 0x1a => some (.stg f)
  | 0x1b => some (.ldga f)
  | 0x1c => some (.stgr f)
  | 0x1d => some (.aaddg f)
  | 0x1e => some (.acasg f)
  | 0x20 => some (.fork f)
  | 0x21 => some (.join f)
  | 0x22 => some (.ctx f)
  | 0x23 => some (.stage f)
  | 0x24 => some (.pred f)
  | 0x25 => some (.waitev f)
  | 0x26 => some (.time f)
  | 0x27 => some (.seqXfence f)
  | 0x28 => some (.seam f)
  | 0x29 => some (.guard f)
  | 0x2a => some (.grpid f)
  | 0x2b => some (.gang f)
  | 0x30 => some (.barini f)
  | 0x31 => some (.bararv f)
  | 0x32 => some (.barwt f)
  | 0x33 => some (.baraw f)
  | 0x34 => some (.cntini f)
  | 0x35 => some (.cntaddg f)
  | 0x36 => some (.cntwz f)
  | 0x37 => some (.quies f)
  | 0x38 => some (.enq f)
  | 0x39 => some (.pqpush f)
  | 0x3a => some (.pqpop f)
  | 0x3b => some (.dqpush f)
  | 0x3c => some (.dqpop f)
  | 0x3d => some (.dqsteal f)
  | 0x3e => some (.cancel f)
  | 0x3f => some (.seqDone f)
  | 0x40 => some (.promote f)
  | 0x41 => some (.demote f)
  | 0x42 => some (.tlbinv f)
  | 0x43 => some (.slways f)
  | 0x44 => some (.bnkhint f)
  | 0x45 => some (.pstat f)
  | 0x48 => some (.bincfg f)
  | 0x49 => some (.bintrg f)
  | 0x4a => some (.binseal f)
  | 0x4b => some (.cmbcfg f)
  | 0x4c => some (.cmbwt f)
  | 0x4d => some (.spillcfg f)
  | 0x4e => some (.exmap f)
  | 0x50 => some (.trap f)
  | 0x51 => some (.brk f)
  | 0x52 => some (.sysrd f)
  | 0x53 => some (.syswr f)
  | 0x54 => some (.marker f)
  | 0x55 => some (.yield f)
  | 0x56 => some (.halt f)
  | 0x57 => some (.fltrd f)
  | 0x58 => some (.aredx f)
  | 0x59 => some (.colwt f)
  | 0x5a => some (.lnkst f)
  | _ => none

/-- A sequencer word (R121), with the word that follows it. -/
def decodeSeq (w imm32 : Word) : Option Instr := seqAt (opOf w) (cfOf w) imm32

/-- The stream command of an opcode, its fields and the word that follows (R121, row 0xC of the control map). -/
def strmAt (op : Nat) (f : CF) (imm32 : Word) : Option Instr :=
  match op with
  | 0xc0 => some (.sopen f imm32)
  | 0xc1 => some (.sclose f)
  | 0xc2 => some (.sld f)
  | 0xc3 => some (.sst f)
  | 0xc4 => some (.sgth f)
  | 0xc5 => some (.ssct f)
  | 0xc6 => some (.scpy f)
  | 0xc7 => some (.smc f)
  | 0xc8 => some (.scb f)
  | 0xc9 => some (.cbputs f)
  | 0xca => some (.cbwaits f)
  | 0xcb => some (.swait f)
  | 0xcc => some (.send f)
  | 0xcd => some (.sloop f)
  | 0xce => some (.sbne f)
  | _ => none

/-- A stream word (R121), with the word that follows it. -/
def decodeStrm (w imm32 : Word) : Option Instr := strmAt (opOf w) (cfOf w) imm32

/-- Whether an opcode of the control map is a CL instruction of two words (R121). -/
def isLong (op : Nat) : Bool := op == 0x0B || op == 0x0C || op == 0x16 || op == 0x17 || op == 0xC0

/-- The words of an instruction, first word first; none for an event, which has no encoding. -/
def encode : Instr → List Word
  | .add f => [packN 0x01 f]
  | .sub f => [packN 0x02 f]
  | .adds f => [packN 0x03 f]
  | .subs f => [packN 0x04 f]
  | .mul f => [packN 0x05 f]
  | .mulh f => [packN 0x06 f]
  | .mulhn f => [packN 0x07 f]
  | .min f => [packN 0x08 f]
  | .max f => [packN 0x09 f]
  | .minn f => [packN 0x0a f]
  | .maxn f => [packN 0x0b f]
  | .abs f => [packN 0x0c f]
  | .neg f => [packN 0x0d f]
  | .and f => [packN 0x0e f]
  | .or f => [packN 0x0f f]
  | .xor f => [packN 0x10 f]
  | .andn f => [packN 0x11 f]
  | .not f => [packN 0x12 f]
  | .shl f => [packN 0x13 f]
  | .shr f => [packN 0x14 f]
  | .sar f => [packN 0x15 f]
  | .rot f => [packN 0x16 f]
  | .clz f => [packN 0x17 f]
  | .popc f => [packN 0x18 f]
  | .brev f => [packN 0x19 f]
  | .lea f => [packN 0x1a f]
  | .cmp f => [packN 0x1b f]
  | .cmpn f => [packN 0x1c f]
  | .tst f => [packN 0x1d f]
  | .sel f => [packN 0x1e f]
  | .mov f => [packN 0x1f f]
  | .steer f => [packN 0x20 f]
  | .merge f => [packN 0x21 f]
  | .gate f => [packN 0x22 f]
  | .copy f => [packN 0x23 f]
  | .sink f => [packN 0x24 f]
  | .const f => [packN 0x25 f]
  | .filt f => [packN 0x26 f]
  | .cmpct f => [packN 0x27 f]
  | .iter f => [packN 0x28 f]
  | .done f => [packN 0x29 f]
  | .mark f => [packN 0x2a f]
  | .call f => [packN 0x2b f]
  | .ret f => [packN 0x2c f]
  | .tagrd f => [packN 0x2d f]
  | .tagwr f => [packN 0x2e f]
  | .snip f => [packN 0x2f f]
  | .snipEnd f => [packN 0x30 f]
  | .errchk f => [packN 0x31 f]
  | .sync f => [packN 0x32 f]
  | .count f => [packN 0x33 f]
  | .fadd f => [packN 0x40 f]
  | .fsub f => [packN 0x41 f]
  | .fmul f => [packN 0x42 f]
  | .fma f => [packN 0x43 f]
  | .fmin f => [packN 0x44 f]
  | .fmax f => [packN 0x45 f]
  | .fabs f => [packN 0x46 f]
  | .fneg f => [packN 0x47 f]
  | .fcmp f => [packN 0x48 f]
  | .frcp f => [packN 0x49 f]
  | .frsq f => [packN 0x4a f]
  | .fex2 f => [packN 0x4b f]
  | .flg2 f => [packN 0x4c f]
  | .fcls f => [packN 0x4d f]
  | .hadd f => [packN 0x4e f]
  | .hmul f => [packN 0x4f f]
  | .hfma f => [packN 0x50 f]
  | .cvtf f => [packN 0x51 f]
  | .cvte f => [packN 0x52 f]
  | .cvtq f => [packN 0x53 f]
  | .xpnd f => [packN 0x54 f]
  | .cvtfi f => [packN 0x55 f]
  | .cvtif f => [packN 0x56 f]
  | .seed f => [packN 0x57 f]
  | .rsum f => [packN 0x58 f]
  | .rmin f => [packN 0x59 f]
  | .rmax f => [packN 0x5a f]
  | .shuf f => [packN 0x5b f]
  | .bcast f => [packN 0x5c f]
  | .pack f => [packN 0x5d f]
  | .unpk f => [packN 0x5e f]
  | .lane f => [packN 0x5f f]
  | .ld f => [packN 0x70 f]
  | .st f => [packN 0x71 f]
  | .ldx f => [packN 0x72 f]
  | .stx f => [packN 0x73 f]
  | .lds f => [packN 0x74 f]
  | .sts f => [packN 0x75 f]
  | .aadd f => [packN 0x76 f]
  | .afadd f => [packN 0x77 f]
  | .amin f => [packN 0x78 f]
  | .amax f => [packN 0x79 f]
  | .aminn f => [packN 0x7a f]
  | .amaxn f => [packN 0x7b f]
  | .aand f => [packN 0x7c f]
  | .aor f => [packN 0x7d f]
  | .axor f => [packN 0x7e f]
  | .axch f => [packN 0x7f f]
  | .acas f => [packN 0x80 f]
  | .fence f => [packN 0x81 f]
  | .xfence f => [packN 0x82 f]
  | .prft f => [packN 0x83 f]
  | .wbl f => [packN 0x84 f]
  | .cbput f => [packN 0x85 f]
  | .cbget f => [packN 0x86 f]
  | .cbwait f => [packN 0x87 f]
  | .cbroom f => [packN 0x88 f]
  | .cntadd f => [packN 0x89 f]
  | .mxi f => [packN 0x90 f]
  | .mxis f => [packN 0x91 f]
  | .mxz f => [packN 0x92 f]
  | .mxpeek f => [packN 0x93 f]
  | .mxrd f => [packN 0x94 f]
  | .mxdr f => [packN 0x95 f]
  | .mxspl f => [packN 0x96 f]
  | .mxfil f => [packN 0x97 f]
  | .mxadd f => [packN 0x98 f]
  | .mxcls f => [packN 0x99 f]
  | .mxst f => [packN 0x9a f]
  | .mxwt f => [packN 0x9b f]
  | .mxpol f => [packN 0x9c f]
  | .cfw f => [packN 0xa0 f]
  | .cfwr f => [packN 0xa1 f]
  | .stamp f => [packN 0xa2 f]
  | .disp f => [packN 0xa3 f]
  | .binnx f => [packN 0xa4 f]
  | .binwt f => [packN 0xa5 f]
  | .cmbadd f => [packN 0xa6 f]
  | .cmbout f => [packN 0xa7 f]
  | .rwst f => [packN 0xa8 f]
  | .seqAdd f => [packC 0x01 f]
  | .seqSub f => [packC 0x02 f]
  | .addi f => [packC 0x03 f]
  | .seqMul f => [packC 0x04 f]
  | .seqAnd f => [packC 0x05 f]
  | .seqOr f => [packC 0x06 f]
  | .seqXor f => [packC 0x07 f]
  | .shli f => [packC 0x08 f]
  | .shri f => [packC 0x09 f]
  | .sari f => [packC 0x0a f]
  | .li f imm32 => [packC 0x0b f, imm32]
  | .lih f imm32 => [packC 0x0c f, imm32]
  | .slt f => [packC 0x0d f]
  | .sltn f => [packC 0x0e f]
  | .beq f => [packC 0x10 f]
  | .bne f => [packC 0x11 f]
  | .blt f => [packC 0x12 f]
  | .bge f => [packC 0x13 f]
  | .bltn f => [packC 0x14 f]
  | .bgen f => [packC 0x15 f]
  | .jmp f imm32 => [packC 0x16 f, imm32]
  | .jal f imm32 => [packC 0x17 f, imm32]
  | .jr f => [packC 0x18 f]
  | .ldg f => [packC 0x19 f]
  | .stg f => [packC 0x1a f]
  | .ldga f => [packC 0x1b f]
  | .stgr f => [packC 0x1c f]
  | .aaddg f => [packC 0x1d f]
  | .acasg f => [packC 0x1e f]
  | .fork f => [packC 0x20 f]
  | .join f => [packC 0x21 f]
  | .ctx f => [packC 0x22 f]
  | .stage f => [packC 0x23 f]
  | .pred f => [packC 0x24 f]
  | .waitev f => [packC 0x25 f]
  | .time f => [packC 0x26 f]
  | .seqXfence f => [packC 0x27 f]
  | .seam f => [packC 0x28 f]
  | .guard f => [packC 0x29 f]
  | .grpid f => [packC 0x2a f]
  | .gang f => [packC 0x2b f]
  | .barini f => [packC 0x30 f]
  | .bararv f => [packC 0x31 f]
  | .barwt f => [packC 0x32 f]
  | .baraw f => [packC 0x33 f]
  | .cntini f => [packC 0x34 f]
  | .cntaddg f => [packC 0x35 f]
  | .cntwz f => [packC 0x36 f]
  | .quies f => [packC 0x37 f]
  | .enq f => [packC 0x38 f]
  | .pqpush f => [packC 0x39 f]
  | .pqpop f => [packC 0x3a f]
  | .dqpush f => [packC 0x3b f]
  | .dqpop f => [packC 0x3c f]
  | .dqsteal f => [packC 0x3d f]
  | .cancel f => [packC 0x3e f]
  | .seqDone f => [packC 0x3f f]
  | .promote f => [packC 0x40 f]
  | .demote f => [packC 0x41 f]
  | .tlbinv f => [packC 0x42 f]
  | .slways f => [packC 0x43 f]
  | .bnkhint f => [packC 0x44 f]
  | .pstat f => [packC 0x45 f]
  | .bincfg f => [packC 0x48 f]
  | .bintrg f => [packC 0x49 f]
  | .binseal f => [packC 0x4a f]
  | .cmbcfg f => [packC 0x4b f]
  | .cmbwt f => [packC 0x4c f]
  | .spillcfg f => [packC 0x4d f]
  | .exmap f => [packC 0x4e f]
  | .trap f => [packC 0x50 f]
  | .brk f => [packC 0x51 f]
  | .sysrd f => [packC 0x52 f]
  | .syswr f => [packC 0x53 f]
  | .marker f => [packC 0x54 f]
  | .yield f => [packC 0x55 f]
  | .halt f => [packC 0x56 f]
  | .fltrd f => [packC 0x57 f]
  | .aredx f => [packC 0x58 f]
  | .colwt f => [packC 0x59 f]
  | .lnkst f => [packC 0x5a f]
  | .sopen f imm32 => [packC 0xc0 f, imm32]
  | .sclose f => [packC 0xc1 f]
  | .sld f => [packC 0xc2 f]
  | .sst f => [packC 0xc3 f]
  | .sgth f => [packC 0xc4 f]
  | .ssct f => [packC 0xc5 f]
  | .scpy f => [packC 0xc6 f]
  | .smc f => [packC 0xc7 f]
  | .scb f => [packC 0xc8 f]
  | .cbputs f => [packC 0xc9 f]
  | .cbwaits f => [packC 0xca f]
  | .swait f => [packC 0xcb f]
  | .send f => [packC 0xcc f]
  | .sloop f => [packC 0xcd f]
  | .sbne f => [packC 0xce f]
  | .powerOn => []
  | .moduleReset => []
  | .dieReset => []
  | .readTelemetry => []
  | .readFaultLog => []
  | .readTopology => []
  | .replaceTopology => []
  | .clearPort => []
  | .stageFirmware => []
  | .operatorCap => []
  | .capUpdate => []
  | .governorGrant => []
  | .grantArrival => []
  | .balanceReturn => []
  | .resultDelivery => []
  | .fabricEndToken => []
  | .stageSwitch => []
  | .guardDrop => []
  | .guardErrorToken => []
  | .streamElement => []
  | .channelAccept => []
  | .indexToken => []
  | .passEnd => []
  | .fqEntryStart => []
  | .kstepSelect => []
  | .kstepFetch => []
  | .kstepIssue => []
  | .kstepComplete => []
  | .perform => []
  | .accessResponse => []
  | .pageWalk => []
  | .wcDrain => []
  | .fillArrival => []
  | .orderSliceArrival => []
  | .orderSliceRelease => []
  | .nackRetry => []
  | .promotionRun => []
  | .promotionForce => []
  | .cut => []
  | .cutPeriod => []
  | .uncorrectableError => []
  | .rollback => []
  | .stopWaveArrival => []
  | .groupFrozen => []
  | .quiescenceSweep => []
  | .saveComplete => []
  | .restore => []
  | .watchdogExpiry => []
  | .trapPoll => []
  | .waitevPoll => []
  | .ctxCreate => []
  | .ctxStop => []
  | .ctxResume => []
  | .ctxDestroy => []
  | .ctxRelease => []
  | .ctxcmdBadOp => []
  | .pgRetry => []
  | .pgRefuse => []
  | .pgInvalidatePage => []
  | .pgInvalidateContext => []
  | .pgcmdBadOp => []
  | .qtailWrite => []
  | .qcfgWrite => []
  | .qbaseWrite => []
  | .registerWrite => []
  | .headCheck => []
  | .dependenceEvaluation => []
  | .placementDecision => []
  | .imageDecode => []
  | .coreLoadComplete => []
  | .spillPassPlace => []
  | .pqArrival => []
  | .pqRefillStart => []
  | .pqRefillLand => []
  | .dequeArrival => []
  | .counterArrival => []
  | .barrierArrival => []
  | .barrierTrip => []
  | .barrierTimeout => []
  | .arrive => []
  | .trip => []
  | .ready => []
  | .go => []
  | .gangDeadline => []
  | .abandon => []
  | .gangStart => []
  | .gangRetry => []
  | .bankerMove => []
  | .bankerHalve => []
  | .migrationComplete => []
  | .dispatchArrival => []
  | .rowCounted => []
  | .resultArrival => []
  | .nullArrival => []
  | .bounceArrival => []
  | .refusalArrival => []
  | .refusalRetry => []
  | .refusalWaitExpiry => []
  | .binTimerExpiry => []
  | .groupFix => []
  | .binGroupAdvance => []
  | .binDrain => []
  | .combineRowWrite => []
  | .lkctlEnSet => []
  | .lkctlEnClear => []
  | .laneLock => []
  | .laneLockLost => []
  | .trainingTimeout => []
  | .retrainTimeout => []
  | .attestation => []
  | .dataFlit => []
  | .ackFlit => []
  | .nakFlit => []
  | .creditFlit => []
  | .timeFlit => []
  | .attestFlit => []
  | .replayTimeout => []
  | .timeFlitSend => []
  | .peerRequest => []
  | .collectiveImage => []
  | .collectiveTimeout => []
  | .sliceBoundary => []
  | .trainingRetry => []
  | .waitevTimeReached => []

/-- The node map's opcode of an instruction; 0 for the others. -/
def nodeOp : Instr → Nat
  | .add _ => 0x01
  | .sub _ => 0x02
  | .adds _ => 0x03
  | .subs _ => 0x04
  | .mul _ => 0x05
  | .mulh _ => 0x06
  | .mulhn _ => 0x07
  | .min _ => 0x08
  | .max _ => 0x09
  | .minn _ => 0x0a
  | .maxn _ => 0x0b
  | .abs _ => 0x0c
  | .neg _ => 0x0d
  | .and _ => 0x0e
  | .or _ => 0x0f
  | .xor _ => 0x10
  | .andn _ => 0x11
  | .not _ => 0x12
  | .shl _ => 0x13
  | .shr _ => 0x14
  | .sar _ => 0x15
  | .rot _ => 0x16
  | .clz _ => 0x17
  | .popc _ => 0x18
  | .brev _ => 0x19
  | .lea _ => 0x1a
  | .cmp _ => 0x1b
  | .cmpn _ => 0x1c
  | .tst _ => 0x1d
  | .sel _ => 0x1e
  | .mov _ => 0x1f
  | .steer _ => 0x20
  | .merge _ => 0x21
  | .gate _ => 0x22
  | .copy _ => 0x23
  | .sink _ => 0x24
  | .const _ => 0x25
  | .filt _ => 0x26
  | .cmpct _ => 0x27
  | .iter _ => 0x28
  | .done _ => 0x29
  | .mark _ => 0x2a
  | .call _ => 0x2b
  | .ret _ => 0x2c
  | .tagrd _ => 0x2d
  | .tagwr _ => 0x2e
  | .snip _ => 0x2f
  | .snipEnd _ => 0x30
  | .errchk _ => 0x31
  | .sync _ => 0x32
  | .count _ => 0x33
  | .fadd _ => 0x40
  | .fsub _ => 0x41
  | .fmul _ => 0x42
  | .fma _ => 0x43
  | .fmin _ => 0x44
  | .fmax _ => 0x45
  | .fabs _ => 0x46
  | .fneg _ => 0x47
  | .fcmp _ => 0x48
  | .frcp _ => 0x49
  | .frsq _ => 0x4a
  | .fex2 _ => 0x4b
  | .flg2 _ => 0x4c
  | .fcls _ => 0x4d
  | .hadd _ => 0x4e
  | .hmul _ => 0x4f
  | .hfma _ => 0x50
  | .cvtf _ => 0x51
  | .cvte _ => 0x52
  | .cvtq _ => 0x53
  | .xpnd _ => 0x54
  | .cvtfi _ => 0x55
  | .cvtif _ => 0x56
  | .seed _ => 0x57
  | .rsum _ => 0x58
  | .rmin _ => 0x59
  | .rmax _ => 0x5a
  | .shuf _ => 0x5b
  | .bcast _ => 0x5c
  | .pack _ => 0x5d
  | .unpk _ => 0x5e
  | .lane _ => 0x5f
  | .ld _ => 0x70
  | .st _ => 0x71
  | .ldx _ => 0x72
  | .stx _ => 0x73
  | .lds _ => 0x74
  | .sts _ => 0x75
  | .aadd _ => 0x76
  | .afadd _ => 0x77
  | .amin _ => 0x78
  | .amax _ => 0x79
  | .aminn _ => 0x7a
  | .amaxn _ => 0x7b
  | .aand _ => 0x7c
  | .aor _ => 0x7d
  | .axor _ => 0x7e
  | .axch _ => 0x7f
  | .acas _ => 0x80
  | .fence _ => 0x81
  | .xfence _ => 0x82
  | .prft _ => 0x83
  | .wbl _ => 0x84
  | .cbput _ => 0x85
  | .cbget _ => 0x86
  | .cbwait _ => 0x87
  | .cbroom _ => 0x88
  | .cntadd _ => 0x89
  | .mxi _ => 0x90
  | .mxis _ => 0x91
  | .mxz _ => 0x92
  | .mxpeek _ => 0x93
  | .mxrd _ => 0x94
  | .mxdr _ => 0x95
  | .mxspl _ => 0x96
  | .mxfil _ => 0x97
  | .mxadd _ => 0x98
  | .mxcls _ => 0x99
  | .mxst _ => 0x9a
  | .mxwt _ => 0x9b
  | .mxpol _ => 0x9c
  | .cfw _ => 0xa0
  | .cfwr _ => 0xa1
  | .stamp _ => 0xa2
  | .disp _ => 0xa3
  | .binnx _ => 0xa4
  | .binwt _ => 0xa5
  | .cmbadd _ => 0xa6
  | .cmbout _ => 0xa7
  | .rwst _ => 0xa8
  | _ => 0

/-- The format N fields of a node or snippet word; all ones for the others. -/
def nodeFields : Instr → NF
  | .add f => f
  | .sub f => f
  | .adds f => f
  | .subs f => f
  | .mul f => f
  | .mulh f => f
  | .mulhn f => f
  | .min f => f
  | .max f => f
  | .minn f => f
  | .maxn f => f
  | .abs f => f
  | .neg f => f
  | .and f => f
  | .or f => f
  | .xor f => f
  | .andn f => f
  | .not f => f
  | .shl f => f
  | .shr f => f
  | .sar f => f
  | .rot f => f
  | .clz f => f
  | .popc f => f
  | .brev f => f
  | .lea f => f
  | .cmp f => f
  | .cmpn f => f
  | .tst f => f
  | .sel f => f
  | .mov f => f
  | .steer f => f
  | .merge f => f
  | .gate f => f
  | .copy f => f
  | .sink f => f
  | .const f => f
  | .filt f => f
  | .cmpct f => f
  | .iter f => f
  | .done f => f
  | .mark f => f
  | .call f => f
  | .ret f => f
  | .tagrd f => f
  | .tagwr f => f
  | .snip f => f
  | .snipEnd f => f
  | .errchk f => f
  | .sync f => f
  | .count f => f
  | .fadd f => f
  | .fsub f => f
  | .fmul f => f
  | .fma f => f
  | .fmin f => f
  | .fmax f => f
  | .fabs f => f
  | .fneg f => f
  | .fcmp f => f
  | .frcp f => f
  | .frsq f => f
  | .fex2 f => f
  | .flg2 f => f
  | .fcls f => f
  | .hadd f => f
  | .hmul f => f
  | .hfma f => f
  | .cvtf f => f
  | .cvte f => f
  | .cvtq f => f
  | .xpnd f => f
  | .cvtfi f => f
  | .cvtif f => f
  | .seed f => f
  | .rsum f => f
  | .rmin f => f
  | .rmax f => f
  | .shuf f => f
  | .bcast f => f
  | .pack f => f
  | .unpk f => f
  | .lane f => f
  | .ld f => f
  | .st f => f
  | .ldx f => f
  | .stx f => f
  | .lds f => f
  | .sts f => f
  | .aadd f => f
  | .afadd f => f
  | .amin f => f
  | .amax f => f
  | .aminn f => f
  | .amaxn f => f
  | .aand f => f
  | .aor f => f
  | .axor f => f
  | .axch f => f
  | .acas f => f
  | .fence f => f
  | .xfence f => f
  | .prft f => f
  | .wbl f => f
  | .cbput f => f
  | .cbget f => f
  | .cbwait f => f
  | .cbroom f => f
  | .cntadd f => f
  | .mxi f => f
  | .mxis f => f
  | .mxz f => f
  | .mxpeek f => f
  | .mxrd f => f
  | .mxdr f => f
  | .mxspl f => f
  | .mxfil f => f
  | .mxadd f => f
  | .mxcls f => f
  | .mxst f => f
  | .mxwt f => f
  | .mxpol f => f
  | .cfw f => f
  | .cfwr f => f
  | .stamp f => f
  | .disp f => f
  | .binnx f => f
  | .binwt f => f
  | .cmbadd f => f
  | .cmbout f => f
  | .rwst f => f
  | _ => ⟨15, 15, 15, 15, 15, 15⟩

/-- The instruction of a word laid out little-endian, first word first (R3): a node word that the loader accepts with
some literal, else a control word that it accepts, else the node or control word as it stands (log 6: the two maps
share opcodes, and the table's words do not say which map they stand in). -/
def decodeTableWord (nbits w : Nat) : Option Instr :=
  let w0 := word (w % 2 ^ 32)
  let w1 := word (w / 2 ^ 32)
  let ctl := match decodeSeq w0 w1 with
    | some i => some i
    | none => decodeStrm w0 w1
  let nd := decodeNode w0
  if nbits = 64 ∧ isLong (opOf w0) then ctl else
  match nd, ctl with
  | some i, some j => if Sys2Proof.nodeFits i then some i else if Sys2Proof.ctlFits j then some j else some i
  | some i, none => some i
  | none, c => c

end Sys2Proof
end

