-- ==== Sys2Proof/Config.lean ====
section
/-! DEFINITION. What the spec leaves open: free values, constants without a body, so that no proof can see one. A free
value is taken at State.freeCtr, which the step then advances (log 2). -/

namespace Sys2Proof.Config

/-- A 64-bit value the spec does not state (log 2). -/
opaque freeDWord : Nat → DWord

/-- The size of the subset of issued k-steps that an MXPEEK sees inserted (R73): how many of the k-steps in flight
count for the element read, as a bit mask over their order of issue. -/
opaque peekSubset : Nat → Nat

/-- A value on the management port whose source is a sensor (R458). -/
opaque sensor : Nat → Nat

/-- Bytes that a read unordered with its writer returns where the spec allows old or new (R217, R264). -/
opaque staleChoice : Nat → Bool

end Sys2Proof.Config
end

