-- ==== Sys2Proof/Machine/Num.lean ====
section
/-! DEFINITION. Element formats, exact values, RoundOnce, Shaker, and the f32 operations (R31-R52, R162-R166). -/

namespace Sys2Proof.Machine

/-- An exact value (R45): NaN, an infinity, or the rational num/den with a sign (zeros keep theirs). -/
inductive XVal where
  | nan
  | inf (neg : Bool)
  | fin (neg : Bool) (num den : Nat)
  deriving DecidableEq, Repr

/-- A floating-point format (R31): exponent bits, mantissa bits, bias, and whether E all ones is special for every M
(0), for M all ones only (1), or never (2). -/
structure FFmt where
  e : Nat
  m : Nat
  bias : Nat
  spec : Nat
  deriving DecidableEq, Repr

/-- The floating-point formats by element type code (R31, R114); 16 stands for ue4m3. -/
def ffmt (t : Nat) : Option FFmt :=
  match t with
  | 2 | 16 => some ⟨4, 3, 7, 1⟩
  | 3 => some ⟨5, 2, 15, 0⟩
  | 4 => some ⟨2, 1, 1, 2⟩
  | 5 => some ⟨5, 10, 15, 0⟩
  | 6 => some ⟨8, 7, 127, 0⟩
  | 7 => some ⟨8, 23, 127, 0⟩
  | 12 => some ⟨3, 2, 3, 2⟩
  | 13 => some ⟨2, 3, 1, 2⟩
  | _ => none

/-- The width in bits of an element type (R31, R114). -/
def typeBits (t : Nat) : Nat :=
  match t with
  | 0 | 1 | 2 | 3 | 16 => 8
  | 4 | 14 | 15 => 4
  | 5 | 6 | 8 | 9 => 16
  | 12 | 13 => 6
  | _ => 32

/-- Whether an integer type is signed (R35). -/
def typeSigned (t : Nat) : Bool := t == 0 || t == 8 || t == 10 || t == 14

/-- The value 2^k as a numerator and denominator. -/
def pow2 (k : Int) : Nat × Nat := if 0 ≤ k then (2 ^ k.toNat, 1) else (1, 2 ^ (-k).toNat)

/-- The value of a floating-point encoding (R32, R34). -/
def fval (f : FFmt) (bits : Nat) : XVal :=
  let s := bitAt bits (f.e + f.m)
  let e := (bits / 2 ^ f.m) % 2 ^ f.e
  let m := bits % 2 ^ f.m
  if f.spec = 0 ∧ e = 2 ^ f.e - 1 then if m = 0 then .inf s else .nan
  else if f.spec = 1 ∧ e = 2 ^ f.e - 1 ∧ m = 2 ^ f.m - 1 then .nan
  else if e = 0 then
    let p := pow2 (1 - (f.bias : Int) - f.m)
    .fin s (m * p.1) p.2
  else
    let p := pow2 ((e : Int) - f.bias - f.m)
    .fin s ((2 ^ f.m + m) * p.1) p.2

/-- The value of an element of a type (R32, R35, R38): a ue4m3 byte with bit 7 set is invalid, so NaN. -/
def elemVal (t bits : Nat) : XVal :=
  match ffmt t with
  | some f => if t = 16 ∧ bitAt bits 7 then .nan else fval f bits
  | none =>
    if typeSigned t then
      let z := sext (typeBits t) bits
      .fin (z < 0) z.natAbs 1
    else .fin false (bits % 2 ^ typeBits t) 1

/-- floor(log2(num / den)) for positive num and den. -/
def log2Floor (num den : Nat) : Int :=
  let k : Int := (Nat.log2 num : Int) - Nat.log2 den
  if 0 ≤ k then (if num < den * 2 ^ k.toNat then k - 1 else k)
  else (if num * 2 ^ (-k).toNat < den then k - 1 else k)

/-- The encoding of the largest finite magnitude (R34). -/
def maxFinite (f : FFmt) : Nat :=
  match f.spec with
  | 0 => (2 ^ f.e - 1) * 2 ^ f.m - 1
  | 1 => 2 ^ (f.e + f.m) - 2
  | _ => 2 ^ (f.e + f.m) - 1

/-- The canonical NaN (R34); a format without NaN keeps 0 (its callers never ask, R43). -/
def nanOf (f : FFmt) : Nat :=
  match f.spec with
  | 0 => (2 ^ f.e - 1) * 2 ^ f.m + 2 ^ (f.m - 1)
  | 1 => 2 ^ (f.e + f.m) - 1
  | _ => 0

/-- The encoding with the sign bit of s. -/
def signed (f : FFmt) (s : Bool) (bits : Nat) : Nat := if s then 2 ^ (f.e + f.m) + bits else bits

/-- Whether a mode rounds the fraction num/den (0 ≤ num < den) over an integer q up in magnitude (R45). -/
def roundsUp (rm : Nat) (s : Bool) (q num den u : Nat) : Bool :=
  match rm with
  | 0 => den < 2 * num || (2 * num == den && q % 2 == 1)
  | 2 => num != 0 && !s
  | 3 => num != 0 && s
  | 4 => den ≤ 2 * num
  | 5 => u < num * 2 ^ 24 / den
  | _ => false

/-- The range of an integer type (R35). -/
def intClamp (t : Nat) (z : Int) : Nat :=
  let w := typeBits t
  if typeSigned t then
    let lo : Int := -((2 ^ (w - 1) : Nat) : Int)
    let hi : Int := ((2 ^ (w - 1) : Nat) : Int) - 1
    wrap w (if z < lo then lo else if hi < z then hi else z)
  else
    let hi : Int := ((2 ^ w : Nat) : Int) - 1
    wrap w (if z < 0 then 0 else if hi < z then hi else z)

/-- RoundOnce (R45), the mode already resolved (never 7) and u the 24 bits of the Shaker step: the encoding in type t. -/
def roundOnce (t rm : Nat) (sat : Bool) (u : Nat) (v : XVal) : Nat :=
  match ffmt t with
  | none =>
    match v with
    | .nan => 0
    | .inf s => intClamp t (if s then -(2 ^ 80 : Int) else 2 ^ 80)
    | .fin s num den =>
      let q := num / den
      let r := q + (if roundsUp rm s q (num % den) den u then 1 else 0)
      intClamp t (if s then -(r : Int) else r)
  | some f =>
    match v with
    | .nan => nanOf f
    | .inf s =>
      if sat || f.spec == 2 then signed f s (maxFinite f)
      else if f.spec == 1 then nanOf f
      else signed f s ((2 ^ f.e - 1) * 2 ^ f.m)
    | .fin s num den =>
      if num = 0 then signed f s 0 else
      let e := max (log2Floor num den) (1 - (f.bias : Int))
      let p := pow2 ((f.m : Int) - e)
      let n := num * p.1
      let d := den * p.2
      let q := n / d
      let r := q + (if roundsUp rm s q (n % d) d u then 1 else 0)
      let bits := (e - (1 - (f.bias : Int))).toNat * 2 ^ f.m + r
      if maxFinite f < bits then
        if sat || f.spec == 2 || rm == 1 || (rm == 2 && s) || (rm == 3 && !s) then signed f s (maxFinite f)
        else if f.spec == 1 then nanOf f
        else signed f s ((2 ^ f.e - 1) * 2 ^ f.m)
      else signed f s bits

/-- One step of a Shaker state (R46). -/
def shakerNext (x : Word) : Word :=
  let x := x ^^^ (x <<< 13)
  let x := x ^^^ (x >>> 17)
  x ^^^ (x <<< 5)

/-- The state that SEED with operand s gives lane l of PE i (R47). -/
def seedLane (s : Word) (i l : Nat) : Word :=
  let x := s ^^^ word (0x9E3779B9 * (16 * i + l + 1))
  if x = 0 then 0x6D2B79F5 else x

/-- The sixteen states of SEED with operand s on PE i (R47, R48). -/
def seedAll (s : Word) (i : Nat) : List Word := (List.range 16).map (seedLane s i)

/-- Roundings of one firing in order (R49, R50): each value with the lane whose state it steps under SR; the encodings
and the states left. -/
def roundAll (t rm : Nat) (sat : Bool) : List (XVal × Nat) → List Word → List Nat × List Word
  | [], sh => ([], sh)
  | (v, l) :: vs, sh =>
    if rm = 5 then
      let x := shakerNext (sh.getD l 0)
      let (bs, sh') := roundAll t rm sat vs (sh.set l x)
      (roundOnce t rm sat (x.toNat / 256) v :: bs, sh')
    else
      let (bs, sh') := roundAll t rm sat vs sh
      (roundOnce t rm sat 0 v :: bs, sh')

/-- The negative of a value. -/
def XVal.neg : XVal → XVal
  | .nan => .nan
  | .inf s => .inf !s
  | .fin s n d => .fin (!s) n d

/-- The exact product of two values; NaN operand, or infinity times zero, gives NaN (R55, R162). -/
def XVal.mul : XVal → XVal → XVal
  | .nan, _ => .nan
  | _, .nan => .nan
  | .inf s, .inf t => .inf (s != t)
  | .inf s, .fin t n _ => if n = 0 then .nan else .inf (s != t)
  | .fin s n _, .inf t => if n = 0 then .nan else .inf (s != t)
  | .fin s n d, .fin t m e => .fin (s != t) (n * m) (d * e)

/-- The exact sum of two terms, its zero by the rules of R162 under rounding mode rm. -/
def XVal.add (rm : Nat) : XVal → XVal → XVal
  | .nan, _ => .nan
  | _, .nan => .nan
  | .inf s, .inf t => if s = t then .inf s else .nan
  | .inf s, _ => .inf s
  | _, .inf t => .inf t
  | .fin s n d, .fin t m e =>
    if n = 0 ∧ m = 0 ∧ s = t then .fin s 0 1 else
    let z : Int := (if s then -((n * e : Nat) : Int) else (n * e : Nat)) + (if t then -((m * d : Nat) : Int) else (m * d : Nat))
    if z = 0 then .fin (rm == 3) 0 1 else .fin (z < 0) z.natAbs (d * e)

/-- The f32, f16 or bf16 arithmetic of R162, by kind: 0 add, 1 subtract, 2 multiply, 3 multiply-add with c. -/
def arith (kind rm : Nat) (a b c : XVal) : XVal :=
  match kind with
  | 0 => XVal.add rm a b
  | 1 => XVal.add rm a b.neg
  | 2 => XVal.mul a b
  | _ => if c = .nan then .nan else XVal.add rm (XVal.mul a b) c

/-- The order of two values, neither NaN: -1, 0 or 1; zeros are equal (R164). -/
def XVal.cmp : XVal → XVal → Int
  | .inf s, .inf t => if s = t then 0 else if s then -1 else 1
  | .inf s, _ => if s then -1 else 1
  | _, .inf t => if t then 1 else -1
  | .fin s n d, .fin t m e =>
    let z : Int := (if s then -((n * e : Nat) : Int) else (n * e : Nat)) - (if t then -((m * d : Nat) : Int) else (m * d : Nat))
    if z < 0 then -1 else if z = 0 then 0 else 1
  | _, _ => 0

/-- Whether A ? B holds under a condition of R113, by the sign of their comparison. -/
def condHolds (c : Nat) (k : Int) : Bool :=
  match c with
  | 0 => k == 0
  | 1 => k != 0
  | 2 => k < 0
  | 3 => k ≤ 0
  | 4 => 0 < k
  | _ => 0 ≤ k

/-- The value of an f32 pattern (R32). -/
def f32 (w : Word) : XVal := elemVal 7 w.toNat

/-- FCMP of two f32 patterns (R164). -/
def fcmp (c : Nat) (a b : Word) : Bool :=
  if f32 a = .nan ∨ f32 b = .nan then c == 1 || c == 6
  else if c = 6 then false else if c = 7 then true else condHolds c ((f32 a).cmp (f32 b))

/-- Whether a precedes b in the order of FMIN, -0 below +0 (R163). -/
def fless (a b : Word) : Bool :=
  let k := (f32 a).cmp (f32 b)
  k < 0 || (k == 0 && a.msb && !b.msb)

/-- FMIN and FMAX of two f32 patterns (R163). -/
def fminmax (mx : Bool) (a b : Word) : Word :=
  if f32 a = .nan then (if f32 b = .nan then 0x7FC00000 else b)
  else if f32 b = .nan then a
  else if mx then (if fless a b then b else a) else (if fless b a then b else a)

/-- FCLS of an f32 pattern (R164). -/
def fcls (a : Word) : Word :=
  let e := a.toNat / 2 ^ 23 % 256
  let m := a.toNat % 2 ^ 23
  let s := a.msb
  if e = 255 then if m = 0 then (if s then 1 else 128) else 256
  else if e = 0 then if m = 0 then (if s then 8 else 16) else (if s then 4 else 32)
  else if s then 2 else 64

/-- The integer square root, by bits from 2^k down. -/
def isqrt : Nat → Nat → Nat → Nat
  | 0, _, r => r
  | k + 1, n, r => isqrt k n (if (r + 2 ^ k) * (r + 2 ^ k) ≤ n then r + 2 ^ k else r)

/-- ln 2 in units of 2^-160, rounded down (DEDUCED, log 7). -/
def ln2 : Nat := 1013035739299659071135698605846798551586536899366

/-- exp(x) for x in [0, 1), both in units of 2^-160: the Taylor sum of k more terms (log 7). -/
def expFix : Nat → Nat → Nat → Nat → Nat
  | 0, _, _, _ => 0
  | k + 1, i, term, x => term + expFix k (i + 1) (term * x / 2 ^ 160 / (i + 1)) x

/-- atanh(z) in units of 2^-160: k more terms of the odd series (log 7). -/
def atanhFix : Nat → Nat → Nat → Nat → Nat
  | 0, _, _, _ => 0
  | k + 1, i, p, z2 => p / (2 * i + 1) + atanhFix k (i + 1) (p * z2 / 2 ^ 160) z2

/-- A value strictly between two 161-bit fixed-point neighbours, for an irrational result (log 7). -/
def sticky (neg : Bool) (q : Nat) (e : Int) : XVal :=
  let p := pow2 e
  .fin neg ((2 * q + 1) * p.1) (2 * 2 ^ 160 * p.2)

/-- FRCP, FRSQ, FEX2 and FLG2 (R165), kinds 0 to 3, before the one rounding. -/
def special (kind : Nat) (a : XVal) : XVal :=
  match kind, a with
  | _, .nan => .nan
  | 0, .inf s => .fin s 0 1
  | 0, .fin s n d => if n = 0 then .inf s else .fin s d n
  | 1, .inf s => if s then .nan else .fin false 0 1
  | 1, .fin s n d =>
    if n = 0 then .inf s else if s then .nan else
    let m := d * 2 ^ 640 / n
    let r := isqrt 420 m 0
    if r * r * n = d * 2 ^ 640 then .fin false r (2 ^ 320) else .fin false (2 * r + 1) (2 * 2 ^ 320)
  | 2, .inf s => if s then .fin false 0 1 else .inf false
  | 2, .fin s n d =>
    if n = 0 then .fin false 1 1
    else if 200 ≤ n / d then (if s then .fin false 1 (2 ^ 200) else .fin false (2 ^ 200) 1)
    else
      let fl : Int := if s then -((ceilDiv n d : Nat) : Int) else ((n / d : Nat) : Int)
      let fr := if s then (ceilDiv n d * d - n) else n % d
      if fr = 0 then
        let p := pow2 fl
        .fin false p.1 p.2
      else sticky false (expFix 60 0 (2 ^ 160) (fr * ln2 / d)) fl
  | 3, .inf s => if s then .nan else .inf false
  | 3, .fin s n d =>
    if n = 0 then .inf true else if s then .nan else
    let k := log2Floor n d
    let p := pow2 (-k)
    let m := n * p.1
    let e := d * p.2
    if m = e then .fin (k < 0) k.natAbs 1 else
    let z := (m - e) * 2 ^ 160 / (m + e)
    let l : Nat := 2 * atanhFix 60 0 z (z * z / 2 ^ 160) * 2 ^ 160 / ln2
    let t : Int := 2 * (k * (2 ^ 160) + (l : Int)) + 1
    .fin (t < 0) t.natAbs (2 * 2 ^ 160)
  | _, _ => .nan

/-- FRCP, FRSQ, FEX2, FLG2 of an f32 pattern: one rounding to f32 under RNE (R165). -/
def specialF32 (kind : Nat) (a : Word) : Word := word (roundOnce 7 0 false 0 (special kind (f32 a)))

end Sys2Proof.Machine
end

