-- ==== Sys2Proof/Machine/State.lean ====
section
/-! DEFINITION. The state of the package: everything the spec gives the machine, as plain data.

Numbers that software never sees as words (cycles, indexes, counts) are Nat; what the spec lays out as bits is a
bit vector. Sparse parts are AMap, whose unlisted keys hold the default named beside the field. -/

namespace Sys2Proof.Machine

/-- Why a step can stop. No rule of the spec stops the machine: its own faults are records and freezes (R293-R297),
which are next states here; the one constructor keeps the type inhabited and no meaning raises it (safe). -/
inductive Fault where
  /-- raised by no meaning (safe) -/
  | unreachable
  deriving DecidableEq, Repr

/-- Why a step can have no meaning. -/
inductive Refusal where
  /-- an instruction the model has not reached; raised by a refused arm of exec only (safe) -/
  | notModelled (mnemonic : String)
  deriving DecidableEq, Repr

/-- A token's tag: context tag and iteration tag (R75). -/
structure Tag where
  ctag : BitVec 8
  itag : BitVec 24
  deriving DecidableEq, Repr

/-- A token (R74): one word for a scalar or control token, sixteen for a vector token; the sidecar stands exactly
when X is set (R77). -/
structure Token where
  data : List Word
  tag : Tag
  side : Option (List (BitVec 24))
  m : Bool
  l : Bool
  e : Bool
  deriving DecidableEq, Repr

/-- An entry of an output buffer, seam buffer or channel queue (R78): the token once it has been delivered, the node
slots that have still to take it, the edge bit, and the slot of the node that sends it (0 where no node does). -/
structure OutEntry where
  id : Nat
  tok : Option Token
  pend : List Nat
  edge : Bool
  slot : Nat
  deriving DecidableEq, Repr

/-- An entry of a matching store (R85): key, and the operands present. -/
structure MatchEntry where
  slot : Nat
  tag : Tag
  a : Option Token
  b : Option Token
  deriving DecidableEq, Repr

/-- A node slot that the slot-valid mask marks: its decoded word and its literal (R108, R115). -/
structure Slot where
  instr : Instr
  lit : Word
  deriving DecidableEq, Repr

/-- Which operand set of a node a firing takes (R87, R142): the head of its consumer queue on side A or B, or the
matching-store entry of a tag (side 1: only its B operand, a MERGE input). -/
inductive Pick where
  | head (b : Bool)
  | store (t : Tag) (b : Bool)
  deriving DecidableEq, Repr

/-- The party an event of spec/opcode_table.json happens to, and what it brings: the operands of an event, which has no
encoding (95_what_each_step_holds.md). -/
inductive EvArg where
  /-- numbers: a core, a die, an access, a launch, a queue ... as the event's meaning names them -/
  | nums (l : List Nat)
  /-- a register write: queue or 0, and the value (R309, R310, R401) -/
  | word (q : Nat) (v : DWord)
  /-- a register write by physical address, with its master ID (R457) -/
  | reg (master : BitVec 16) (pa : Nat) (v : DWord)
  | topo (t : TopoRec)
  | fw (f : FwImage)
  | evidence (port : Nat) (e : Evidence)
  | flit (port : Nat) (f : Flit)
  | peer (r : PeerReq)
  | site (e : ErrSite)
  | bytes (l : List Nat) (b : List Byte)
  deriving DecidableEq, Repr

/-- Who issues the instruction that exec runs: the model's own field s.cur, set by step (DESIGN CHOICE, log 1). -/
inductive Place where
  /-- no unit -/
  | none
  /-- no unit: an event, with its operands -/
  | ev (a : EvArg)
  /-- a node slot of a PE in the loaded configuration context -/
  | node (core cctx pe slot : Nat) (pick : Pick)
  /-- the next word of the snippet that runs on the PE (R92) -/
  | snip (core pe : Nat)
  /-- the sequencer of a core -/
  | seq (core : Nat)
  /-- the stream program of a core -/
  | strm (core : Nat)
  deriving DecidableEq, Repr

/-- The outputs a started firing has reserved (R80): destination code, entry number, and the token to send
(none: the entry is released). -/
structure OutRes where
  port : Nat
  id : Nat
  tok : Option Token
  deriving DecidableEq, Repr

/-- A started firing whose results are not yet delivered (R89), with its write of sf and whether that is an error token (R98); a token on its way that is no firing's (across a seam, the
start token) has pe 64. -/
structure Flight where
  id : Nat
  cctx : Nat
  pe : Nat
  slot : Nat
  outs : List OutRes
  sf : Option (List Word)
  sfe : Bool
  deriving DecidableEq, Repr

/-- The run of a snippet (R92-R94): the words' slot counter, the operands, the temporaries with the cycle from which
each may be read, the written outputs, the pending write of sf, the cycle by which every write of an output or of sf has reached its
latency, and the entries its operands came from, which a fault gives back
(R288). -/
structure SnipRun where
  cctx : Nat
  slot : Nat
  pc : Nat
  a : Token
  b : Option Token
  bv : Bool
  temps : AMap (List Word × Nat)
  outx : Option (List Word × Bool × Nat)
  outy : Option (List Word × Bool × Nat)
  sfNew : Option (List Word × Nat)
  endAt : Nat
  outs : List OutRes
  act : Nat
  fromBufs : List (Nat × OutEntry)
  fromStore : List MatchEntry
  deriving DecidableEq, Repr

/-- The paths of R264. -/
inductive Path where
  | fab | str | mxe | row | lnk | bnk | seq
  deriving DecidableEq, Repr

/-- The three address spaces of R236, resolved to a core where that matters, and physical addresses (the device's
own accesses). -/
inductive Space where
  | virt
  | scratch (core : Nat)
  | window
  | phys
  deriving DecidableEq, Repr

/-- What an access does (R183-R190, R352). -/
inductive AKind where
  | load
  | store
  /-- an atomic by its node opcode (R185) -/
  | atomic (op : Nat)
  /-- the sequencer's 64-bit add and compare-and-swap (R352) -/
  | add64
  | cas64 (expect : DWord)
  /-- a FENCE's or an error firing's null number (R270) -/
  | null
  | wbl
  | prft
  /-- a unit's own reads or writes, made in one step once they translate (log 15) -/
  | probe (wr : Bool)
  /-- a sector of the write-combining buffer that drains, in one event (R265) -/
  | drain
  deriving DecidableEq, Repr

/-- Who waits for an access. -/
inductive Src where
  /-- a memory node: its configuration context, PE and slot -/
  | node (cctx pe slot : Nat)
  /-- the sequencer: its destination register, 0 for a posted store -/
  | seq (d : Nat)
  /-- a stream channel: element number of the pass -/
  | chan (ch : Nat) (elem : Nat)
  deriving DecidableEq, Repr

/-- One event of an access (R182, R184): address in its space, bytes, and where its bytes lie in the result. -/
structure Piece where
  addr : Nat
  len : Nat
  at_ : Nat
  deriving DecidableEq, Repr

/-- Where an access is on its way (R495, R268, R401). -/
inductive AStage where
  | walking
  | stalled (rec : Nat)
  | ordering
  | sent
  /-- on a peer package, under a request number (R454) -/
  | away (num : Nat)
  | performed
  /-- faulted at its memory node: a resume attempts it again (R288) -/
  | faulted
  deriving DecidableEq, Repr

/-- An outstanding access (R209, R495): pieces still to perform, bytes to store or gathered, the token whose result
it makes, and the output entries reserved for that result; its virtual pieces, where it had such; and for a read that no far-cache copy
serves the cycle in which its fill was issued, with the epoch the line takes (R245). dom is the domain, of a drain the mask of its domains; inTurn marks a copy's writes (R203); merged holds the stores of a drain, as WcEnt.stores does;
lanewise marks an indexed access, whose lanes are one event each (R258); ftag is the tag of its firing and offset the byte offset of the
sequencer or stream instruction that issued it (R294). -/
structure Access where
  core : Nat
  src : Src
  path : Path
  kind : AKind
  acq : Bool
  rel : Bool
  scope : Nat
  dom : Nat
  hint : Nat
  own : Option (BitVec 16)
  space : Space
  todo : List Piece
  data : List Byte
  got : List Byte
  tok : Option Token
  outs : List OutRes
  wait : Nat
  stage : AStage
  order : Nat
  epoch : Nat
  vas : List Piece
  home : Option (Nat × Nat)
  inTurn : Bool := false
  merged : List (Nat × Nat × Nat × Nat) := []
  lanewise : Bool := false
  ftag : Nat := 0
  offset : Nat := 0
  deriving DecidableEq, Repr

/-- A node that holds its result until a condition is met (FENCE, XFENCE, the circular-buffer nodes, BINWT, CMBOUT): its
opcode, what it waits for, whether the cut that it forces has been made (R273), and the result it will send. -/
structure Wait where
  id : Nat
  op : Nat
  h : Nat
  n : Nat
  ids : List Nat
  att : Word
  cctx : Nat
  pe : Nat
  slot : Nat
  tok : Token
  outs : List OutRes
  cut : Bool := false
  deriving DecidableEq, Repr

/-- A circular-buffer handle record (R192). -/
structure Handle where
  v : Bool
  base : Nat
  ssz : Nat
  cnt : Nat
  head : Nat
  tail : Nat
  fill : Nat
  arrv : Nat
  deriving DecidableEq, Repr

/-- The states of a stream channel (R207). -/
inductive ChState where
  | closed | opened | active | index
  deriving DecidableEq, Repr

/-- A stream channel (R200-R207, R282): its descriptor as eight doublewords, the running command and its
parameters, and the tokens it offers at its edge ports. -/
structure Channel where
  state : ChState
  desc : List DWord
  pass : Nat
  partner : Nat
  count : Nat
  origin : Int
  issued : Nat
  done : Nat
  mask : Nat
  off : Nat
  paired : Nat
  last : Bool
  rr : Nat
  index : List Token
  deriving DecidableEq, Repr

/-- What a stream program asks of a handle in a cycle (R195, R205): an advance, or a count to wait for. -/
inductive StrmAsk where
  | get (h n : Nat)
  | put (h n : Nat)
  | filled (h n : Nat)
  | roomy (h n : Nat)
  deriving DecidableEq, Repr

/-- The stream engine of a core (R197, R206), with what its program asks of a handle at the end of the cycle. -/
structure Strm where
  running : Bool
  ended : Bool
  pc : Nat
  j : AMap Word
  next : Nat
  rr : Nat
  ask : Option StrmAsk := none
  deriving DecidableEq, Repr

/-- What a sequencer waits for beside register results (R394): the answer of a barrier, counter, queue or link
operation, by the instruction that waits. -/
inductive SeqWait where
  | none
  /-- the unit's answer to an operation sent (BARINI, PQPOP, ...), written by its event -/
  | answer
  /-- the release wait has ended and the arrival was sent; the generation returned by it (BARAW, R394) -/
  | arrived (gen : Option (BitVec 16))
  /-- a release's wait for the accesses issued before it (R359), and then for the cut of an interval (R273) -/
  | fence (ids : List Nat) (cut : Option Nat)
  /-- a TRAP whose record stands at this ring index, and the answer word read last (R302) -/
  | trap (idx : Nat) (v : Option DWord)
  /-- the cut whose LIVE this MARKER waits for, to write register d (R304) -/
  | cut (n d : Nat)
  /-- a STAGE armed in this cycle (R355) -/
  | armed (at_ : Nat)
  /-- STAGE or CTX switching to a context, observed in this cycle (R347) -/
  | switch (ctx o : Nat)
  /-- WAITEV waits for a package cycle count, to write register d (R357) -/
  | until (t d : Nat)
  /-- WAITEV polls an address; the value read last (R357) -/
  | poll (ea : DWord) (v : Option DWord)
  /-- the instruction faulted and the freeze has still to reach the core (R344) -/
  | faulted
  deriving DecidableEq, Repr

/-- The sequencer of a core (R344): registers g1-g31 (unlisted: 0; g0 reads 0), pending register writes by the cycle
from which they may be read, registers an outstanding load will write, and the wait in progress. -/
structure Seq where
  running : Bool
  halted : Bool
  pc : Nat
  g : AMap DWord
  ready : AMap Nat
  busy : List Nat
  next : Nat
  wait : SeqWait
  loads : Nat
  trapIdx : Option Nat
  deriving DecidableEq, Repr

/-- The accumulator classes of R53. -/
inductive Cls where
  | n80 | h112 | w576
  deriving DecidableEq, Repr

/-- The states of a frame (R62). -/
inductive FState where
  | empty | zeroed | accumulating | settled | drained | spilled
  deriving DecidableEq, Repr

/-- An element of a frame: V and its four sticky flags (R53, R54). -/
structure Elem where
  v : Int
  nan : Bool
  pinf : Bool
  ninf : Bool
  ovf : Bool
  deriving DecidableEq, Repr

/-- A frame and its record (R59). Elements not listed are 0 with no flags. -/
structure Frame where
  cls : Cls
  state : FState
  inflight : Nat
  lst : Bool
  pcnt : Nat
  fexp : Int
  elems : AMap Elem
  deriving DecidableEq, Repr

/-- A queued matrix token (R124, R211): the 64-bit token, its attribute word, the next k-step, whether the bin
unit entered it (bin number, group), and the cycle it enters; its entry is taken from the allotment on. -/
structure XTok where
  id : Nat
  tok : DWord
  att : Word
  sparse : Bool
  next : Nat
  bin : Option (Nat × Nat)
  since : Nat
  deriving DecidableEq, Repr

/-- The selected k-step (R222): its queue, token and number, the cycle its fetch ends, whether the fetch has been
made, what it will insert, and for a remote B operand its owner, slot and multicast members. -/
structure Sel where
  q : Nat
  tokId : Nat
  s : Nat
  fetchEnd : Nat
  fetched : Bool
  contrib : List (Nat × Nat × Elem)
  k : Nat
  rag : Bool
  texp : Int
  cls : Cls
  owner : Nat
  slotA : Nat
  slotB : Nat
  group : List Nat
  /-- rows of the A tile, once fetched (R219) -/
  rows : Nat
  deriving DecidableEq, Repr

/-- An issued k-step in flight (R62): the insertion it will make, by (frame, element), and the frames it holds. -/
structure KFlight where
  id : Nat
  frames : List Nat
  contrib : List (Nat × Nat × Elem)
  tokId : Nat
  bin : Option (Nat × Nat)
  deriving DecidableEq, Repr

/-- An entry of the frame queue (R211): the matrix node's opcode, literal, place, tag, operands and reserved outputs; of an MXDR the
rounding mode, and under SR the Shaker states of its PE that its firing has taken (R50). -/
structure FqEnt where
  id : Nat
  op : Nat
  lit : Word
  cctx : Nat
  pe : Nat
  slot : Nat
  tag : Tag
  a : Token
  b : Option Token
  outs : List OutRes
  rm : Nat := 0
  sh : List Word := []
  deriving DecidableEq, Repr

/-- The matrix engine of a core (R211, R222, R224, R231). Frames not listed are EMPTY N80 frames (R61). -/
structure Mx where
  xq0 : List XTok
  xq1 : List XTok
  fq : List FqEnt
  fqBusy : Nat
  sel : Option Sel
  flights : List KFlight
  arrayFree : Nat
  lastIssue : Nat
  frames : AMap Frame
  w0 : Nat
  w1 : Nat
  c0 : Nat
  c1 : Nat
  balance : Nat
  requested : Bool
  cnt : AMap Nat
  locked : List Nat
  halted : List Nat
  deriving DecidableEq, Repr

/-- A row header (R419): its four doublewords. -/
structure RowHdr where
  d0 : DWord
  d1 : DWord
  d2 : DWord
  d3 : DWord
  deriving DecidableEq, Repr

/-- A row message on its way (R419-R421): header, whether a RSV bit of its line is set, payload bytes, source and destination, the
flit's bin number (16: none, an injected image), the cycle in which its destination unit can use it, and whether it is sent again after a
refusal (log 23). -/
structure RowMsg where
  hdr : RowHdr
  rsv : Bool
  payload : List Byte
  src : Nat
  dstPkg : Nat
  dst : Nat
  bin : Nat
  due : Nat
  again : Bool
  comb : Bool
  left : Bool
  node : Option Nat
  deriving DecidableEq, Repr

/-- A layer slot of the dispatch unit (R422), with its SERIAL counter and map cache (R423). -/
structure LayerSlot where
  layer : Nat
  nexp : Nat
  pol : Nat
  ext : Bool
  fmt : Nat
  len : Nat
  map : Nat
  ascale : Nat
  wait : Nat
  slotbase : Nat
  rowoff : Nat
  pitch : Nat
  serial : BitVec 32
  cache : AMap (Nat × DWord)
  deriving DecidableEq, Repr

/-- A bin's state (R434). -/
inductive BState where
  | opened | firing | sealed | drained
  deriving DecidableEq, Repr

/-- A group of a running firing, from its fix until its last result is sent (R435, R436): its number, rows, the tokens whose last
k-step has still to read its tiles, those whose frames have still to settle, whether the consumer advance is made, and the cycle in
which its last result leaves, once it drains. -/
structure BGroup where
  g : Nat
  rows : Nat
  toRead : Nat
  toSettle : Nat
  adv : Bool
  free : Option Nat
  deriving DecidableEq, Repr

/-- A configured bin (R431-R438): descriptor doublewords 0-2, state, whether it receives, CLOSED (a pair's, kept on both), rows counted,
T0, the trigger with the one that applies from a later cycle (cycle, CNT, TMR), the cycle the timer expires, event counts, and the
running firing: groups fixed, and those whose results are unsent. -/
structure Bin where
  dw0 : DWord
  dw1 : DWord
  dw2 : DWord
  state : BState
  receiving : Bool
  closed : Bool
  r : Nat
  t0 : Nat
  cnt : Nat
  tmr : Nat
  trig : Option (Nat × Nat × Nat)
  timer : Option Nat
  fires : Nat
  seals : Nat
  drains : Nat
  fixed : Nat
  groups : List BGroup
  deriving DecidableEq, Repr

/-- A duplicate window (R433): its key, whether a SERIAL has been seen, HI and MASK. -/
structure Window where
  layer : Nat
  pkg : Nat
  home : Nat
  any : Bool
  hi : BitVec 32
  mask : BitVec 256
  deriving DecidableEq, Repr

/-- The combine configuration (R441), NEXT, the row being written (its cycle, rounding mode, and whether only the advance is left) and
the scratch address at which each slot's row was written (R443, R444). -/
structure Combine where
  dw0 : DWord
  dw1 : DWord
  next : Nat
  writing : Option (Nat × Nat × Bool)
  addrs : AMap Nat
  deriving DecidableEq, Repr

/-- A refusal being retried (R430): its message and layer slot, the cycle of the first refusal, the cycle of the next resend, and the
wait bound. -/
structure Retry where
  id : Nat
  msg : RowMsg
  ls : Nat
  first : Nat
  next : Nat
  bound : Nat
  deriving DecidableEq, Repr

/-- A DISP in progress (R429): the node, its token, its outputs, the headers it has still to send, its layer slot, and whether the
unit has begun it. -/
structure DispJob where
  cctx : Nat
  pe : Nat
  slot : Nat
  a : Token
  outs : List OutRes
  n : Nat
  ls : Nat
  begun : Bool
  deriving DecidableEq, Repr

/-- The row units of a core (R419-R448): layer slots, header queue and resends with their layer slots, DISPs, refusals, bins, accepted
rows with their bin and counting cycle, windows (least recently used first), spill configurations, combine, the BT condition of
BINTRG with its count, the first cycles in which the bin and the combine unit take their next header (R433, R442), the counters of RWST, and
by node key the tables of STAMP and CFW. -/
structure Rows where
  layers : AMap LayerSlot
  hdrs : List (RowHdr × Nat)
  disp : List DispJob
  dispFree : Nat
  resend : List (RowHdr × Nat)
  retry : List Retry
  bins : AMap Bin
  accepted : AMap (RowMsg × Nat × Nat)
  windows : List Window
  spills : List (List DWord)
  cmb : Option Combine
  btMask : Nat
  btEv : Nat
  btN : Nat
  btCount : Nat
  binAt : Nat
  cmbAt : Nat
  cnt : AMap Nat
  stamps : AMap (List (Tag × List Token))
  paths : AMap (List (Tag × Token × Token))
  deriving DecidableEq, Repr

/-- A collective slot of a core (R459, R461): the core's count in its ticket, status, descriptor fields, the phase (0 waits for its
frames, 1 writes its image, 2 adds, 3 awaits the sum, 4 has ended) and round, whether a mismatch was seen, the frames to restore, and
the package count by which the awaited image must come (0: none is awaited). -/
structure Coll where
  count : BitVec 32
  status : Nat
  gang : Nat
  seqn : Nat
  fb : Nat
  fc : Nat
  stg : Nat
  tmo : Nat
  phase : Nat
  round : Nat
  bad : Bool
  saved : List Frame
  deadline : Nat
  deriving DecidableEq, Repr

/-- One line of the write-combining buffer (R265): its index, byte mask, bytes, the domains of its stores, the cycle it was accepted, and
the stores it holds, as source (a PE; 64 + n for channel n; 128 the sequencer; 192 + n for PE n by PATH = 1), order of issue, address
and bytes. -/
structure WcEnt where
  line : Nat
  mask : BitVec 128
  bytes : List Byte
  doms : List Nat
  since : Nat
  stores : List (Nat × Nat × Nat × Nat)
  deriving DecidableEq, Repr

/-- A TLB entry (R400): context, page number base, level of the leaf (2-4), the leaf entry and its address. -/
structure TlbEnt where
  ctx : Nat
  va : Nat
  level : Nat
  leaf : DWord
  leafPa : Nat
  used : Nat
  deriving DecidableEq, Repr

/-- A compute core (R17); pastProduct once it has left context 2, the PRODUCT stage (R22, R321): the fabric's program and buffers, the engines and the units; dqServed
is the cycle after the one in which its deque served last (R323). Buffer keys: destination port p
of PE i in context c at (64c + i) * 16 + p (port 9: start tokens); edge port e in context c at 4096 + 64c + e.
Node keys: slot n of PE i in context c at (64c + i) * 64 + n. -/
structure Core where
  launch : Option Nat
  grel : Nat
  ctxm : Nat
  loaded : Nat
  forked : Bool
  oldUntil : Nat
  stopped : Bool
  gated : Bool
  scnt : Nat
  pastProduct : Bool
  bt : Bool
  btAt : Nat
  lastOut : Nat
  pcon : List (Nat × Nat)
  mode : List (Nat × DWord)
  latch : Word
  nodes : AMap Slot
  bufs : AMap (List OutEntry)
  matchSt : AMap (List MatchEntry)
  sf : AMap (List Word)
  /-- the sf registers that hold an error token (R81, R98) -/
  sfE : AMap Bool
  flights : List Flight
  snips : AMap SnipRun
  issued : AMap Nat
  sfu : AMap Nat
  memPort : AMap Nat
  since : List (Nat × Pick × Nat)
  shaker : AMap (List Word)
  tags : AMap (Tag × Word × Nat)
  tagFree : List (Nat × Nat)
  bind : AMap Nat
  seamShut : List (Nat × Nat × Nat × Bool)
  doneSet : List Nat
  markSet : List Nat
  frameCls : AMap Cls
  dqServed : Nat
  prog : List Word
  progPad : List Nat
  sprog : List Word
  sprogPad : List Nat
  seq : Seq
  strm : Strm
  chans : AMap Channel
  table : List (Nat × Nat × List DWord)
  handles : AMap Handle
  waits : List Wait
  mx : Mx
  rows : Rows
  colls : AMap Coll
  collCnt : BitVec 32
  wc : List WcEnt
  tlb : List TlbEnt
  acq : Nat
  deriving DecidableEq, Repr

/-- A line of a slice cache (R241, R242): its line index, sector valid, dirty and pending-fill bits. -/
structure CLine where
  line : Nat
  valid : BitVec 4
  dirty : BitVec 4
  rrpv : Nat
  deriving DecidableEq, Repr

/-- A far-cache line (R244, R245): its way, the bytes it holds, its epoch, and for each sector the number of the fill or store whose bytes it
holds (R257). -/
structure FarLine where
  line : Nat
  way : Nat
  bytes : List Byte
  ep : Nat
  rrpv : Nat
  stamp : List Nat
  deriving DecidableEq, Repr

/-- An interval store buffer entry (R248). -/
structure StEnt where
  launch : Nat
  interval : Nat
  sector : Nat
  mask : BitVec 32
  bytes : List Byte
  deriving DecidableEq, Repr

/-- A domain of an order slice (R268): key, expected number, stride, base mask, and the accesses held. -/
structure Domain where
  launch : Nat
  dom : Nat
  nx : BitVec 16
  stride : Nat
  bases : Nat
  held : List (BitVec 16 × Nat)
  deriving DecidableEq, Repr

/-- A cache slice (R241-R243, R248, R268): relAt is the cycle from which its order slice may release again (R269). -/
structure Slice where
  ways : AMap CLine
  psel : AMap Nat
  brrip : AMap Nat
  stores : List StEnt
  doms : List Domain
  relAt : Nat
  deriving DecidableEq, Repr

/-- A promotion slot of an HBM bank (R405). -/
structure PSlot where
  pin : Bool
  row : Nat
  seq : Nat
  leaf : Nat
  deriving DecidableEq, Repr

/-- A queued promotion or demotion (R405): the row, what it does (pin: with pin, or an unpinning alone), its leaf, the operation
it belongs to, and the cycle in which it reaches the bank. -/
structure PJob where
  row : Nat
  demote : Bool
  pin : Bool
  leaf : Nat
  op : Nat
  since : Nat
  deriving DecidableEq, Repr

/-- An HBM bank (R405): its slots, PSEQ, the jobs that wait, the cycle until which it is held, and the job and slot that it is held for.
Banks of a die are numbered stack * 4624 + bank. -/
structure Bank where
  slots : AMap PSlot
  pseq : Nat
  jobs : List PJob
  held : Nat
  running : Option (PJob × Nat)
  deriving DecidableEq, Repr

/-- A Banker counter (R407). -/
structure BkCnt where
  ctx : Nat
  va : Nat
  leafPa : Nat
  n : Nat
  deriving DecidableEq, Repr

/-- A Banker counter that has been freed: its place in the table is taken first again (R407); no context has its number. -/
def BkCnt.free : BkCnt := ⟨4096, 0, 0, 0⟩

/-- A queued Banker move (R408): kind 0 up-move, 1 promote, 2 window fill. -/
structure BkMove where
  kind : Nat
  ctx : Nat
  va : Nat
  leafPa : Nat
  deriving DecidableEq, Repr

/-- A stall-table entry (R401): context, page, write flag, ring index of its record, the accesses that wait, and the requests of the scheduler
and its loader, each as 0 and a queue or 1 and an image entry, with its address (R341, R497). -/
structure Stall where
  ctx : Nat
  va : Nat
  write : Bool
  recIdx : Nat
  cause : Nat
  ids : List Nat
  asks : List (Nat × Nat × Nat)
  deriving DecidableEq, Repr

/-- The governor, caches, tables and Banker of a compute die (R20, R21, R244, R400, R401, R406, R407). Waiting grant requests
are 1,024 times the cycle of the request plus the core; heat holds, for each temperature threshold of R21, whether it
lowers CAP and the last cycle in which the temperature was not 3 °C below it. Acquires are the cycle and the cores that advanced the
epoch in it (R245); walks the page walks by context and page, each with the cycle in which it completes. -/
structure Die where
  cap : Nat
  d : Nat
  waiting : List Nat
  opCap : Nat
  heat : List (Bool × Nat)
  slices : AMap Slice
  far : AMap FarLine
  ae : Nat
  acquires : Nat × List Nat
  walks : List (Nat × Nat × Nat)
  tlb : List TlbEnt
  stalls : List Stall
  banks : AMap Bank
  bkctl : DWord
  bkfree : DWord
  bkret : DWord
  bkptr : DWord
  bkcnt : List BkCnt
  bkq : List BkMove
  bkrun : Option (BkMove × Nat × DWord)
  bkspare : List Nat
  decoding : List Nat
  deriving DecidableEq, Repr

/-- The states of a context (R280). -/
inductive CtxState where
  | free | loading | ready | running | gating | saved | frozen | faulted | rollingBack | dead
  deriving DecidableEq, Repr

/-- A context (R280, R298, R299, R310). -/
structure Ctx where
  state : CtxState
  statebase : DWord
  fltbase : DWord
  mode : DWord
  wdog : DWord
  snapcfg : DWord
  root : Nat
  deriving DecidableEq, Repr

/-- The states of a queue (R308, R314). -/
inductive QState where
  | empty | armed | active | blocked | suspended | error
  deriving DecidableEq, Repr

/-- A queue (R308): registers and state; the head record as read, with a graph's launch records, and the launches of the
head instance still to complete, saved or not (R314); rectangles reserved for the head as (die, origin, rows, columns, group
number) and the launches whose saves it waits for (R320); the acceptance cycles of its records by index (R312); the cycle until which
decisions skip it, its gang round and the round's deadline (R370, R372); spill descriptors registered by the instance,
whether they have been looked at, and the spill-pass record still to be placed (R321);
counter writes and the run to an index of HEAD that have still to be made (R317, R497): the index, CAN, whether a graph's own
launches count too, and the records whose counters stand in pend already; and the gang descriptor read when the head was checked (R369). -/
structure Queue where
  base : DWord
  en : Bool
  weight : Nat
  ctx : Nat
  tail : BitVec 32
  head : BitVec 32
  deficit : Nat
  waits : Nat
  state : QState
  recs : List (List DWord)
  launches : List Nat
  saved : Bool
  resv : List (Nat × Nat × Nat × Nat × Nat)
  victims : List Nat
  accepted : AMap Nat
  skip : Nat
  spill : List (List DWord)
  spilled : Bool
  spillRec : Option (List DWord)
  round : Nat
  deadline : Nat
  pend : List (Nat × Bool)
  ending : Option (Nat × Bool × Bool × Nat)
  gdesc : List DWord := []
  deriving DecidableEq, Repr

/-- The states of a group (R362). -/
inductive GState where
  | reserved | stitched | running | gated | quiescent | released
  deriving DecidableEq, Repr

/-- The states of a launch (R281). -/
inductive LState where
  | loading | running | gating | saving | freezing | saved | frozen | faulted | rollingBack | cutting | complete
  deriving DecidableEq, Repr

/-- The gang round of a launch (R370, R371): gang number, round, deadline, state (0 PENDING, 1 READY, 2 STARTED,
3 ABANDONED), and the start cycle. -/
structure Gang where
  gang : Nat
  round : Nat
  deadline : Nat
  st : Nat
  start : Nat
  deriving DecidableEq, Repr

/-- A Banker-managed window (R410): offset in slots, slots, pages, base address, and by slot the page it caches with its leaf's
address. -/
structure BkWindow where
  off : Nat
  nsl : Nat
  nvp : Nat
  va : Nat
  slots : AMap (Nat × Nat)
  deriving DecidableEq, Repr

/-- An operation on its way to a shared unit (a barrier entry, a counter, a priority queue, a deque), kept until its
arrival event takes it. -/
structure UnitOp where
  core : Nat
  launch : Nat
  op : Nat
  target : Nat
  val : DWord
  reg : Nat
  half : Nat
  tok : Option Token
  node : Option (Nat × Nat × Nat)
  outs : List OutRes
  queue : Option Nat
  victims : List Nat
  deriving DecidableEq, Repr

/-- What a save or a cut keeps of a launch beside its launch area, cores by group-relative number (R283): cores, the domains of its order
slices, its accesses that wait for a cut or for a number still to be sent, the value that the fabric areas' contents follow, whether the end
token has been sent, the guard's count, mode and queue (R367, R368), and W. -/
structure Kept where
  cores : AMap Core
  doms : List Domain
  accs : AMap Access
  seed : Nat
  endSent : Bool
  gdrop : BitVec 32
  gmode : List (Nat × Nat × DWord)
  guard : List (Nat × UnitOp)
  ways : Nat
  deriving DecidableEq, Repr

/-- Nothing kept. -/
def Kept.none : Kept := ⟨[], [], [], 0, false, 0, [], [], 0⟩

/-- A placed launch and its group (R311, R342, R361, R362, R367): started once its sequencers have run, after a first load;
resume where the host has resumed it before its freeze was saved; frozeAt the cycle in which its last freeze began; doms the domains that a save has taken from its slices (R268); toStop the cores a stop wave has still to stop; ending the
level of a DONE or CANCEL (true) that waits for the accesses it reaches, with the TAILs of its context's queues when it performed; yields a YIELD of this cycle that gates it (R281, R305). -/
structure Launch where
  ctx : Nat
  queue : Nat
  recd : List DWord
  die : Nat
  origin : Nat
  rows : Nat
  cols : Nat
  gnum : Nat
  ls : Nat
  entry : Nat
  state : LState
  gstate : GState
  after : LState
  kind : Nat
  placedAt : Nat
  started : Bool
  resume : Bool
  toStop : List Nat
  gdrop : BitVec 32
  gmode : List (Nat × Nat × DWord)
  guardQ : List Nat
  wdog : List (Nat × DWord)
  snapcfg : List (Nat × DWord)
  stalled : Nat
  cuta : DWord
  cutb : DWord
  live : Nat
  interval : Nat
  rollbacks : Nat
  lastCut : Nat
  cutWait : List Nat
  ways : Nat
  window : Option BkWindow
  sweeps : Nat
  lastQuiet : Bool
  endSent : Bool
  priv : Kept
  gang : Option Gang
  cut : Kept
  doms : List Domain
  frozeAt : Nat
  ending : Option (Nat × Bool × List (Nat × Nat))
  yields : Bool := false
  deriving DecidableEq, Repr

/-- The states of an image-cache entry (R331). -/
inductive EState where
  | absent | decoding | resident | inUse
  deriving DecidableEq, Repr

/-- A decoded image (R332-R340): shape, flags, windows, stream table, programs and the fabric contexts as a core
record per group-relative core. -/
structure Image where
  rows : Nat
  cols : Nat
  det : Bool
  snap : Bool
  ctxm : Nat
  windows : List (Nat × Nat × Nat)
  streams : List (Nat × Nat × List DWord)
  seqProg : List Word
  seqPad : List Nat
  strmProg : List Word
  strmPad : List Nat
  cores : AMap Core
  bytes : Nat
  deriving DecidableEq, Repr

/-- An image-cache entry (R330, R331). -/
structure Entry where
  state : EState
  ctx : Nat
  image : Nat
  gen : Nat
  users : List Nat
  placed : Nat
  img : Option Image
  deriving DecidableEq, Repr

/-- The states of a barrier entry (R380). -/
inductive BarState where
  | idle | counting | tripped | broken
  deriving DecidableEq, Repr

/-- A barrier entry (R378), with the cores that wait and the generation each waits on, the queues whose barrier record has
arrived, the member packages whose ARRIVE the coordinator holds, and the cycle of the last trip. Keys: die * 4096 + entry. -/
structure Bar where
  state : BarState
  owner : Nat
  scope : Nat
  expect : Nat
  count : Nat
  gen : BitVec 16
  tmo : Nat
  gang : Nat
  t0 : Nat
  waiters : List (Nat × BitVec 16)
  queue : List Nat
  arrives : List Nat
  tripAt : Nat
  deriving DecidableEq, Repr

/-- A work counter (R385). -/
structure Wcnt where
  v : Bool
  owner : Nat
  value : DWord
  zc : BitVec 32
  waiters : List Nat
  deriving DecidableEq, Repr

/-- A die priority queue (R322): configuration, front slots, backing store, refills in transit by the cycle in which they land, the
earliest cycle of the next refill's start, and the cycle after the one in which it served last. -/
structure Pq where
  en : Bool
  ctx : Nat
  area : Nat
  front : AMap DWord
  back : List DWord
  transit : List (Nat × DWord)
  nextStart : Nat
  served : Nat
  deriving DecidableEq, Repr

/-- The states of a link port (R451). -/
inductive PState where
  | down | training | attesting | up | retraining | failed
  deriving DecidableEq, Repr

/-- A link port (R450-R453, R456, R458, R461): state and the cycle it began; EN; the peer's package and port; lanes; the cycles of the
recent retrains; RETRAINS and REPLAYS; the distance to the time master through it and the time offset last measured; sequence numbers
to send and expected; whether a nak is out; the replay buffer, the resends of its oldest flit and the cycle of the last
acknowledgement; credits by channel; the messages being received, by channel, package and source; attestation parts received. -/
structure Port where
  state : PState
  since : Nat
  en : Bool
  peer : Nat
  pport : Nat
  att : Bool
  lanes : Nat
  retrains : List Nat
  nretrain : Nat
  replays : Nat
  hops : Nat
  offset : Int
  txSeq : BitVec 12
  rxSeq : BitVec 12
  naked : Bool
  replay : List Flit
  tries : Nat
  lastAck : Nat
  credits : AMap Nat
  rx : AMap (List Byte)
  parts : List Nat
  deriving DecidableEq, Repr

/-- A fault record that has been written, as its eight doublewords; kept for the management log (R458). -/
abbrev FaultRec := List DWord

/-- An access-table entry (R457): four doublewords. -/
structure AccEnt where
  dw0 : DWord
  base : DWord
  limit : DWord
  target : DWord
  deriving DecidableEq, Repr

/-- The signed device record in module flash (R28, R458), which gives all configuration: whether its two signatures verify, whether its
certificates of the package's two public keys do, the capacities of a die in each class and of LPDDR6 in bytes (R239, R404), and the
ranges of region 0x3 that the HDM decoders map (R411), each as its offset and its size. -/
structure DeviceRec where
  sigEd : Bool
  sigMl : Bool
  certEd : Bool
  certMl : Bool
  hbmS : Nat
  hbmF : Nat
  lpddr : Nat
  cxl : List (Nat × Nat)
  deriving DecidableEq, Repr

/-- The whole package. -/
structure State where
  /-- model clock, in cycles of ACLK (R5); the model's own field (log 1) -/
  now : Nat
  /-- the package cycle count that TIMELO, TIMEHI and TIME give (R299, R358, R456) -/
  count : BitVec 64
  /-- events due, earliest first; the model's own field (log 1) -/
  agenda : List (Nat × Instr × EvArg)
  /-- who issues the instruction exec runs; the model's own field (log 1) -/
  cur : Place
  /-- the cycle whose operand acceptance has been made; the model's own field (log 1) -/
  settledAt : Nat
  /-- agents that have been offered their issue in this cycle; the model's own field (log 1) -/
  offered : Nat
  /-- counter of free values (log 2) -/
  freeCtr : Nat
  /-- numbers given to accesses, firings, messages and operations; the model's own field (log 1) -/
  nextId : Nat
  /-- whether the main side is powered (R26, R27) -/
  powered : Bool
  /-- memory, canonical (R3, R238): physical bytes, then scratch, then group windows (log 3) -/
  mem : List Host.Cell
  /-- poisoned 32-byte sectors, by sector address (R292) -/
  poison : List Nat
  /-- compute cores by number (unlisted: Core.idle) -/
  cores : AMap Core
  /-- compute dies CD0-CD3 (unlisted: Die.reset) -/
  dies : AMap Die
  /-- outstanding accesses by number -/
  accs : AMap Access
  /-- contexts by CTXID (unlisted: FREE) -/
  ctxs : AMap Ctx
  /-- queues by number (unlisted: Queue.reset) -/
  queues : AMap Queue
  /-- placed and saved launches -/
  launches : AMap Launch
  /-- image-cache entries by 64 * die + index (unlisted: ABSENT) -/
  entries : AMap Entry
  /-- every fault record written, oldest first, as the management log keeps it (R458) -/
  faultLog : List FaultRec
  /-- CTXCMD and CTXRSP (R310) -/
  ctxcmd : DWord
  ctxrsp : DWord
  /-- PGCMD and PGRSP (R401) -/
  pgcmd : DWord
  pgrsp : DWord
  /-- GANGBASE (R369) -/
  gangbase : DWord
  /-- READYs that this package holds as a coordinator: gang, round, package (R371) -/
  gangPosts : List (Nat × Nat × Nat)
  /-- PQCFG doublewords and the priority queues (R308, R322) -/
  pqs : AMap Pq
  /-- barrier entries (R378) -/
  bars : AMap Bar
  /-- work counters (R385) -/
  wcnts : AMap Wcnt
  /-- operations on their way to a shared unit -/
  ops : AMap UnitOp
  /-- row messages on their way (R421) -/
  msgs : AMap RowMsg
  /-- link ports lp0-lp15 (unlisted: DOWN) -/
  ports : AMap Port
  /-- the route tables of HD0 and HD1 (R455): entries by 256 * hub + package -/
  routes : AMap DWord
  /-- access tables by block base (R457) -/
  access : AMap AccEnt
  /-- responses kept for peers, by source package and request number (R454) -/
  peerResp : List (Nat × Nat × List Byte)
  /-- flits that wait for a port of their route, oldest first (R452, R455) -/
  outbox : List Flit
  /-- flits put on the lines of a port in this cycle, oldest first (R452) -/
  wire : List (Nat × Flit)
  /-- the number of the next request to a peer (R454) -/
  reqNum : BitVec 16
  /-- collective images received and not yet used: what the message says and its bytes (R459) -/
  images : List (List Nat × List Byte)
  /-- packages with a path at the end of the last cycle (R455); the model's own field (log 1) -/
  reached : List Nat
  /-- signed device, topology and firmware records (R27-R29, R458) -/
  device : DeviceRec
  topo : TopoRec
  fwActive : FwImage
  fwStaged : Option FwImage
  fwMin : Nat
  /-- the management log, as (what, where): 1 firmware that did not verify, 2 a port's attestation, 3 a topology record, 4 a device record, and the last
  answer of the management port (R27, R451, R458) -/
  mgmtLog : List (Nat × Nat)
  mgmtOut : List Nat
  /-- whether the time reference has been stepped (R456) -/
  timeSet : Bool
  timeSlew : Int
  deriving DecidableEq, Repr

/-- A core that no launch holds (R343 and DESIGN CHOICE, log 4: values no rule gives). -/
def Core.idle : Core where
  launch := none
  grel := 0
  ctxm := 0
  loaded := 0
  forked := false
  oldUntil := 0
  stopped := false
  gated := false
  scnt := 0
  pastProduct := false
  bt := false
  btAt := 0
  lastOut := 0
  pcon := []
  mode := []
  latch := 0
  nodes := []
  bufs := []
  matchSt := []
  sf := []
  sfE := []
  flights := []
  snips := []
  issued := []
  sfu := []
  memPort := []
  since := []
  shaker := []
  tags := []
  tagFree := []
  bind := []
  seamShut := []
  doneSet := []
  markSet := []
  frameCls := []
  dqServed := 0
  prog := []
  progPad := []
  sprog := []
  sprogPad := []
  seq := ⟨false, false, 0, [], [], [], 0, .none, 0, none⟩
  strm := ⟨false, false, 0, [], 0, 0, none⟩
  chans := []
  table := []
  handles := []
  waits := []
  mx := ⟨[], [], [], 0, none, [], 0, 0, [], 1, 1, 1, 1, 0, false, [], [], []⟩
  rows := ⟨[], [], [], 0, [], [], [], [], [], [], none, 0, 0, 0, 0, 0, 0, [], [], []⟩
  colls := []
  collCnt := 0
  wc := []
  tlb := []
  acq := 0

/-- A compute die after die reset (R21, R243, R405, R406): CAP nominal, BKCTL with TW 512, TP 128, TL 32, ring sizes 4. -/
def Die.reset : Die where
  cap := 81920
  d := 0
  waiting := []
  opCap := 81920
  heat := []
  slices := []
  far := []
  ae := 0
  acquires := (0, [])
  walks := []
  tlb := []
  stalls := []
  banks := []
  bkctl := 0x0000020000800020#64
  bkfree := 4#64
  bkret := 4#64
  bkptr := 0
  bkcnt := []
  bkq := []
  bkrun := none
  bkspare := []
  decoding := []

/-- A queue after die reset (R308): SUSPENDED, WEIGHT 1. -/
def Queue.reset : Queue where
  base := 0
  en := false
  weight := 1
  ctx := 0
  tail := 0
  head := 0
  deficit := 0
  waits := 0
  state := .suspended
  recs := []
  launches := []
  saved := false
  resv := []
  victims := []
  accepted := []
  skip := 0
  spill := []
  spilled := false
  spillRec := none
  round := 0
  deadline := 0
  pend := []
  ending := none

/-- A context that is FREE (R280), its registers at the values of R299's Reset column. -/
def Ctx.none : Ctx := ⟨.free, 0, 0, 0, 65536#64, 0, 0⟩

/-- The package right after power-on and die reset: the main side on with verified firmware (R27), the count 0
(R299), CTXRSP and PGRSP with V set (R310, R401), everything else empty or at the reset value its rule gives. -/
def State.reset : State where
  now := 0
  count := 0
  agenda := []
  cur := .none
  settledAt := 0
  offered := 0
  freeCtr := 0
  nextId := 0
  powered := true
  mem := []
  poison := []
  cores := []
  dies := []
  accs := []
  ctxs := []
  queues := []
  launches := []
  entries := []
  faultLog := []
  ctxcmd := 0
  ctxrsp := 0x8000000000000000#64
  pgcmd := 0
  pgrsp := 0x8000000000000000#64
  gangbase := 0
  gangPosts := []
  pqs := []
  bars := []
  wcnts := []
  ops := []
  msgs := []
  ports := []
  routes := []
  access := []
  peerResp := []
  outbox := []
  wire := []
  reqNum := 0
  images := []
  reached := []
  device := ⟨true, true, true, true, 310311387136, 7272923136, 4096000000000, []⟩
  topo := ⟨0, [], [], 0, [], true, true⟩
  fwActive := ⟨1, true, true⟩
  fwStaged := none
  fwMin := 0
  mgmtLog := []
  mgmtOut := []
  timeSet := false
  timeSlew := 0

end Sys2Proof.Machine
end

