-- ==== Sys2Proof/Machine/Ops.lean ====
section
/-! DEFINITION. The shared operations: units of the state by number, the agenda, memory and its canonical form,
translation, fault records, and taking a fault (record and freeze) with the return from it (R287, R288, R293-R295). -/

namespace Sys2Proof.Machine

/-- The outcome type of every meaning. -/
abbrev Res := Host.Outcome State Fault Refusal

/-! ## Units by number -/

/-- Core c (R16). -/
def State.core (s : State) (c : Nat) : Core := AMap.get s.cores c Core.idle

/-- The state with core c replaced. -/
def State.setCore (s : State) (c : Nat) (k : Core) : State := { s with cores := AMap.put s.cores c k }

/-- The state with core c changed by f. -/
def State.modCore (s : State) (c : Nat) (f : Core → Core) : State := s.setCore c (f (s.core c))

/-- Compute die d (R14). -/
def State.die (s : State) (d : Nat) : Die := AMap.get s.dies d Die.reset

/-- The state with die d changed by f. -/
def State.modDie (s : State) (d : Nat) (f : Die → Die) : State := { s with dies := AMap.put s.dies d (f (s.die d)) }

/-- Slice n of a die before use: PSEL 511 in every class (R243). -/
def Slice.reset : Slice := ⟨[], [(0, 511), (1, 511), (2, 511), (3, 511)], [], [], [], 0⟩

/-- Slice n of die d. -/
def State.slice (s : State) (d n : Nat) : Slice := AMap.get (s.die d).slices n Slice.reset

/-- The state with a slice changed by f. -/
def State.modSlice (s : State) (d n : Nat) (f : Slice → Slice) : State :=
  s.modDie d fun k => { k with slices := AMap.put k.slices n (f (AMap.get k.slices n Slice.reset)) }

/-- Queue q (R308). -/
def State.queue (s : State) (q : Nat) : Queue := AMap.get s.queues q Queue.reset

/-- The state with queue q changed by f. -/
def State.modQueue (s : State) (q : Nat) (f : Queue → Queue) : State :=
  { s with queues := AMap.put s.queues q (f (s.queue q)) }

/-- Context x (R280). -/
def State.ctx (s : State) (x : Nat) : Ctx := AMap.get s.ctxs x Ctx.none

/-- The state with context x changed by f. -/
def State.modCtx (s : State) (x : Nat) (f : Ctx → Ctx) : State := { s with ctxs := AMap.put s.ctxs x (f (s.ctx x)) }

/-- The state with launch l, if there is one, changed by f. -/
def State.modLaunch (s : State) (l : Nat) (f : Launch → Launch) : State :=
  match AMap.find? s.launches l with
  | none => s
  | some x => { s with launches := AMap.put s.launches l (f x) }

/-- A fresh number for an access, firing, message or operation. -/
def State.fresh (s : State) : Nat × State := (s.nextId, { s with nextId := s.nextId + 1 })

/-- A free value's argument, and the state with the counter advanced (log 2). -/
def State.freeArg (s : State) : Nat × State := (s.freeCtr, { s with freeCtr := s.freeCtr + 1 })

/-- The agenda with an event added after those due no later. -/
def insertDue (t : Nat) (i : Instr) (a : EvArg) : List (Nat × Instr × EvArg) → List (Nat × Instr × EvArg)
  | [] => [(t, i, a)]
  | (u, j, b) :: r => if t < u then (t, i, a) :: (u, j, b) :: r else (u, j, b) :: insertDue t i a r

/-- Event i happens in cycle t to the parties named by numbers. -/
def State.at (s : State) (t : Nat) (i : Instr) (a : List Nat) : State :=
  { s with agenda := insertDue t i (.nums a) s.agenda }

/-- Event i happens n cycles from now. -/
def State.after (s : State) (n : Nat) (i : Instr) (a : List Nat) : State := s.at (s.now + n) i a

/-- Event i with operands a does not happen. -/
def State.cancelEv (s : State) (i : Instr) (p : List Nat → Bool) : State :=
  { s with agenda := s.agenda.filter fun e => !(e.2.1 == i && (match e.2.2 with | .nums l => p l | _ => false)) }

/-- The numbers an event names. -/
def State.args (s : State) : List Nat :=
  match s.cur with
  | .ev (.nums l) => l
  | .ev (.word q _) => [q]
  | .ev (.evidence p _) => [p]
  | .ev (.flit p _) => [p]
  | .ev (.bytes l _) => l
  | _ => []

/-- The n-th number an event names; 0 when it names fewer. -/
def State.arg (s : State) (n : Nat) : Nat := s.args.getD n 0

/-- The value a register write brings. -/
def State.argVal (s : State) : DWord :=
  match s.cur with
  | .ev (.word _ v) => v
  | .ev (.reg _ _ v) => v
  | _ => 0

/-- The value of a timed register from its history, newest entry first: the first entry no later than now. -/
def timed {α : Type} (now : Nat) (d : α) (h : List (Nat × α)) : α :=
  match h with
  | [] => d
  | (t, v) :: r => if t ≤ now then v else timed now d r

/-! ## Placement of cores -/

/-- Row, column, die and cluster of a core (R16). -/
def rowOf (c : Nat) : Nat := c % 256 / 16
def colOf (c : Nat) : Nat := c % 16
def dieOf (c : Nat) : Nat := c / 256
def clusterOf (c : Nat) : Nat := dieOf c * 16 + rowOf c / 4 * 4 + colOf c / 4

/-- Cluster core index (R181). -/
def clusIdx (c : Nat) : Nat := 4 * (rowOf c % 4) + colOf c % 4

/-- The core of cluster index i in core c's cluster (R181). -/
def clusCore (c i : Nat) : Nat := dieOf c * 256 + (rowOf c / 4 * 4 + i / 4) * 16 + colOf c / 4 * 4 + i % 4

/-- |a - b|. -/
def absDiff (a b : Nat) : Nat := (a - b) + (b - a)

/-- Hop distance between two cores of a die (R287). -/
def hops (a b : Nat) : Nat := absDiff (rowOf a) (rowOf b) + absDiff (colOf a) (colOf b)

/-- Die crossings between dies: 0-3 compute, 4 HD0, 5 HD1 (R15, R240). -/
def crossings (a b : Nat) : Nat :=
  if a = b then 0
  else if a < 4 ∧ b < 4 then (if (a + 2) % 4 = b then 2 else 1)
  else if a < 4 then (if a / 2 = b - 4 then 1 else 2)
  else if b < 4 then (if b / 2 = a - 4 then 1 else 2)
  else 3

/-- The cores of a launch's group, in ascending group-relative number (R361). -/
def Launch.cores (l : Launch) : List Nat :=
  (List.range (l.rows * l.cols)).map fun n => l.origin + 16 * (n / l.cols) + n % l.cols

/-- Whether core c lies in the launch's group. -/
def Launch.has (l : Launch) (c : Nat) : Bool := l.cores.contains c

/-- The launch a core runs, with its number. -/
def State.launchOf (s : State) (c : Nat) : Option (Nat × Launch) :=
  match (s.core c).launch with
  | none => none
  | some n => (AMap.find? s.launches n).map fun l => (n, l)

/-! ## Memory -/

/-- The byte at an address; an address that is not listed reads 0 (DESIGN CHOICE, log 3). -/
def readByte (m : List Host.Cell) (a : Nat) : Byte :=
  match m with
  | [] => 0
  | (x, v) :: t => if a = x then v else readByte t a

/-- The cells of bytes at successive addresses: a 0 is not listed. -/
def cellsAt (a : Nat) : List Byte → List Host.Cell
  | [] => []
  | b :: r => if b = 0 then cellsAt (a + 1) r else (a, b) :: cellsAt (a + 1) r

/-- Memory with bytes at successive addresses, in canonical form: what lies below, the bytes, what lies above. -/
def writeBytes (m : List Host.Cell) (a : Nat) (bs : List Byte) : List Host.Cell :=
  (m.filter fun c => decide (c.1 < a)) ++ cellsAt a bs ++ m.filter fun c => decide (a + bs.length ≤ c.1)

/-- Memory with one byte at an address. -/
def writeByte (m : List Host.Cell) (a : Nat) (v : Byte) : List Host.Cell := writeBytes m a [v]

/-- n bytes from address a, of the cells of memory in canonical form from there on. -/
def readRun (a : Nat) : Nat → List Host.Cell → List Byte
  | 0, _ => []
  | n + 1, [] => 0 :: readRun (a + 1) n []
  | n + 1, (x, v) :: t => if x = a then v :: readRun (a + 1) n t else 0 :: readRun (a + 1) n ((x, v) :: t)

/-- n bytes from address a. -/
def readBytes (m : List Host.Cell) (a n : Nat) : List Byte := readRun a n (m.filter fun c => decide (a ≤ c.1) && decide (c.1 < a + n))

/-- Whether memory is in canonical form: addresses strictly rising, no listed 0. -/
def Memory.wf : List Host.Cell → Bool
  | [] => true
  | (x, v) :: t => v != 0 && (match t with
    | [] => true
    | (y, _) :: _ => decide (x < y)) && Memory.wf t

/-- Where scratch offset off of core c lies in memory (log 3). -/
def scratchAddr (c off : Nat) : Nat := 2 ^ 52 + c * 2 ^ 21 + off

/-- Bytes of core c's scratch. -/
def State.scratch (s : State) (c off n : Nat) : List Byte := readBytes s.mem (scratchAddr c off) n

/-- The state with bytes written to core c's scratch. -/
def State.putScratch (s : State) (c off : Nat) (bs : List Byte) : State :=
  { s with mem := writeBytes s.mem (scratchAddr c off) bs }

/-- The 32-byte sectors a write covers whole, whose poison it clears (R292). -/
def clearPoison (p : List Nat) (a n : Nat) : List Nat := p.filter fun x => !(a ≤ x && x + 32 ≤ a + n)

/-- A write to physical memory. -/
def State.putPhys (s : State) (pa : Nat) (bs : List Byte) : State :=
  { s with mem := writeBytes s.mem pa bs, poison := clearPoison s.poison pa bs.length }

/-- The doubleword at a physical address (R3). -/
def State.phys64 (s : State) (pa : Nat) : Nat := ofBytes (readBytes s.mem pa 8)

/-- The region of a physical address that memory answers: 0 HBM S, 1 HBM F, 2 LPDDR6, 3 CXL (R238, R239, R411); none
where an access faults BUS_RANGE. The capacities and the decoders' ranges are the device record's (R28). -/
def memRegion (s : State) (pa : Nat) : Option Nat :=
  let r := pa / 2 ^ 48
  let o := pa % 2 ^ 48
  if r = 0 then (if pa % 2 ^ 39 < s.device.hbmS ∧ o < 2 ^ 41 then some 0 else none)
  else if r = 1 then (if pa % 2 ^ 39 < s.device.hbmF ∧ o < 2 ^ 41 then some 1 else none)
  else if r = 2 then (if o < s.device.lpddr then some 2 else none)
  else if r = 3 then (if s.device.cxl.any fun x => decide (x.1 ≤ o) && decide (o < x.1 + x.2) then some 3 else none)
  else none

/-- The die of a register block (R238): HD0 for the scheduler block (R308), the Banker's own die (R406), a link block's hub die (R455). -/
def blockDie (pa : Nat) : Nat :=
  let o := pa % 2 ^ 48
  if 0x2000000 ≤ o ∧ o < 0x2040000 then (o - 0x2000000) / 0x10000
  else if 0x3000000 ≤ o ∧ o < 0x3200000 then 4 + (o - 0x3000000) / 0x100000 else 4

/-- The home die of a physical address: 0-3, or 4, 5 for the hub dies (R238). -/
def homeDie (pa : Nat) : Nat :=
  let r := pa / 2 ^ 48
  if r = 0 ∨ r = 1 then fld pa 40 39
  else if r = 2 then (if (fld pa 11 7 ^^^ fld pa 21 17) < 16 then 4 else 5)
  else if r = 4 then blockDie pa
  else if bitAt pa 47 then 5 else 4

/-- The home slice of a line (R241). -/
def sliceOf (pa : Nat) : Nat :=
  let l := pa / 128
  fld l 6 0 ^^^ fld l 13 7 ^^^ fld l 20 14 ^^^ fld l 27 21 ^^^ fld l 34 28 ^^^ fld l 41 35 ^^^ fld l 44 42

/-! ## Translation (R397-R399) -/

/-- What an access needs of a leaf (R399). -/
inductive Acc where
  | read | write | atomic
  /-- nothing: the leaf is only looked at (R417) -/
  | look
  deriving DecidableEq, Repr

/-- A translation: physical address, the leaf entry, where it lies, its level, and the entries read. -/
structure Trans where
  pa : Nat
  leaf : Nat
  leafPa : Nat
  level : Nat
  read : List Nat
  deriving DecidableEq, Repr

/-- The checks of a leaf entry (R399): malformed, permission, or the address. -/
def checkLeaf (e va z lvl leafPa : Nat) (acc : Acc) (rd : List Nat) : Except (Nat × Nat) Trans :=
  let f := fld e 51 13 * 2 ^ 13
  if fld e 61 59 = 7 ∨ f % 2 ^ z ≠ 0 then .error (lvl, 3)
  else if (acc = .read ∨ acc = .atomic) ∧ !bitAt e 57 then .error (lvl, 1)
  else if (acc = .write ∨ acc = .atomic) ∧ !bitAt e 58 then .error (lvl, 2)
  else .ok ⟨f + va % 2 ^ z, e, leafPa, lvl, rd⟩

/-- The walk from level lvl on, with the fuel of the levels left (R399). -/
def walkFrom (m : List Host.Cell) (va : Nat) (acc : Acc) : Nat → Nat → Nat → List Nat → Except (Nat × Nat) Trans
  | 0, lvl, _, _ => .error (lvl, 3)
  | fuel + 1, lvl, t, rd =>
    let at_ := t + 8 * fld va (55 - 10 * (lvl - 1)) (46 - 10 * (lvl - 1))
    let e := ofBytes (readBytes m at_ 8)
    let rd := rd ++ [at_]
    if !bitAt e 63 then .error (lvl, 0)
    else if fld e 55 52 ≠ 0 ∨ fld e 12 8 ≠ 0 ∨ (lvl = 1 ∧ bitAt e 62) ∨ (lvl = 4 ∧ !bitAt e 62) then .error (lvl, 3)
    else if bitAt e 62 then checkLeaf e va (16 + 10 * (4 - lvl)) lvl at_ acc rd
    else if fld e 61 59 ≠ 0 ∨ bitAt e 57 ∨ bitAt e 58 ∨ bitAt e 56 ∨ 3 < fld e 51 48 then .error (lvl, 3)
    else walkFrom m va acc fuel (lvl + 1) (fld e 51 13 * 2 ^ 13) rd

/-- The entries that the walk to level n reads, from the table t of level lvl on (R399). -/
def walkPath (m : List Host.Cell) (va : Nat) : Nat → Nat → Nat → List Nat
  | 0, _, _ => []
  | n + 1, lvl, t =>
    let at_ := t + 8 * fld va (55 - 10 * (lvl - 1)) (46 - 10 * (lvl - 1))
    at_ :: walkPath m va n (lvl + 1) (fld (ofBytes (readBytes m at_ 8)) 51 13 * 2 ^ 13)

/-- Walk(ctx, va, acc) (R399); an address with bits 63:56 set fails at level 0 (R236). -/
def State.walk (s : State) (ctx va : Nat) (acc : Acc) : Except (Nat × Nat) Trans :=
  if 2 ^ 56 ≤ va then .error (0, 3) else walkFrom s.mem va acc 4 1 (s.ctx ctx).root []

/-- Reads the device makes in a context's virtual space: n bytes within one page (R284, R293, R309, R447). -/
def State.ctxRead (s : State) (ctx va n : Nat) : Except (Nat × Nat) (List Byte) :=
  match s.walk ctx va .read with
  | .ok t => .ok (readBytes s.mem t.pa n)
  | .error e => .error e

/-- A write the device makes in a context's virtual space, within one page. -/
def State.ctxWrite (s : State) (ctx va : Nat) (bs : List Byte) : Except (Nat × Nat) State :=
  match s.walk ctx va .write with
  | .ok t => .ok (s.putPhys t.pa bs)
  | .error e => .error e

/-- A doubleword read in a context's virtual space. -/
def State.ctxRead64 (s : State) (ctx va : Nat) : Except (Nat × Nat) Nat :=
  match s.ctxRead ctx va 8 with
  | .ok b => .ok (ofBytes b)
  | .error e => .error e

/-- Doublewords read in a context's virtual space from an aligned address on. -/
def State.ctxReadDws (s : State) (ctx va : Nat) : Nat → Except (Nat × Nat) (List DWord)
  | 0 => .ok []
  | n + 1 =>
    match s.ctxRead64 ctx va with
    | .error e => .error e
    | .ok v =>
      match s.ctxReadDws ctx (va + 8) n with
      | .error e => .error e
      | .ok r => .ok (dword v :: r)

/-- Bytes written in a context's virtual space 64 at a time, skipping what does not translate (save areas; the page
tables map them, R282). -/
def State.ctxPut (s : State) (ctx va : Nat) (bs : List Byte) : State :=
  match s.ctxWrite ctx va bs with
  | .ok t => t
  | .error _ => s

/-! ## Fault records (R293, R294) -/

/-- The fields of a fault record (R294) that a raiser sets. -/
structure Rec where
  cause : Nat
  origin : Nat
  core : Nat := 0
  pe : Nat := 0
  slot : Nat := 0
  cctx : Nat := 0
  frz : Bool := false
  etk : Bool := false
  rb : Bool := false
  offset : Nat := 0
  addr : Nat := 0
  queue : Nat := 0
  tag : Nat := 0
  code : Nat := 0
  detail : Nat := 0
  deriving DecidableEq, Repr

/-- 1 or 0. -/
def b2n (b : Bool) : Nat := if b then 1 else 0

/-- The eight doublewords of a record (R294). -/
def Rec.dws (r : Rec) (ctx : Nat) (time : BitVec 64) : List DWord :=
  [dword (ctx % 4096 * 2 ^ 32 + b2n r.rb * 2 ^ 19 + b2n r.frz * 2 ^ 18 + b2n r.etk * 2 ^ 17 + r.cause % 2 ^ 16),
   dword (r.offset % 2 ^ 16 * 2 ^ 32 + r.origin % 16 * 2 ^ 24 + r.cctx % 4 * 2 ^ 22 + r.slot % 64 * 2 ^ 16
     + r.pe % 64 * 2 ^ 10 + r.core % 1024),
   time, dword r.addr, dword (r.queue % 2 ^ 14 * 2 ^ 32 + r.tag % 2 ^ 32), dword r.code, dword r.detail, 0]

/-- Doublewords as bytes (R3). -/
def dwBytes (l : List DWord) : List Byte := l.flatMap fun d => toBytes 8 d.toNat

/-- Base address and size field of a context's fault ring (R299). -/
def Ctx.ring (x : Ctx) : Nat × Nat := (fld x.fltbase.toNat 55 8 * 256, fld x.fltbase.toNat 4 0)

/-- The place of a record in the order of R293: core, then origin. -/
def recKey (dws1 : Nat) : Nat := dws1 % 1024 * 16 + fld dws1 27 24

/-- Record index i less n (R293). -/
def recBack (i n : Nat) : Nat := (i + (2 ^ 32 - n % 2 ^ 32)) % 2 ^ 32

/-- How many of a ring's newest records were written in this cycle and come after a place in the order of R293, of n in the ring. -/
def laterRecs (s : State) (ctx base sz key : Nat) : Nat → Nat → Nat
  | 0, _ => 0
  | n + 1, tail =>
    match s.ctxReadDws ctx (base + 64 + 64 * (recBack tail 1 % 2 ^ sz)) 3 with
    | .ok d => if d.getD 2 0 = s.count ∧ key < recKey (d.getD 1 0).toNat then laterRecs s ctx base sz key n (recBack tail 1) + 1 else 0
    | .error _ => 0

/-- The n newest records of a ring move up by one, with the indexes that stall entries and TRAPs hold of them. -/
def shiftRecs (s : State) (ctx base sz tail : Nat) : Nat → State
  | 0 => s
  | n + 1 =>
    let i := recBack tail (n + 1)
    let j := recBack tail n
    let t := shiftRecs s ctx base sz tail n
    match s.ctxRead ctx (base + 64 + 64 * (i % 2 ^ sz)) 64 with
    | .ok b =>
      let up := fun (x : Nat) => if x = i then j else x
      let t := t.ctxPut ctx (base + 64 + 64 * (j % 2 ^ sz)) b
      let dies := t.dies.map fun (d : Nat × Die) =>
        (d.1, { d.2 with stalls := d.2.stalls.map fun e => if e.ctx = ctx then { e with recIdx := up e.recIdx } else e })
      let mine := fun (k : Core) => match k.launch with
        | some m => (match AMap.find? t.launches m with | some l => l.ctx == ctx | none => false)
        | none => false
      let cores := t.cores.map fun (k : Nat × Core) => (k.1, if mine k.2 then { k.2 with seq := { k.2.seq with
        trapIdx := k.2.seq.trapIdx.map up, wait := match k.2.seq.wait with | .trap x v => .trap (up x) v | w => w } } else k.2)
      { t with dies := dies, cores := cores }
    | .error _ => t

/-- Writes a record to the context's fault ring (R293): the record, in its place among those of this cycle, then TAIL; a full ring counts
a drop, of the last of those in that order. A ring that does not translate takes no record (UNVERIFIED, log 8). Answers the record's index when it was written. -/
def State.record (s : State) (ctx : Nat) (r : Rec) : State × Option Nat :=
  let (base, sz) := (s.ctx ctx).ring
  let dws := r.dws ctx s.count
  let s := { s with faultLog := s.faultLog ++ [dws] }
  match s.ctxReadDws ctx base 3 with
  | .error _ => (s, none)
  | .ok hdr =>
    let tail := (hdr.getD 0 0).toNat
    let head := (hdr.getD 1 0).toNat
    let n := laterRecs s ctx base sz (recKey (dws.getD 1 0).toNat) (min 1024 ((tail + 2 ^ 32 - head) % 2 ^ 32)) tail
    if (tail + 2 ^ 32 - head) % 2 ^ 32 = 2 ^ sz then
      let s := s.ctxPut ctx (base + 16) (toBytes 8 (((hdr.getD 2 0).toNat + 1) % 2 ^ 32))
      if n = 0 then (s, none)
      else
        let i := recBack tail n
        ((shiftRecs s ctx base sz (recBack tail 1) (n - 1)).ctxPut ctx (base + 64 + 64 * (i % 2 ^ sz)) (dwBytes dws), some i)
    else
      let i := recBack tail n
      let s := (shiftRecs s ctx base sz tail n).ctxPut ctx (base + 64 + 64 * (i % 2 ^ sz)) (dwBytes dws)
      (s.ctxPut ctx base (toBytes 8 ((tail + 1) % 2 ^ 32)), some i)

/-! ## Taking a fault: record and freeze (R287, R295), and the states of R281 -/

/-- The rank of a launch's state in the order of R281 and the context state it gives. -/
def LState.rank : LState → Nat × CtxState
  | .rollingBack => (0, .rollingBack)
  | .faulted => (1, .faulted)
  | .frozen => (2, .frozen)
  | .gating | .saving => (3, .gating)
  | .running | .freezing | .cutting => (4, .running)
  | .loading => (5, .running)
  | .saved => (6, .saved)
  | .complete => (7, .ready)

/-- The state a launch counts as in R281: one that is freezing already holds the state it freezes to, a gating that has become a freeze save
is still a gating, and a region that is being placed after an error still rolls back (R280). -/
def Launch.counts (l : Launch) : LState :=
  if l.state = .freezing then (if l.after = .saved then .saving else l.after)
  else if l.state = .loading ∧ l.started ∧ l.kind = 2 then .rollingBack
  else l.state

/-- The context takes the first state of R281 that any of its launches holds; it stays LOADING until its first image is
checked, and FAULTED after a load fault (R280). -/
def State.refreshCtx (s : State) (ctx : Nat) : State :=
  let ls := (s.launches.filter fun p => p.2.ctx == ctx && p.2.state != .complete).map fun p => p.2.counts.rank
  match leastBy (fun a b => a.1 < b.1) ls with
  | none => if [CtxState.dead, .free, .loading, .faulted].contains (s.ctx ctx).state then s
      else s.modCtx ctx fun x => { x with state := .ready }
  | some r => if [CtxState.dead, .free, .loading].contains (s.ctx ctx).state then s
      else s.modCtx ctx fun x => { x with state := r.2 }

/-- The launches of a context whose groups a stop wave reaches. -/
def Launch.live? (l : Launch) : Bool := l.state == .running || l.state == .gating || l.state == .saving || l.state == .cutting

/-- A stop wave from core c over launch n, and 32 cycles later over the context's other groups, counted from their
origins (R287); the launches freeze and will stand in state aft. -/
def State.freeze (s : State) (n c : Nat) (aft : LState) : State :=
  match AMap.find? s.launches n with
  | none => s
  | some l =>
    let wave := fun (s : State) (p : Nat × Launch) =>
      if p.2.ctx == l.ctx && p.2.live? then
        let from_ := if p.1 = n then c else p.2.origin
        let lag := if p.1 = n then 0 else 32
        let s := p.2.cores.foldl (fun s k => s.after (lag + 2 * hops from_ k) .stopWaveArrival [p.1, k]) s
        s.modLaunch p.1 fun x => { x with state := .freezing, after := aft, kind := 1, toStop := x.cores, frozeAt := s.now }
      else s
    (s.launches.foldl wave s).refreshCtx l.ctx

/-- A stop wave from core c over the group of launch n (R287). -/
def State.waveFrom (s : State) (n c : Nat) (l : Launch) : State :=
  l.cores.foldl (fun s k => s.after (2 * hops c k) .stopWaveArrival [n, k]) s

/-- A fault on a launch whose freeze or rollback has begun (R281, R287): where the wave has not passed core c, a wave starts there
too; one of the freeze's own cycle, or one that still stops a core, leaves the launch FAULTED where a BRK or a host stop began it. -/
def State.refreeze (s : State) (n c : Nat) (l : Launch) (passed : Bool) : State :=
  let s := if passed then s else s.waveFrom n c l
  let harder := fun (x : Launch) => x.state == .freezing && x.after == .frozen && x.ctx == l.ctx && (!passed || x.frozeAt == s.now)
  (s.launches.foldl (fun s p => if harder p.2 then s.modLaunch p.1 fun x => { x with after := .faulted } else s) s).refreshCtx l.ctx

/-- Taking a freezing fault (R295): the record, then the freeze of the launch that core r.core runs. A fault that the stop wave of an
earlier one has passed writes its record and freezes nothing further (R287). -/
def State.raise (s : State) (r : Rec) : State :=
  match s.launchOf r.core with
  | none => s
  | some (n, l) =>
    let begun := l.state == .freezing || l.state == .rollingBack
    let passed := !(l.live? || (begun && !(s.core r.core).stopped))
    let s := (s.record l.ctx { r with frz := !passed, queue := l.queue }).1
    if begun then s.refreeze n r.core l passed else s.freeze n r.core .faulted

/-- Writing a record that freezes nothing, for the launch that core r.core runs. -/
def State.note (s : State) (r : Rec) : State :=
  match s.launchOf r.core with
  | none => s
  | some (_, l) => (s.record l.ctx { r with queue := l.queue }).1

/-- A queue whose head launch is to be placed again from its saved state (R314, R496). -/
def Queue.resumed (q : Queue) : Queue :=
  { q with state := if q.state = .error then .error else if q.en then .armed else .suspended, saved := true }

/-- An idle Banker looks at its queue in the next cycle, once. -/
def wakeBanker (s : State) (d : Nat) : State := (s.cancelEv .bankerMove fun l => l == [d]).after 1 .bankerMove [d]

/-- The dependences of a queue's head are looked at now, and every 4,096 cycles (R316). -/
def State.watchDeps (s : State) (q : Nat) : State :=
  let a := [q, 1, (s.queue q).head.toNat]
  (s.cancelEv .dependenceEvaluation fun l => l == a).after 0 .dependenceEvaluation a

/-- The return from a freeze (R288): every FROZEN or FAULTED launch of the context whose group has been released goes back to its
queue as a saved head, ARMED (R314, R496), which the scheduler places and restores; one whose freeze has still to be saved will be
restored on the group it holds. -/
def State.resumeCtx (s : State) (ctx : Nat) : State :=
  let back := fun (s : State) (p : Nat × Launch) =>
    if p.2.ctx != ctx then s
    else if p.2.state == .frozen || p.2.state == .faulted then
      ((s.modLaunch p.1 fun x => { x with state := .saved }).modQueue p.2.queue Queue.resumed).watchDeps p.2.queue
    else if p.2.state == .freezing && (p.2.after == .frozen || p.2.after == .faulted) then
      s.modLaunch p.1 fun x => { x with resume := true }
    else s
  (s.launches.foldl back s).refreshCtx ctx

end Sys2Proof.Machine
end

