-- ==== Sys2Proof/Machine/Operands.lean ====
section
/-! DEFINITION. Operand forms and firing: ports, output buffers, matching store, operand values, tag actions, flags,
results and snippets (R74-R100, R109-R117, R135-R137). -/

namespace Sys2Proof.Machine

/-- The key of a node slot. -/
def nkey (cctx pe slot : Nat) : Nat := (64 * cctx + pe) * 64 + slot

/-- The key of a destination port's output buffer; port 9 holds start tokens (R78, R101). -/
def bkey (cctx pe port : Nat) : Nat := (64 * cctx + pe) * 16 + port

/-- The key of an edge port's inbound buffer (R84, R364). -/
def ekey (cctx ep : Nat) : Nat := 4096 + 64 * cctx + ep

/-- The neighbour of a PE on a side (0 north, 1 east, 2 south, 3 west), inside the core. -/
def peAt (pe side : Nat) : Option Nat :=
  match side with
  | 0 => if pe / 8 = 0 then none else some (pe - 8)
  | 1 => if pe % 8 = 7 then none else some (pe + 1)
  | 2 => if pe / 8 = 7 then none else some (pe + 8)
  | _ => if pe % 8 = 0 then none else some (pe - 1)

/-- The facing port code of a network port code 0-7 (R77). -/
def facing (p : Nat) : Nat := p / 4 * 4 + (p % 4 + 2) % 4

/-- The edge port of a PE's port code 0-7 (R83). -/
def edgePort (pe p : Nat) : Nat := 16 * (p % 4) + 8 * (p / 4) + (if p % 2 = 0 then pe % 8 else pe / 8)

/-- The PE and port code of an edge port (R83). -/
def edgePe (ep : Nat) : Nat × Nat :=
  let side := ep / 16
  let i := ep % 8
  let pe := match side with | 0 => i | 1 => 8 * i + 7 | 2 => 56 + i | _ => 8 * i
  (pe, ep / 8 % 2 * 4 + side)

/-- The node slots of a PE that are nodes of their own, in ascending order: valid slots that are no snippet words
(R92). -/
def nodeSlots (k : Core) (cctx pe : Nat) : List Nat :=
  ((List.range 64).foldl (fun (acc : List Nat × Bool) n =>
    match AMap.find? k.nodes (nkey cctx pe n) with
    | none => (acc.1, false)
    | some t =>
      if acc.2 then (acc.1, !(match t.instr with | .snipEnd _ => true | _ => false))
      else (acc.1 ++ [n], match t.instr with | .snip _ => true | _ => false)) ([], false)).1

/-- The node slots of a PE that read a source port code (R78). -/
def readers (k : Core) (cctx pe code : Nat) : List Nat :=
  (nodeSlots k cctx pe).filter fun n =>
    match AMap.find? k.nodes (nkey cctx pe n) with
    | none => false
    | some t => (nodeFields t.instr).a.toNat == code || (nodeFields t.instr).b.toNat == code

/-- The pending-consumer mask of a destination port: slots, and the edge bit (R78). -/
def maskOf (k : Core) (cctx pe port : Nat) : List Nat × Bool :=
  if port = 8 ∨ port = 11 ∨ port = 9 then (readers k cctx pe (if port = 9 then 8 else port), false)
  else match peAt pe (port % 4) with
    | some q => (readers k cctx q (facing port), false)
    | none => ([], true)

/-- The buffers that feed a source port code of a PE, in the order they are taken (R77, R101). -/
def srcBufs (cctx pe code : Nat) : List Nat :=
  if code = 8 then [bkey cctx pe 9, bkey cctx pe 8]
  else if code = 11 then [bkey cctx pe 11]
  else match peAt pe (code % 4) with
    | some q => [bkey cctx q (facing code)]
    | none => [ekey cctx (edgePort pe code)]

/-- The first entry that a slot has still to take, when its token is there (R79). -/
def headIn (slot : Nat) : List OutEntry → Option (Nat × Token)
  | [] => none
  | e :: r => if e.pend.contains slot then e.tok.map fun t => (e.id, t) else headIn slot r

/-- The head of a consumer's queue at a source port: buffer, entry and token (R79). -/
def headTok (k : Core) (cctx pe slot code : Nat) : Option (Nat × Nat × Token) :=
  (srcBufs cctx pe code).foldl (fun acc key =>
    match acc with
    | some x => some x
    | none => (headIn slot (AMap.get k.bufs key [])).map fun x => (key, x.1, x.2)) none

/-- A consumer takes an entry: its bit is cleared (R79). -/
def takeEntry (k : Core) (key id slot : Nat) : Core :=
  { k with bufs := AMap.put k.bufs key ((AMap.get k.bufs key []).map fun e =>
      if e.id = id then { e with pend := e.pend.filter (· != slot) } else e) }

/-- Entries whose mask is zero leave their buffers (R79); made once a cycle, so that an entry freed in a cycle can be
reserved in the next (R158). -/
def purge (k : Core) : Core :=
  { k with bufs := k.bufs.map fun p => (p.1, p.2.filter fun e => e.tok.isNone || !e.pend.isEmpty || e.edge) }

/-- Whether a source code names a port whose tokens are matched: a network port or mp. -/
def isTokenSrc (p : Nat) : Bool := p ≤ 8 || p == 11

/-- Whether an instruction is MERGE, whose inputs never match (R142). -/
def isMerge : Instr → Bool
  | .merge _ => true
  | _ => false

/-- Whether a node matches two operands (R85). -/
def matches2 (i : Instr) : Bool :=
  let f := nodeFields i
  isTokenSrc f.a.toNat && isTokenSrc f.b.toNat && !isMerge i

/-- The matching store of a PE in a context (R85). -/
def Core.store (k : Core) (cctx pe : Nat) : List MatchEntry := AMap.get k.matchSt (64 * cctx + pe) []

/-- Offers a token to a matching store on a side: completes an entry, takes a free one, or is refused (R86). -/
def offer (l : List MatchEntry) (slot : Nat) (t : Token) (sideB : Bool) : Option (List MatchEntry) :=
  match l.find? (fun e => e.slot == slot && e.tag == t.tag && (if sideB then e.b.isSome else e.a.isSome)) with
  | some _ => none
  | none =>
    if l.any fun e => e.slot == slot && e.tag == t.tag then
      some (l.map fun e => if e.slot == slot && e.tag == t.tag then
        (if sideB then { e with b := some t } else { e with a := some t }) else e)
    else if l.length < 64 then
      some (l ++ [if sideB then ⟨slot, t.tag, none, some t⟩ else ⟨slot, t.tag, some t, none⟩])
    else none

/-- One offer of a two-operand node's head token on a side to the matching store (R86). -/
def settleSide (k : Core) (cctx pe slot code : Nat) (sideB : Bool) : Core :=
  match headTok k cctx pe slot code with
  | none => k
  | some (key, id, t) =>
    match offer (k.store cctx pe) slot t sideB with
    | none => k
    | some l => takeEntry { k with matchSt := AMap.put k.matchSt (64 * cctx + pe) l } key id slot

/-- What a side of a two-operand node accepts in a cycle: its tokens in order, as far as the matching store takes them (R79, R86). -/
def settleAll (k : Core) (cctx pe slot code : Nat) (sideB : Bool) : Core :=
  (List.range 8).foldl (fun k _ => settleSide k cctx pe slot code sideB) k

/-- Every two-operand node of a PE accepts what its matching store can take (R86). -/
def settlePe (k : Core) (cctx pe : Nat) : Core :=
  (nodeSlots k cctx pe).foldl (fun k n =>
    match AMap.find? k.nodes (nkey cctx pe n) with
    | none => k
    | some t =>
      if matches2 t.instr then
        let f := nodeFields t.instr
        settleAll (settleAll k cctx pe n f.a.toNat false) cctx pe n f.b.toNat true
      else k) k

/-- The ready operand sets of a node, by their picks and keys (R87, R142). -/
def picksOf (k : Core) (cctx pe slot : Nat) (i : Instr) : List (Pick × Tag) :=
  let f := nodeFields i
  let hd := fun (b : Bool) (code : Nat) =>
    match headTok k cctx pe slot code with
    | some (_, _, t) => [(Pick.head b, t.tag)]
    | none => []
  let st := (k.store cctx pe).filter fun e => e.slot == slot
  if matches2 i then
    (st.filter fun e => e.a.isSome && e.b.isSome).map fun e => (Pick.store e.tag false, e.tag)
  else
    (if isTokenSrc f.a.toNat then hd false f.a.toNat ++
        (st.filter fun e => e.a.isSome).map fun e => (Pick.store e.tag false, e.tag) else [])
    ++ (if isTokenSrc f.b.toNat then hd true f.b.toNat ++
        (st.filter fun e => e.b.isSome).map fun e => (Pick.store e.tag true, e.tag) else [])

/-! ## Operand values -/

/-- An operand of a firing or snippet word (R135): its lanes, whether it is vector, its sidecar, and the token that
brought it. -/
structure Opnd where
  lanes : List Word
  vec : Bool
  side : Option (List (BitVec 24))
  tok : Option Token
  deriving DecidableEq, Repr

/-- A scalar operand: the value in every lane (R135). -/
def Opnd.scalar (w : Word) : Opnd := ⟨List.replicate 16 w, false, none, none⟩

/-- A token as an operand. -/
def Opnd.ofTok (t : Token) : Opnd :=
  if t.data.length = 16 then ⟨t.data, true, t.side, some t⟩ else ⟨List.replicate 16 (t.data.getD 0 0), false, none, some t⟩

/-- Lane l of an operand. -/
def Opnd.lane (o : Opnd) (l : Nat) : Word := o.lanes.getD l 0

/-- Everything a firing, or a snippet word, computes from. -/
structure Firing where
  core : Nat
  cctx : Nat
  pe : Nat
  slot : Nat
  f : NF
  lit : Word
  a : Opnd
  b : Option Opnd
  sf : List Word
  tag : Tag
  btag : Tag
  m : Bool
  l : Bool
  e : Bool
  x : Bool
  pick : Pick
  snip : Bool
  deriving DecidableEq, Repr

/-- The sf register of a node: zero unless written (R81). -/
def Core.sfOf (k : Core) (cctx pe slot : Nat) : List Word := AMap.get k.sf (nkey cctx pe slot) (List.replicate 16 0)

/-- The core with a node's sf register written, by an error token or not (R81, R98). -/
def Core.putSf (k : Core) (key : Nat) (v : List Word) (e : Bool) : Core :=
  { k with sf := AMap.put k.sf key v, sfE := if e then AMap.put k.sfE key true else AMap.del k.sfE key }

/-- The operand tokens of a pick: A and B where they come as tokens (R87). -/
def pickToks (k : Core) (cctx pe slot : Nat) (i : Instr) (p : Pick) : Option (Option Token × Option Token) :=
  let f := nodeFields i
  match p with
  | .head b =>
    if matches2 i then none else
    match headTok k cctx pe slot (if b then f.b.toNat else f.a.toNat) with
    | none => none
    | some (_, _, t) => if b then some (none, some t) else some (some t, none)
  | .store t b =>
    match (k.store cctx pe).find? fun e => e.slot == slot && e.tag == t with
    | none => none
    | some e =>
      if matches2 i then (if e.a.isSome && e.b.isSome then some (e.a, e.b) else none)
      else if b then e.b.map fun x => (none, some x) else e.a.map fun x => (some x, none)

/-- The core with a pick's operands consumed (R79, R87). -/
def consume (k : Core) (cctx pe slot : Nat) (i : Instr) (p : Pick) : Core :=
  let f := nodeFields i
  match p with
  | .head b =>
    match headTok k cctx pe slot (if b then f.b.toNat else f.a.toNat) with
    | none => k
    | some (key, id, _) => takeEntry k key id slot
  | .store t b =>
    { k with matchSt := AMap.put k.matchSt (64 * cctx + pe) ((k.store cctx pe).filterMap fun e =>
        if e.slot == slot && e.tag == t then
          (if matches2 i then none
           else
             let e' := if b then { e with b := none } else { e with a := none }
             if e'.a.isNone && e'.b.isNone then none else some e')
        else some e) }

/-- The entries that a pick's operands stand in, with only the operands the pick takes. -/
def backOf (k : Core) (cctx pe slot : Nat) (i : Instr) (p : Pick) : List (Nat × OutEntry) × List MatchEntry :=
  let f := nodeFields i
  match p with
  | .head b =>
    match headTok k cctx pe slot (if b then f.b.toNat else f.a.toNat) with
    | none => ([], [])
    | some (key, id, t) => ([(key, ⟨id, some t, [slot], false, 0⟩)], [])
  | .store t b =>
    ([], ((k.store cctx pe).filter fun e => e.slot == slot && e.tag == t).map fun e =>
      if matches2 i then e else if b then { e with a := none } else { e with b := none })

/-- A core with an entry put back: its bit set again where the entry still stands, else the entry at the head of its buffer. -/
def putBack (k : Core) (x : Nat × OutEntry) (slot : Nat) : Core :=
  let l := AMap.get k.bufs x.1 []
  let l := if l.any (·.id == x.2.id) then l.map fun e => if e.id = x.2.id then { e with pend := e.pend ++ [slot] } else e
    else x.2 :: l
  { k with bufs := AMap.put k.bufs x.1 l }

/-- A snippet whose word faults is withdrawn (R93, R96, R288): its reserved entries are released, what its words wrote to sf remains, and
its operands stand where they stood (DEDUCED, log 29: at the head of their buffer even when the buffer has been filled since). -/
def withdrawSnip (k : Core) (pe : Nat) : Core :=
  match AMap.find? k.snips pe with
  | none => k
  | some r =>
    let k := { k with snips := AMap.del k.snips pe }
    let k := r.outs.foldl (fun k o => { k with bufs := AMap.put k.bufs o.port ((AMap.get k.bufs o.port []).filter fun e => e.id != o.id) }) k
    let k := match r.sfNew with
      | some v => k.putSf (nkey r.cctx pe r.slot) v.1 false
      | none => k
    let k := r.fromBufs.foldl (fun k x => putBack k x r.slot) k
    { k with matchSt := AMap.put k.matchSt (64 * r.cctx + pe) (r.fromStore ++ k.store r.cctx pe) }

/-- A source of a node as an operand: its token, or lt or sf (R81, R82, R135); an sf that holds an error token is one with E (R98). -/
def srcOpnd (tok : Option Token) (code : Nat) (lit : Word) (sf : List Word) (sfe : Bool) : Option Opnd :=
  match tok with
  | some t => some (Opnd.ofTok t)
  | none =>
    if code = 9 then some (Opnd.scalar lit)
    else if code = 10 then some ⟨sf, true, none, if sfe then some ⟨sf, ⟨0, 0⟩, none, false, false, true⟩ else none⟩
    else none

/-- A core whose fabric may start firings: it runs a launch, FORK has been made, it is not stopped, and no switch of
contexts is under way (R101, R104, R287, R347). -/
def Core.fires (k : Core) (now : Nat) : Bool :=
  k.launch.isSome && k.forked && !k.stopped && decide (k.oldUntil ≤ now)

/-- The firing of a node on a pick, when the node is in the loaded context, the PE's issue slot is free and the
operands are there (R87-R89). A that is lt or sf has tag 0 (R81, R91); where no B token is taken (a MERGE, b lt or sf), the tag of B is
the firing token's own (DEDUCED, log 33). -/
def nodeFiring (s : State) (c cctx pe slot : Nat) (p : Pick) : Option Firing :=
  let k := s.core c
  if !k.fires s.now || k.loaded != cctx || AMap.get k.issued pe 0 == s.now + 1 || (AMap.find? k.snips pe).isSome then none else
  match AMap.find? k.nodes (nkey cctx pe slot) with
  | none => none
  | some t =>
    match pickToks k cctx pe slot t.instr p with
    | none => none
    | some (ta, tb) =>
      let f := nodeFields t.instr
      let sf := k.sfOf cctx pe slot
      let sfe := (AMap.find? k.sfE (nkey cctx pe slot)).isSome
      let oa := if isMerge t.instr then (ta <|> tb).map Opnd.ofTok else srcOpnd ta f.a.toNat t.lit sf sfe
      let ob := if isMerge t.instr then none else srcOpnd tb f.b.toNat t.lit sf sfe
      match oa, ta <|> tb with
      | some a, some key =>
        let toks := ta.toList ++ tb.toList
        some { core := c, cctx := cctx, pe := pe, slot := slot, f := f, lit := t.lit, a := a, b := ob, sf := sf,
               tag := if isMerge t.instr then key.tag else (ta.map (·.tag)).getD ⟨0, 0⟩, btag := (tb.getD key).tag,
               m := toks.any (·.m), l := toks.any (·.l),
               e := (a.tok.toList ++ (ob.bind (·.tok)).toList).any (·.e),
               x := toks.any fun t => t.side.isSome && !t.e, pick := p, snip := false }
      | _, _ => none

/-- A source of a snippet word (R93, R117): none while a temporary or sf has not reached its latency; an inner none
for an invalid one. -/
def snipSrc (r : SnipRun) (sf : List Word) (lit : Word) (now code : Nat) : Option (Option Opnd) :=
  if code ≤ 7 then
    match AMap.find? r.temps code with
    | none => some none
    | some (v, t) => if t ≤ now then some (some ⟨v, true, none, none⟩) else none
  else match code with
    | 8 => some (some { Opnd.ofTok r.a with tok := none })
    | 9 => some (r.b.map fun t => { Opnd.ofTok t with vec := r.bv, tok := none })
    | 12 => match r.sfNew with
      | none => some (some ⟨sf, true, none, none⟩)
      | some (v, t) => if t ≤ now then some (some ⟨v, true, none, none⟩) else none
    | 13 => some (some (Opnd.scalar lit))
    | _ => some (some (Opnd.scalar 0))

/-- What a snippet word's issue finds: it has to wait, a temporary it reads was never written (R95), or its firing. A word reads and writes
the temporaries its fields name and no others (DEDUCED, log 9). -/
inductive SnipGet where
  | wait
  | uninit
  | ok (f : Firing)
  deriving DecidableEq, Repr

/-- The word a snippet issues next, as a firing (R92, R93). The implicit sf of FMA, HFMA, LANE, LEA and SEL waits for
a pending write as a named one does. -/
def snipFiring (s : State) (c pe : Nat) : SnipGet :=
  let k := s.core c
  match AMap.find? k.snips pe with
  | none => .wait
  | some r =>
    if !k.launch.isSome || AMap.get k.issued pe 0 == s.now + 1 then .wait else
    match AMap.find? k.nodes (nkey r.cctx pe r.pc), AMap.find? k.nodes (nkey r.cctx pe r.slot) with
    | some t, some sn =>
      let f := nodeFields t.instr
      let sf0 := k.sfOf r.cctx pe r.slot
      let get : Nat → Option (Option Opnd) := snipSrc r sf0 sn.lit s.now
      let sfs := match t.instr with
        | .fma _ | .hfma _ | .lane _ | .lea _ | .sel _ => get 12
        | _ => some (some ⟨(match r.sfNew with | some v => v.1 | none => sf0), true, none, none⟩)
      match get f.a.toNat, get f.b.toNat, sfs with
      | some (some a), some (some b), some (some sv) =>
        .ok { core := c, cctx := r.cctx, pe := pe, slot := r.pc, f := f, lit := t.lit,
              a := a, b := if f.b = 15 then none else some b, sf := sv.lanes, tag := r.a.tag, btag := (r.b.getD r.a).tag,
              m := false, l := false, e := false, x := false, pick := .head false, snip := true }
      | some none, _, _ => .uninit
      | _, some none, _ => .uninit
      | _, _, _ => .wait
    | _, _ => .wait

/-! ## Tag actions and results -/

/-- An iteration tag as it may stand: 0xFF_FFFF becomes 0 (R76). -/
def fixItag (t : BitVec 24) : BitVec 24 := if t = 0xFFFFFF then 0 else t

/-- A tag action on a tag (R111); actions 4 and 5 are CALL's and RET's own. -/
def actTag (act : Nat) (a b : Tag) : Tag :=
  match act with
  | 1 => { a with itag := fixItag (a.itag + 1) }
  | 2 => { a with itag := 0 }
  | 3 => b
  | _ => a

/-- A tag action on a non-empty sidecar tag (R97). -/
def actSide (act : Nat) (b : Tag) (t : BitVec 24) : BitVec 24 :=
  if t = 0xFFFFFF then t else
  match act with
  | 1 => fixItag (t + 1)
  | 2 => 0
  | 3 => b.itag
  | _ => t

/-- A result before it is sent (R135): lanes, width, sidecar. -/
structure Val where
  lanes : List Word
  vec : Bool
  side : Option (List (BitVec 24))
  deriving DecidableEq, Repr

/-- A scalar result. -/
def Val.scalar (w : Word) : Val := ⟨List.replicate 16 w, false, none⟩

/-- A vector result without sidecar. -/
def Val.vec16 (l : List Word) : Val := ⟨l, true, none⟩

/-- An operand as a result unchanged. -/
def Opnd.val (o : Opnd) : Val := ⟨o.lanes, o.vec, o.side⟩

/-- The compaction of R97: a mixed result whose lane 0 is empty is packed from lane 0; none when no lane is left. -/
def compactVal (v : Val) : Option Val :=
  match v.side with
  | none => some v
  | some sd =>
    let ls := (List.range 16).filter fun l => sd.getD l 0 != 0xFFFFFF
    match ls with
    | [] => none
    | 0 :: _ => some v
    | _ =>
      let pad := 16 - ls.length
      some ⟨ls.map (fun l => v.lanes.getD l 0) ++ List.replicate pad 0, v.vec,
            some (ls.map (fun l => sd.getD l 0) ++ List.replicate pad 0xFFFFFF)⟩

/-- The token that carries a result to a destination code (R91, R97, R135): scalar ports take lane 0, vector ports and
mp the whole, ct one bit. -/
def mkTok (v : Val) (tag : Tag) (act : Nat) (b : Tag) (m l : Bool) (port : Nat) : Option Token :=
  match compactVal v with
  | none => none
  | some v =>
    let side := v.side.map fun sd => sd.map (actSide act b)
    let t := actTag act tag b
    let t := match side with | some sd => { t with itag := sd.getD 0 0 } | none => t
    let m := m || act == 7
    let l := l || act == 6
    if port = 8 then some ⟨[if v.lanes.getD 0 0 = 0 then 0 else 1], t, none, m, l, false⟩
    else if port ≤ 3 then some ⟨[v.lanes.getD 0 0], t, none, m, l, false⟩
    else if port = 11 ∧ !v.vec then some ⟨[v.lanes.getD 0 0], t, none, m, l, false⟩
    else some ⟨v.lanes, t, side, m, l, false⟩

/-- The destination codes of a firing that take output entries: x and y but for none (15) and sf (10). -/
def outPorts (f : NF) : List Nat := [f.x.toNat, f.y.toNat].filter fun p => p ≤ 8 || p == 11

/-- Whether each output buffer a firing names has a free entry (R80, R88). -/
def roomFor (k : Core) (cctx pe : Nat) (ports : List Nat) : Bool :=
  ports.all fun p => decide ((AMap.get k.bufs (bkey cctx pe p) []).length < 4)

/-- Reserves an entry in a buffer for what a slot sends (R80); answers its number. -/
def reserveIn (s : State) (c key slot : Nat) (mask : List Nat × Bool) : Nat × State :=
  let (id, s) := s.fresh
  (id, s.modCore c fun k =>
    { k with bufs := AMap.put k.bufs key (AMap.get k.bufs key [] ++ [⟨id, none, mask.1, mask.2, slot⟩]) })

/-- Reserves an entry in each named output buffer, in the order x, y (R80). -/
def reserveAll (s : State) (c cctx pe slot : Nat) : List Nat → List OutRes × State
  | [] => ([], s)
  | p :: r =>
    let (id, s) := reserveIn s c (bkey cctx pe p) slot (maskOf (s.core c) cctx pe p)
    let (l, s) := reserveAll s c cctx pe slot r
    (⟨bkey cctx pe p, id, none⟩ :: l, s)

/-- Marks a PE's issue slot as used in this cycle (R89). -/
def markIssued (s : State) (c pe : Nat) : State :=
  s.modCore c fun k => { k with issued := AMap.put k.issued pe (s.now + 1) }

/-- What a firing sends: destination code and token; none releases the reserved entry (R94, R97). -/
abbrev Sends := List (Nat × Option Token)

/-- Starts a firing (R80, R89): operands consumed, entries reserved, results due in lat cycles; sfe marks sf's as an error token. -/
def startFiring (s : State) (q : Firing) (lat : Nat) (sends : Sends) (sf : Option (List Word)) (sfe : Bool := false) : State :=
  match AMap.find? (s.core q.core).nodes (nkey q.cctx q.pe q.slot) with
  | none => s
  | some t =>
    let s := s.modCore q.core fun k => consume k q.cctx q.pe q.slot t.instr q.pick
    let (outs, s) := reserveAll s q.core q.cctx q.pe q.slot (sends.map (·.1))
    let outs := (outs.zip sends).map fun p => { p.1 with tok := p.2.2 }
    let (id, s) := s.fresh
    let s := s.modCore q.core fun k => { k with flights := k.flights ++ [⟨id, q.cctx, q.pe, q.slot, outs, sf, sfe⟩] }
    (markIssued s q.core q.pe).after lat .resultDelivery [q.core, id]

/-- The token with the flags of an error token: E, and the operands' M and L alone (R98). -/
def Token.asError (t : Token) (m l : Bool) : Token := { t with m := m, l := l, e := true }

/-- The error token a firing on an E operand sends (R98): the data of the first E operand, the tag of A changed, E. -/
def errToken (q : Firing) (port : Nat) : Option Token :=
  let src := match q.a.tok with
    | some t => if t.e then q.a else q.b.getD q.a
    | none => q.b.getD q.a
  (mkTok { src.val with side := none } q.tag q.f.tg.toNat q.btag q.m q.l port).map fun t => t.asError q.m q.l

/-- Lane 0 of an error token that a failing operation creates (R99). -/
def errWord (cause : Nat) (q : Firing) : Word :=
  word (cause % 2 ^ 16 + q.pe % 64 * 2 ^ 16 + q.slot % 64 * 2 ^ 22 + q.cctx % 4 * 2 ^ 28)

/-- The error token of a failing operation, for a destination (R99). -/
def failToken (cause : Nat) (q : Firing) (port : Nat) : Option Token :=
  (mkTok ⟨errWord cause q :: List.replicate 15 0, true, none⟩ q.tag q.f.tg.toNat q.btag q.m q.l port).map
    fun t => t.asError q.m q.l

/-- The value sf takes from a result that is not mixed (R135). -/
def sfVal (v : Val) : List Word := if v.vec then v.lanes else List.replicate 16 (v.lanes.getD 0 0)

/-- The value sf takes from a result as it is sent (R97, R135): compacted; none where no lane is left. -/
def sfSent (v : Val) : Option (List Word) := (compactVal v).map sfVal

/-- Fires on an E operand (R98): an error token to each destination, sf included. -/
def fireError (s : State) (q : Firing) (lat : Nat) : State :=
  let w := ((q.a.tok.filter (·.e)).map (fun _ => q.a)).getD (q.b.getD q.a)
  startFiring s q lat ((outPorts q.f).map fun p => (p, errToken q p))
    (if q.f.x = 10 ∨ q.f.y = 10 then some (sfVal { w.val with side := none }) else none) true

/-- Fires an operation that fails on its data (R99). -/
def fireFail (s : State) (q : Firing) (lat cause : Nat) : State :=
  startFiring s q lat ((outPorts q.f).map fun p => (p, failToken cause q p))
    (if q.f.x = 10 ∨ q.f.y = 10 then some (errWord cause q :: List.replicate 15 0) else none) true

/-- A fault of a node or snippet word: the record, the freeze; the firing is withdrawn and consumes nothing (R96). -/
def nodeFault (s : State) (q : Firing) (cause : Nat) : State :=
  let r : Rec :=
    { cause := cause, origin := b2n q.snip, core := q.core, pe := q.pe, slot := q.slot, cctx := q.cctx
      tag := (q.tag.ctag ++ q.tag.itag).toNat }
  markIssued ((s.raise r).modCore q.core fun k => if q.snip then withdrawSnip k q.pe else k) q.core q.pe

/-- Writes a snippet word's result to a destination code at its latency (R93, R94). -/
def snipPut (r : SnipRun) (code : Nat) (v : Val) (ready : Nat) : SnipRun :=
  if code ≤ 7 then { r with temps := AMap.put r.temps code (sfVal v, ready) }
  else match code with
    | 10 => { r with outx := some (v.lanes, v.vec, ready), endAt := max r.endAt ready }
    | 11 => { r with outy := some (v.lanes, v.vec, ready), endAt := max r.endAt ready }
    | 12 => { r with sfNew := some (sfVal v, ready), endAt := max r.endAt ready }
    | _ => r

/-- A snippet word issues with results for x and y (R92, R93): all sources were read before. -/
def snipIssue (s : State) (q : Firing) (lat : Nat) (x y : Option Val) : State :=
  markIssued (s.modCore q.core fun k =>
    match AMap.find? k.snips q.pe with
    | none => k
    | some r =>
      let r := match x with | some v => snipPut r q.f.x.toNat v (s.now + lat) | none => r
      let r := match y with | some v => snipPut r q.f.y.toNat v (s.now + lat) | none => r
      { k with snips := AMap.put k.snips q.pe { r with pc := r.pc + 1 } }) q.core q.pe

/-- Sends one result of a computing operation: from a node to x and y by its tag action (R91, R135), from a snippet
word to its destinations. -/
def finish (s : State) (q : Firing) (lat : Nat) (v : Val) : State :=
  if q.snip then snipIssue s q lat (some v) (some v)
  else startFiring s q lat
    ((outPorts q.f).map fun p => (p, mkTok v q.tag q.f.tg.toNat q.btag q.m q.l p))
    (if q.f.x = 10 ∨ q.f.y = 10 then sfSent v else none)

/-- Sends two results, one to x and one to y, each unless none (STEER, SYNC, CMPCT, XPND, SNIP's END). -/
def finish2 (s : State) (q : Firing) (lat : Nat) (x y : Option Val) : State :=
  if q.snip then snipIssue s q lat x y
  else
    let send := fun (p : Nat) (v : Option Val) =>
      if p ≤ 8 ∨ p = 11 then [(p, v.bind fun v => mkTok v q.tag q.f.tg.toNat q.btag q.m q.l p)] else []
    startFiring s q lat (send q.f.x.toNat x ++ send q.f.y.toNat y)
      (if q.f.x = 10 then x.bind sfSent else if q.f.y = 10 then y.bind sfSent else none)

/-- The fault of a snippet word that reads an invalid temporary (R93): the record, the freeze, and the firing withdrawn. -/
def snipUninit (s : State) (c pe : Nat) : State :=
  let r : Rec :=
    { cause := 2, origin := 1, core := c, pe := pe
      slot := ((AMap.find? (s.core c).snips pe).map (·.pc)).getD 0
      cctx := ((AMap.find? (s.core c).snips pe).map (·.cctx)).getD 0 }
  markIssued ((s.raise r).modCore c fun k => withdrawSnip k pe) c pe

/-- Gathers what the issuing place computes from and applies it: a place that is not ready, or whose reserved outputs
have no room, leaves the state unchanged (R88, R11); an E operand sends its error token (R98); an X operand faults
unless the operation takes it (R96); an invalid temporary faults UNINIT (R93). -/
def withFiring (s : State) (lat : Nat) (xok : Bool) (body : Firing → State) : Res :=
  match s.cur with
  | .node c cctx pe slot p =>
    match nodeFiring s c cctx pe slot p with
    | none => .next s
    | some q =>
      if !roomFor (s.core c) cctx pe (outPorts q.f) then .next s
      else if q.e then .next (fireError s q lat)
      else if q.x && !xok then .next (nodeFault s q 1)
      else .next (body q)
  | .snip c pe =>
    match snipFiring s c pe with
    | .wait => .next s
    | .uninit => .next (snipUninit s c pe)
    | .ok q => .next (body q)
  | _ => .next s

/-- The same for nodes that may not stand in a snippet and that treat E operands themselves. -/
def withNode (s : State) (room : Bool) (body : Firing → State) : Res :=
  match s.cur with
  | .node c cctx pe slot p =>
    match nodeFiring s c cctx pe slot p with
    | none => .next s
    | some q => if room && !roomFor (s.core c) cctx pe (outPorts q.f) then .next s else .next (body q)
  | _ => .next s

/-! ## Lane-wise operations (R97) -/

/-- Whether the operation is a vector operation (R135). -/
def Firing.isVec (q : Firing) : Bool := q.a.vec || (match q.b with | some b => b.vec | none => false)

/-- The sidecar of a lane-wise result, when an operand has one (R97): empty where a lane is empty or its tags differ. -/
def Firing.sides (q : Firing) : Option (List (BitVec 24)) :=
  match q.a.side, q.b.bind (·.side) with
  | none, none => none
  | some u, none => some u
  | none, some v => some v
  | some u, some v => some ((u.zip v).map fun p => if p.1 = p.2 then p.1 else 0xFFFFFF)

/-- The lanes a lane-wise operation computes: lane 0 of a scalar operation, the non-empty lanes of a vector one. -/
def Firing.lanes (q : Firing) : List Nat :=
  if !q.isVec then [0] else
  match q.sides with
  | none => List.range 16
  | some sd => (List.range 16).filter fun l => sd.getD l 0 != 0xFFFFFF

/-- Lane l of B; 0 when the operation has no B. -/
def Firing.bl (q : Firing) (l : Nat) : Word := match q.b with | some b => b.lane l | none => 0

/-- Folds a lane function over the lanes computed, threading the PE's Shaker states in lane order (R49, R50). -/
def foldLanes (h : Nat → List Word → Word × List Word) : List Nat → List Word → List (Nat × Word) × List Word
  | [], sh => ([], sh)
  | l :: ls, sh =>
    let (w, sh) := h l sh
    let (r, sh) := foldLanes h ls sh
    ((l, w) :: r, sh)

/-- A lane-wise result from the lanes computed: 0 in the others (R77, R97); a scalar result stands in every lane. -/
def Firing.result (q : Firing) (ws : List (Nat × Word)) : Val :=
  if q.isVec then ⟨(List.range 16).map fun l => AMap.get ws l 0, true, q.sides⟩ else Val.scalar (AMap.get ws 0 0)

/-- The Shaker states of a PE; until SEED they hold what launch start gives (R48). -/
def State.shaker (s : State) (c pe : Nat) : List Word := AMap.get (s.core c).shaker pe (seedAll 0 pe)

/-- The state with a PE's Shaker states replaced. -/
def State.setShaker (s : State) (c pe : Nat) (sh : List Word) : State :=
  s.modCore c fun k => { k with shaker := AMap.put k.shaker pe sh }

/-- The MODE register of a core as it applies to what issues now (R301). -/
def State.modeOf (s : State) (c : Nat) : DWord := timed s.now 0 (s.core c).mode

/-- A rounding mode field resolved: 7 takes MODE.RND (R42, R45). -/
def State.rnd (s : State) (c m : Nat) : Nat := if m % 8 = 7 then (s.modeOf c).toNat % 8 else m % 8

/-- A lane-wise operation without rounding: lane function of A, B and sf (R97, R138). -/
def laneOp (s : State) (lat : Nat) (h : Word → Word → Word → Word) : Res :=
  withFiring s lat true fun q =>
    finish s q lat (q.result (q.lanes.map fun l => (l, h (q.a.lane l) (q.bl l) (q.sf.getD l 0))))

end Sys2Proof.Machine
end

