-- ==== Sys2Proof/Machine/Flags.lean ====
section
/-! DEFINITION. Conditions and flags: the condition codes of R113 on lanes, the 0/1 results they give, and the token
flags of a result (R91). The part has no condition-code register (R350). -/

namespace Sys2Proof.Machine

/-- The word 1 or 0 for a condition. -/
def boolWord (b : Bool) : Word := if b then 1 else 0

/-- The sign of a comparison of two integers. -/
def sgn (a b : Int) : Int := if a < b then -1 else if a = b then 0 else 1

/-- CMP: a signed comparison (R113, R138). -/
def cmpS (c : Nat) (a b : Word) : Bool := condHolds c (sgn a.toInt b.toInt)

/-- CMPN: an unsigned comparison (R113, R138). -/
def cmpN (c : Nat) (a b : Word) : Bool := condHolds c (sgn a.toNat b.toNat)

/-- TST with m: 0 zero, 1 not zero (R138). -/
def tstW (m : Nat) (a b : Word) : Bool := if m = 0 then a &&& b == 0 else a &&& b != 0

/-- The flags of a result: M and L, each the OR of the operands' and the tag action's (R91). -/
def resultFlags (q : Firing) : Bool × Bool := (q.m || q.f.tg == 7, q.l || q.f.tg == 6)

end Sys2Proof.Machine
end

