-- ==== Sys2Proof/Machine/Registers.lean ====
section
/-! DEFINITION. Register blocks: where each register lies, who may access it, its value read and the effect of a write
(R308, R310, R369, R401, R406, R455, R457). -/

namespace Sys2Proof.Machine

/-- A register of a block. -/
inductive Reg where
  | ctxcmd | ctxrsp | gangbase | pgcmd | pgrsp
  | qbase (q : Nat) | qcfg (q : Nat) | qtail (q : Nat) | qstat (q : Nat)
  | pqcfg (n : Nat) (hi : Bool)
  | bkctl (d : Nat) | bkfree (d : Nat) | bkret (d : Nat) | bkptr (d : Nat)
  /-- the route entry of package p in HD0's or HD1's block -/
  | route (hub p : Nat)
  | access (key : Nat) (dw : Nat)
  /-- an offset of a block that no rule describes (log 10) -/
  | other (pa : Nat)
  deriving DecidableEq, Repr

/-- Base and size of the block that holds a physical address: the scheduler block, a Banker block, a link block
(R308, R406, R455; the sizes, which place the access tables of R457, are the distances between the blocks, log 10). -/
def blockOf (pa : Nat) : Option (Nat × Nat) :=
  let o := pa % 2 ^ 48
  if pa / 2 ^ 48 ≠ 4 then none
  else if 0x1000000 ≤ o ∧ o < 0x2000000 then some (0x4000001000000, 0x1000000)
  else if 0x2000000 ≤ o ∧ o < 0x2040000 then some (0x4000002000000 + (o - 0x2000000) / 0x10000 * 0x10000, 0x10000)
  else if 0x3000000 ≤ o ∧ o < 0x3200000 then some (0x4000003000000 + (o - 0x3000000) / 0x100000 * 0x100000, 0x100000)
  else none

/-- The register at a physical address; none outside every block. -/
def regAt (pa : Nat) : Option Reg :=
  match blockOf pa with
  | none => none
  | some (base, size) =>
    let o := pa - base
    if pa % 8 ≠ 0 then none
    else if size - 1024 ≤ o then some (.access (base + (o - (size - 1024)) / 32) (o % 32 / 8))
    else if size = 0x1000000 then
      if o = 0 then some .ctxcmd else if o = 8 then some .ctxrsp else if o = 0x10 then some .gangbase
      else if o = 0x20 then some .pgcmd else if o = 0x28 then some .pgrsp
      else if 0x100000 ≤ o ∧ o < 0x180000 then
        let q := (o - 0x100000) / 32
        some (if o % 32 = 0 then .qbase q else if o % 32 = 8 then .qcfg q else if o % 32 = 16 then .qtail q else .qstat q)
      else if 0x200000 ≤ o ∧ o < 0x201000 then some (.pqcfg ((o - 0x200000) / 16) (decide (o % 16 = 8)))
      else some (.other pa)
    else if size = 0x10000 then
      let d := (base - 0x4000002000000) / 0x10000
      if o = 0 then some (.bkctl d) else if o = 8 then some (.bkfree d) else if o = 16 then some (.bkret d)
      else if o = 24 then some (.bkptr d) else some (.other pa)
    else if 0x1000 ≤ o ∧ o < 0x1800 then some (.route ((base - 0x4000003000000) / 0x100000) ((o - 0x1000) / 8)) else some (.other pa)

/-- A priority queue before it is configured (R322). -/
def Pq.reset : Pq := ⟨false, 0, 0, [], [], [], 0, 0⟩

/-- Priority queue n (R322). -/
def State.pq (s : State) (n : Nat) : Pq := AMap.get s.pqs n Pq.reset

/-- The state with priority queue n changed by f. -/
def State.modPq (s : State) (n : Nat) (f : Pq → Pq) : State := { s with pqs := AMap.put s.pqs n (f (s.pq n)) }

/-- The codes of QSTAT.STATE (R308). -/
def QState.code : QState → Nat
  | .empty => 0
  | .armed => 1
  | .active => 2
  | .blocked => 3
  | .suspended => 4
  | .error => 5

/-- A register read (R308, R310, R369, R401, R406, R455, R457); every RSV bit reads 0. -/
def regRead (s : State) : Reg → DWord
  | .ctxcmd => s.ctxcmd
  | .ctxrsp => s.ctxrsp
  | .gangbase => s.gangbase
  | .pgcmd => s.pgcmd
  | .pgrsp => s.pgrsp
  | .qbase q => (s.queue q).base
  | .qcfg q => dword (b2n (s.queue q).en * 2 ^ 31 + (s.queue q).weight * 2 ^ 16 + (s.queue q).ctx)
  | .qtail q => dword (s.queue q).tail.toNat
  | .qstat q =>
    let k := s.queue q
    dword (k.head.toNat * 2 ^ 32 + k.deficit * 2 ^ 16 + k.waits * 2 ^ 8 + k.state.code)
  | .pqcfg n false => dword (b2n (s.pq n).en * 2 ^ 63 + (s.pq n).ctx)
  | .pqcfg n true => dword (s.pq n).area
  | .bkctl d => (s.die d).bkctl
  | .bkfree d => (s.die d).bkfree
  | .bkret d => (s.die d).bkret
  | .bkptr d => (s.die d).bkptr
  | .route h p => AMap.get s.routes (256 * h + p) 0
  | .access k dw =>
    match AMap.find? s.access k with
    | none => 0
    | some e => match dw with | 0 => e.dw0 | 1 => e.base | 2 => e.limit | _ => e.target
  | .other _ => Config.freeDWord s.freeCtr

/-- What a read leaves: the next read of a place that no rule describes has a free value of its own (log 2, log 10). -/
def regSeen (s : State) : Reg → State
  | .other _ => s.freeArg.2
  | _ => s

/-- The bits of v in a mask. -/
def keepBits (v : DWord) (m : Nat) : DWord := v &&& dword m

/-- A register write (R308-R310, R369, R401, R406, R455, R457): the host's own fields; commands and queue registers
happen as the events of their rules in this cycle; RSV bits and device-written fields keep their value. -/
def regWrite (s : State) (r : Reg) (v : DWord) : State :=
  let ev := fun (i : Instr) (q : Nat) => { s with agenda := insertDue s.now i (.word q v) s.agenda }
  match r with
  | .ctxcmd => match fld v.toNat 63 60 with
    | 1 => ev .ctxCreate 0
    | 2 => ev .ctxStop 0
    | 3 => ev .ctxResume 0
    | 4 => ev .ctxDestroy 0
    | 5 => ev .ctxRelease 0
    | _ => ev .ctxcmdBadOp 0
  | .pgcmd => match fld v.toNat 63 60 with
    | 1 => ev .pgRetry 0
    | 2 => ev .pgRefuse 0
    | 3 => ev .pgInvalidatePage 0
    | 4 => ev .pgInvalidateContext 0
    | _ => ev .pgcmdBadOp 0
  | .ctxrsp | .pgrsp | .qstat _ | .other _ => s
  | .gangbase => { s with gangbase := keepBits v 0x800FFFFFFFC00000 }
  | .qbase q => ev .qbaseWrite q
  | .qcfg q => ev .qcfgWrite q
  | .qtail q => ev .qtailWrite q
  | .pqcfg n false => s.modPq n fun p => { p with en := v.msb, ctx := v.toNat % 4096 }
  | .pqcfg n true => s.modPq n fun p => { p with area := fld v.toNat 51 23 * 2 ^ 23 }
  | .bkctl d =>
    let s := s.modDie d fun k => { k with bkctl := keepBits v 0x8000FFFFFFFFFFFF }
    if v.msb && !(s.die d).bkq.isEmpty && (s.die d).bkrun.isNone then wakeBanker s d else s
  | .bkfree d => s.modDie d fun k => { k with bkfree := keepBits v 0x000FFFFFFFFF001F }
  | .bkret d => s.modDie d fun k => { k with bkret := keepBits v 0x000FFFFFFFFF001F }
  | .bkptr d => s.modDie d fun k =>
      { k with bkptr := (v &&& dword 0x0000FFFFFFFF0000) ||| (k.bkptr &&& dword 0xFFFF00000000FFFF) }
  | .route h p => { s with routes := AMap.put s.routes (256 * h + p) (keepBits v 0xF00000000000FFFF) }
  | .access k dw =>
    let e : AccEnt := AMap.get s.access k ⟨0, 0, 0, 0⟩
    let e : AccEnt := match dw with
      | 0 => { e with dw0 := keepBits v 0xE0000000FFFFFFFF }
      | 1 => { e with base := v }
      | 2 => { e with limit := v }
      | _ => { e with target := v }
    { s with access := AMap.put s.access k e }

/-- The entry of a block's access table that decides an access by a master to an address: the lowest-numbered one that
matches (R457). -/
def accessEntry (s : State) (base master addr : Nat) : Option AccEnt :=
  ((List.range 32).findSome? fun i =>
    match AMap.find? s.access (base + i) with
    | none => none
    | some e =>
      let m := fld e.dw0.toNat 31 16
      if e.dw0.msb && decide (master &&& m = fld e.dw0.toNat 15 0 &&& m) && decide (e.base.toNat ≤ addr)
        && decide (addr ≤ e.limit.toNat) then some e else none)

/-- Whether a master may read or write a register (R457): by the table's deciding entry; the tables themselves may be
written by classes 0 (the firmware) and 1 only. -/
def accessOk (s : State) (master pa : Nat) (write : Bool) : Bool :=
  match blockOf pa, regAt pa with
  | some _, some (.access _ _) => decide (master / 4096 ≤ 1)
  | some (base, _), _ =>
    (match accessEntry s base master pa with
     | some e => if write then e.dw0.getLsbD 61 else e.dw0.getLsbD 62
     | none => false)
  | none, _ => false

end Sys2Proof.Machine
end

