-- ==== Sys2Proof/Machine/MemSys.lean ====
section
/-! DEFINITION. The memory system: spaces and windows, levels and caches, the order of accesses, how an access performs
and answers, and circular-buffer advances (R181-R195, R236-R275, R400, R495). -/

namespace Sys2Proof.Machine

/-! ## Spaces and windows -/

/-- The image a launch runs, if its entry is decoded. -/
def State.imageOf (s : State) (l : Launch) : Option Image := (AMap.find? s.entries l.entry).bind (·.img)

/-- The slices of a launch's group, in raster order (R237). -/
def Launch.slices (l : Launch) : List Nat :=
  (l.cores.filter fun c => c % 2 == 1).map fun c => rowOf c * 8 + colOf c / 2

/-- The size of the group window (R237). -/
def Launch.winSize (l : Launch) : Nat := l.slices.length * l.ways * 32768

/-- Where byte o of the group window lies in memory (R237, log 3). -/
def winAddr (l : Launch) (o : Nat) : Nat :=
  let n := l.slices.length
  let s := (o / 128) % n
  let ln := o / 128 / n
  2 ^ 53 + (((l.die * 128 + l.slices.getD s 0) * 16 + (16 - l.ways + ln / 256)) * 256 + ln % 256) * 128 + o % 128

/-- The ways that accesses issued now find lent (R246): those of the last SLWAYS of the launch that has been issued (operation
0x43), whether or not it applies yet. -/
def State.waysOf (s : State) (n : Nat) (l : Launch) : Nat :=
  match (s.ops.filter fun p => p.2.op == 0x43 && p.2.launch == n).getLast? with
  | some p => p.2.val.toNat
  | none => l.ways

/-- Where an access of n bytes at an address of a space lies, once checked (R181, R237, R246, R410): the cause of the
fault, or the space it performs in and its address there. -/
def placeIn (s : State) (core sp addr n : Nat) : Except Nat (Space × Nat) :=
  match s.launchOf core with
  | none => .error 6
  | some (id, l) =>
    match sp with
    | 0 => .ok (.virt, addr)
    | 1 => if addr + n ≤ 2 ^ 21 then .ok (.scratch core, addr) else .error 6
    | 2 =>
      let c := clusCore core (fld addr 24 21)
      if addr % 2 ^ 21 + n ≤ 2 ^ 21 ∧ addr < 2 ^ 25 ∧ l.has c then .ok (.scratch c, addr % 2 ^ 21) else .error 6
    | _ =>
      let reg := match l.window with
        | some w => decide (w.off * 65536 < addr + n) && decide (addr < (w.off + w.nsl) * 65536)
        | none => false
      if addr + n ≤ ({ l with ways := s.waysOf id l } : Launch).winSize ∧ !reg then .ok (.window, addr) else .error 6

/-- An access of n bytes at offset off of window w of the running image (R181): WIN_RANGE outside the window. -/
def placeWin (s : State) (core w off n : Nat) : Except Nat (Space × Nat) :=
  match (s.launchOf core).bind fun l => s.imageOf l.2 with
  | none => .error 17
  | some im =>
    match im.windows[w]? with
    | none => .error 17
    | some (sp, base, size) => if off + n ≤ size then placeIn s core sp (base + off) n else .error 17

/-- A scratch address (R181). -/
def placeScratch (s : State) (core a n : Nat) : Except Nat (Space × Nat) :=
  let cl := bitAt a 25
  let ci := fld a 24 21
  let off := a % 2 ^ 21
  let c := if cl then clusCore core ci else core
  let inGroup := match s.launchOf core with | some (_, l) => l.has c | none => c == core
  if 2 ^ 26 ≤ a ∨ (!cl ∧ ci ≠ 0) ∨ 2 ^ 21 < off + n ∨ !inGroup then .error 6 else .ok (.scratch c, off)

/-- Split(p, n) (R182), by pieces of at most 64 bytes; at_ is where the piece's bytes lie in the value. -/
def split : Nat → Nat → Nat → Nat → List Piece
  | 0, _, _, _ => []
  | fuel + 1, p, n, at_ =>
    if n = 0 then [] else
    let q := ([64, 32, 16, 8, 4, 2, 1].find? fun q => q ≤ n && p % q == 0).getD 1
    ⟨p, q, at_⟩ :: split fuel (p + q) (n - q) (at_ + q)

/-- The events of an access (R183, R258): one for an aligned 4- or 64-byte token, else Split. -/
def eventsOf (p n : Nat) : List Piece :=
  if (n = 4 ∨ n = 64 ∨ n = 8) ∧ p % n = 0 then [⟨p, n, 0⟩] else split 64 p n 0

/-- A range cut at multiples of b. -/
def cutAt (b : Nat) : Nat → Nat → Nat → List (Nat × Nat)
  | 0, _, _ => []
  | fuel + 1, a, n =>
    if n = 0 then [] else
    let q := min n (b - a % b)
    (a, q) :: cutAt b fuel (a + q) (n - q)

/-! ## Caches and levels -/

/-- The traffic class of a path in the slice cache (R243). -/
def classOf : Path → Nat
  | .fab | .seq => 0
  | .str | .lnk => 1
  | .mxe => 2
  | .row => 3
  | .bnk => 4

/-- The set of a line index: L[14:7] (R241). -/
def lineSet (line : Nat) : Nat := line / 128 % 256

/-- The cache way that holds a line in its set (R241): ways lent as scratch take no part. -/
def wayOf (sl : Slice) (line lent : Nat) : Option Nat :=
  (List.range (16 - lent)).find? fun w =>
    match AMap.find? sl.ways (lineSet line * 16 + w) with
    | some c => c.line == line && (c.valid ||| c.dirty) != 0
    | none => false

/-- The sectors a piece covers, in part or whole, as a mask within its line (R241). -/
def sectors (pa n : Nat) (whole : Bool) : BitVec 4 :=
  BitVec.ofNat 4 (((List.range 4).filter fun i =>
    let lo := pa / 128 * 128 + 32 * i
    if whole then decide (pa ≤ lo) && decide (lo + 32 ≤ pa + n) else decide (pa < lo + 32) && decide (lo < pa + n)).foldl
      (fun m i => m + 2 ^ i) 0)

/-- Whether a slice holds a line with every sector of a mask valid (R241): what a read hits; with no sector, what a store hits. -/
def holds (sl : Slice) (line lent : Nat) (m : BitVec 4) : Bool :=
  match wayOf sl line lent with
  | some w => match AMap.find? sl.ways (lineSet line * 16 + w) with
    | some c => c.valid &&& m == m
    | none => false
  | none => false

/-- The ways a slice lends: those of the group it belongs to (R237, R246). -/
def lentWays (s : State) (d sl : Nat) : Nat :=
  match List.find? (fun p => p.2.die == d && p.2.gstate != .released && p.2.slices.contains sl) s.launches with
  | some p => p.2.ways
  | none => 0

/-- Whether an access to an HBM address misses its slice. -/
def State.missesSlice (s : State) (pa : Nat) : Bool :=
  (wayOf (s.slice (homeDie pa) (sliceOf pa)) (pa / 128) (lentWays s (homeDie pa) (sliceOf pa))).isNone

/-- The victim way among n ways (R242): the lowest invalid, else the lowest of the greatest RRPV, the others raised to
3 by as much. -/
def victim (sl : Slice) (set n : Nat) : Nat × Slice :=
  let at_ := fun w => AMap.find? sl.ways (set * 16 + w)
  match (List.range n).find? fun w => match at_ w with | none => true | some c => (c.valid ||| c.dirty) == 0 with
  | some w => (w, sl)
  | none =>
    let mx := (List.range n).foldl (fun m w => match at_ w with | some c => max m c.rrpv | none => m) 0
    let w := ((List.range n).find? fun w => match at_ w with | some c => c.rrpv == mx | none => false).getD 0
    (w, { sl with ways := sl.ways.map fun p => if p.1 / 16 = set then (p.1, { p.2 with rrpv := min 3 (p.2.rrpv + (3 - mx)) }) else p })

/-- The RRPV of an inserted line and the slice's counters after (R242, R243). -/
def insertRrpv (sl : Slice) (set cls hint : Nat) : Nat × Slice :=
  let lead := if set % 8 = 0 then 0 else if set % 8 = 4 then 1 else 2
  let p := AMap.get sl.psel cls 511
  let sl := if cls = 4 then sl
    else if lead = 0 then { sl with psel := AMap.put sl.psel cls (min 1023 (p + 1)) }
    else if lead = 1 then { sl with psel := AMap.put sl.psel cls (p - 1) } else sl
  let brrip := if lead = 0 then false else if lead = 1 then true else decide (512 ≤ p)
  if hint ≠ 0 ∨ cls = 4 then (3, sl)
  else if brrip then
    let c := (AMap.get sl.brrip cls 0 + 1) % 32
    (if c = 0 then 2 else 3, { sl with brrip := AMap.put sl.brrip cls c })
  else (2, sl)

/-- The slice after an access to a line that needs the sectors of a mask: a hit refreshes it; a miss inserts it, whole for a read, with
the covered sectors for a store (R241-R243). A read of a sector that a present line lacks is a miss that fills the line in its way
(DEDUCED, log 35). -/
def touch (sl : Slice) (line lent cls hint : Nat) (need valid dirty : BitVec 4) : Slice :=
  let set := lineSet line
  match wayOf sl line lent with
  | some w =>
    let k := set * 16 + w
    match AMap.find? sl.ways k with
    | some c =>
      let (r, sl) := if c.valid &&& need == need then (0, sl) else insertRrpv sl set cls hint
      let e : CLine := { c with rrpv := r, valid := c.valid ||| valid, dirty := c.dirty ||| dirty }
      { sl with ways := AMap.put sl.ways k e }
    | none => sl
  | none =>
    if lent ≥ 16 then sl else
    let (w, sl) := victim sl set (16 - lent)
    let (r, sl) := insertRrpv sl set cls hint
    let e : CLine := ⟨line, valid, dirty, r⟩
    { sl with ways := AMap.put sl.ways (set * 16 + w) e }

/-- Whether an access to an HBM address would allocate into a way that an SLWAYS, issued and not yet applied, lends (R246). An allocation that
a walk, the Banker or a peer makes there is left out, the read or write itself made (DESIGN CHOICE, log 38). -/
def allocWaits (s : State) (pa : Nat) : Bool :=
  let d := homeDie pa
  let i := sliceOf pa
  decide (pa < 2 ^ 49) && s.ops.any (fun o =>
    o.2.op == 0x43 && (match AMap.find? s.launches o.2.launch with
      | some l => l.die == d && l.slices.contains i && decide (16 - o.2.val.toNat ≤ (victim (s.slice d i) (lineSet (pa / 128)) (16 - l.ways)).1)
      | none => false)) && s.missesSlice pa

/-- The bank of an HBM address: stack * 4624 + bank, and its row (R239, R404). -/
def bankRow (pa : Nat) : Nat × Nat :=
  let d := pa % 2 ^ 39
  let st := fld d 8 7 ^^^ fld d 18 17 ^^^ fld d 28 27 ^^^ fld d 38 37
  let b := (fld d 38 9 * 128 + d % 128) / 1024
  (st * 4624 + b % 4624, b / 4624)

/-- Bank n of die d before use (R405). -/
def Bank.reset : Bank := ⟨[], 0, [], 0, none⟩

/-- Bank b of die d. -/
def State.bankAt (s : State) (d b : Nat) : Bank := AMap.get (s.die d).banks b Bank.reset

/-- Whether a promotion holds the HBM bank that an access to an address would have to reach (R251, R405). -/
def bankHeld (s : State) (pa : Nat) : Bool :=
  decide (pa < 2 ^ 49) && decide (s.now < (s.bankAt (homeDie pa) (bankRow pa).1).held) && s.missesSlice pa

/-- Whether a row holds a promotion slot (R405). -/
def promoted (s : State) (pa : Nat) : Bool :=
  let (b, r) := bankRow pa
  (AMap.get (s.die (homeDie pa)).banks b Bank.reset).slots.any fun p => p.2.row == r

/-- Whether die d's far cache serves a read of a line by core c (R244, R245). -/
def farHit (s : State) (c pa : Nat) : Option FarLine :=
  match AMap.find? (s.die (dieOf c)).far (pa / 128) with
  | some f => if (s.core c).acq ≤ f.ep then some f else none
  | none => none

/-- The level latency of n bytes at an address for core c (R253); for a store, whose slice hit needs no sector, n is 0. A peer window's
counts what lies on this side of the peer (R454 adds the level there). -/
def levelPhys (s : State) (c pa n : Nat) (far sliceOk : Bool) : Nat :=
  let d := dieOf c
  let r := pa / 2 ^ 48
  let h := homeDie pa
  if r ≤ 1 then
    let hit := holds (s.slice h (sliceOf pa)) (pa / 128) (lentWays s h (sliceOf pa)) (sectors pa n false)
    let base := if hit && sliceOk then 60 else if r = 1 ∨ promoted s pa then 170 else 210
    if h = d then base
    else if far ∧ (farHit s c pa).isSome then 90
    else base + 24 * crossings d h
  else if r ≤ 3 then
    if far ∧ (farHit s c pa).isSome then 90
    else (if r = 2 then 480 else 720) + 24 * (crossings d h - 1)
  else if r = 4 then 100 + 24 * crossings d h
  else if 5 < r then 60
  else 720 + ceilDiv n 128

/-- The level latency of an access's place (R253). -/
def levelOf (s : State) (c : Nat) (sp : Space) (a n : Nat) (far : Bool) : Nat :=
  match sp with
  | .scratch k => if k = c then 6 else 24
  | .window => 60
  | .phys | .virt => levelPhys s c a n far true

/-! ## Translation with the TLBs (R400) -/

/-- Whether a TLB entry holds a context's page of an address. -/
def TlbEnt.hit (t : TlbEnt) (ctx va : Nat) : Bool :=
  t.ctx == ctx && t.va == va / 2 ^ (16 + 10 * (4 - t.level))

/-- A translation through the TLBs or a walk, and the cycles it adds (R400). -/
def translate (s : State) (c ctx va : Nat) (acc : Acc) : Except (Nat × Nat) (Trans × Nat) :=
  if 2 ^ 56 ≤ va then .error (0, 3) else
  let use := fun (t : TlbEnt) (n : Nat) =>
    match checkLeaf t.leaf.toNat va (16 + 10 * (4 - t.level)) t.level t.leafPa acc [] with
    | .ok x => Except.ok (x, n)
    | .error e => .error e
  match (s.core c).tlb.find? (·.hit ctx va) with
  | some t => use t 0
  | none =>
    match (s.die (dieOf c)).tlb.find? (·.hit ctx va) with
    | some t => use t 20
    | none =>
      match s.walk ctx va acc with
      | .ok t => .ok (t, 20 + (t.read.map fun p => levelPhys s c p 8 false true).foldl (· + ·) 0)
      | .error e => .error e

/-- The die TLB's set of an entry (R400). -/
def TlbEnt.set (t : TlbEnt) : Nat := t.va % 1024 ^^^ t.ctx % 1024

/-- The cycles that a failed translation of core c adds, its walk ending at a level (R400). -/
def failTime (s : State) (c ctx va lvl : Nat) : Nat :=
  if (s.core c).tlb.any (·.hit ctx va) then 0
  else if (s.die (dieOf c)).tlb.any (·.hit ctx va) then 20
  else 20 + ((walkPath s.mem va lvl 1 (s.ctx ctx).root).map fun p => levelPhys s c p 8 false true).foldl (· + ·) 0

/-- The cycles of a failed translation, 0 where no table could translate the address (R400, R401). -/
def missTime (s : State) (c ctx va lvl : Nat) : Nat := if lvl = 0 then 0 else failTime s c ctx va lvl

/-- The entries that a walk reads come into their home slices as reads of the access's class do (R241, R254, R399; DEDUCED,
log 27). -/
def touchWalk (s : State) (cls : Nat) (l : List Nat) : State :=
  l.foldl (fun s p =>
    if 1 < p / 2 ^ 48 ∨ allocWaits s p then s else
    s.modSlice (homeDie p) (sliceOf p) fun sl => touch sl (p / 128) (lentWays s (homeDie p) (sliceOf p)) cls 0 (sectors p 8 false) 15 0) s

/-- The TLBs after a translation (R400): the page becomes the most recently used of the core's 512 and of the 16 ways of
its set in the die's; the least recently used leave. Lists stand in order of use. -/
def fillTlb (s : State) (cls c ctx va : Nat) (t : Trans) : State :=
  let s := touchWalk s cls t.read
  let e : TlbEnt := ⟨ctx, va / 2 ^ (16 + 10 * (4 - t.level)), t.level, dword t.leaf, t.leafPa, s.now⟩
  let rest := fun (l : List TlbEnt) => l.filter fun x => !(x.ctx == ctx && x.va == e.va && x.level == e.level)
  (s.modCore c fun k => { k with tlb := (e :: rest k.tlb).take 512 }).modDie (dieOf c) fun d =>
    let r := rest d.tlb
    { d with tlb := e :: (((r.filter fun x => x.set == e.set).take 15) ++ r.filter fun x => x.set != e.set) }

/-- A translation that an access uses: a page that the core's TLB holds becomes the core's most recently used, one that it lacks enters
both TLBs (R400). -/
def useTlb (s : State) (cls c ctx va : Nat) (t : Trans) : State :=
  match (s.core c).tlb.find? (·.hit ctx va) with
  | some e => s.modCore c fun k => { k with tlb := e :: k.tlb.filter (· != e) }
  | none => fillTlb s cls c ctx va t

/-- The origin code of an access's source (R294). -/
def Access.origin (a : Access) : Nat :=
  if a.kind = .drain then 14 else
  match a.path, a.src with
  | .mxe, _ => 6
  | .row, .seq 67 => 7
  | .row, _ => 8
  | .lnk, _ => 11
  | .bnk, _ => 14
  | _, .node .. => 0
  | _, .seq _ => 2
  | _, .chan .. => 3

/-- The byte offset of the program that issues an access, the sequencer's or the stream program's, in its cycle of issue (R294). -/
def Access.programAt (a : Access) (k : Core) : Nat :=
  match a.origin with
  | 2 => k.seq.pc
  | 3 => k.strm.pc
  | _ => 0

/-- The record of a fault that an access meets (R294). -/
def Access.record (a : Access) (cause addr : Nat) : Rec :=
  let (cctx, pe, slot) := match a.src with | .node x p n => (x, p, n) | _ => (0, 0, 0)
  { cause := cause, origin := a.origin, core := a.core, pe := pe, slot := slot, cctx := cctx, addr := addr, tag := a.ftag, offset := a.offset }

/-- A failed translation (R401): joins or enters the stall table of the core's die; a new entry writes one record. -/
def stallAccess (s : State) (id : Nat) (a : Access) (ctx va : Nat) (wr : Bool) (e : Nat × Nat) : State :=
  let d := dieOf a.core
  let page := va / 65536
  let s := { s with accs := AMap.put s.accs id { a with stage := .stalled page } }
  match (s.die d).stalls.find? fun t => t.ctx == ctx && t.va == page with
  | some _ => s.modDie d fun k => { k with stalls := k.stalls.map fun t =>
      if t.ctx == ctx && t.va == page then { t with ids := t.ids ++ [id] } else t }
  | none =>
    if 256 ≤ (s.die d).stalls.length then s.after 16 .pageWalk [id] else
    let cause := if e.2 = 1 ∨ e.2 = 2 then 9 else 8
    let r : Rec :=
      { a.record cause va with
        queue := ((s.launchOf a.core).map fun l => l.2.queue).getD 0, detail := e.1 + e.2 * 16 + b2n wr * 256 }
    let (s, i) := s.record ctx r
    s.modDie d fun k => { k with stalls := k.stalls ++ [⟨ctx, page, wr, i.getD (2 ^ 32), cause, [id], []⟩] }

/-! ## Access life (R495) -/

/-- What an access needs of its leaf. -/
def AKind.acc : AKind → Acc
  | .load | .prft | .wbl | .null => .read
  | .store | .drain => .write
  | .probe w => if w then .write else .read
  | _ => .atomic

/-- Whether an access returns the old value as an atomic does. -/
def AKind.isAtomic : AKind → Bool
  | .atomic _ | .add64 | .cas64 _ => true
  | _ => false

/-- Whether the home slice holds a line dirty (R190). -/
def dirtyAt (s : State) (pa : Nat) : Bool :=
  let sl := s.slice (homeDie pa) (sliceOf pa)
  match wayOf sl (pa / 128) (lentWays s (homeDie pa) (sliceOf pa)) with
  | some w => match AMap.find? sl.ways (lineSet (pa / 128) * 16 + w) with | some c => c.dirty != 0 | none => false
  | none => false

/-- The bytes of an access at their place in its value, zero-filled before. -/
def putAt (l : List Byte) (i : Nat) (bs : List Byte) : List Byte :=
  (l ++ List.replicate (i - l.length) 0).take i ++ bs ++ l.drop (i + bs.length)

/-- Accepts a write-combining or non-temporal store in the core's buffer (R265): merged into its line's entry. -/
def wcMerge (k : Core) (now dom src order : Nat) (pa : Nat) (bs : List Byte) : Core :=
  let put := fun (e : WcEnt) =>
    let add := fun (l : List Nat) (n : Nat) => if l.contains n then l else l ++ [n]
    let e : WcEnt := { e with stores := e.stores ++ [(src, order, pa, bs.length)], doms := add e.doms dom }
    (bs.zip (List.range bs.length)).foldl (fun (e : WcEnt) p =>
      { e with mask := e.mask ||| BitVec.ofNat 128 (2 ^ ((pa + p.2) % 128)), bytes := e.bytes.set ((pa + p.2) % 128) p.1 }) e
  if k.wc.any fun e => e.line == pa / 128 then { k with wc := k.wc.map fun e => if e.line = pa / 128 then put e else e }
  else { k with wc := k.wc ++ [put ⟨pa / 128, 0, List.replicate 128 0, [], now, []⟩] }

/-- The number of an access's source in the write-combining buffer; a PE's accesses by PATH = 1 have one of their own (R187). -/
def Access.srcNum (a : Access) : Nat :=
  match a.src with
  | .node _ p _ => if a.path = .str then 192 + p else p
  | .seq _ => 128
  | .chan c _ => 64 + c

/-- Whether an access goes to the write-combining buffer (R265): an NT or WC store to memory of a FREE launch; a DET store
performs in its order, by its order slice, a copy's write in its turn (R203), and a release when what it waits for has performed (R186), one
beyond the memory's capacity faults (R239), and a store to scratch, the group window, a register block or a peer performs as any store does
(DEDUCED, log 11). -/
def Access.combines (s : State) (a : Access) : Bool :=
  a.kind == .store && a.hint != 0 && a.space == .phys && a.own.isNone && !a.rel && !a.inTurn &&
    a.todo.all fun p => decide (p.addr < 4 * 2 ^ 48) && (memRegion s p.addr).isSome

/-- The far-cache line that serves a read of core c at an address homed on another die, if one does (R244, R245). -/
def farServes (s : State) (c pa : Nat) : Bool := homeDie pa != dieOf c && decide (pa / 2 ^ 48 ≤ 3) && (farHit s c pa).isSome

/-- Sends an access towards its memory node: by its order slice when it carries a DET number (R267, R271), else straight to it (R495). A
read that far-cache copies do not serve goes home: its fill is issued now, under the die's epoch (R245). A far-cache copy serves no read of
a snapshot region (R272) and none of a DET launch, whose reads return the last write of a lower number (R271). -/
def routeAccess (s : State) (id : Nat) (a : Access) : State :=
  let snap : Bool := match s.launchOf a.core with | some (_, l) => (timed s.now 0 l.snapcfg).getLsbD 0 | none => false
  let far := a.kind == .load && a.space == .phys && !snap && a.own.isNone && a.todo.all fun p => farServes s a.core p.addr
  let n := fun (p : Piece) => if a.kind.acc = .write ∧ p.addr < 4 * 2 ^ 48 then 0 else p.len
  let one := fun (p : Piece) =>
    if a.kind = .wbl ∧ a.space = .phys then levelPhys s a.core p.addr 0 false (!dirtyAt s p.addr) else levelOf s a.core a.space p.addr (n p) far
  let l := a.todo.foldl (fun m p => max m (one p)) 6
  let a := { a with wait := l, home := if far then none else some (s.now, (s.die (dieOf a.core)).ae) }
  match a.own with
  | some _ => { s with accs := AMap.put s.accs id { a with stage := .ordering } }.after 20 .orderSliceArrival [id]
  | none => { s with accs := AMap.put s.accs id { a with stage := .sent } }.after (ceilDiv l 2) .perform [id]

/-- Rising offsets as runs: first offset and length. -/
def runsOf : List Nat → List (Nat × Nat)
  | [] => []
  | a :: r => match runsOf r with
    | (b, n) :: t => if b = a + 1 then (a, n + 1) :: t else (a, 1) :: (b, n) :: t
    | [] => [(a, 1)]

/-- The path of a source by its number in the write-combining buffer. -/
def pathOfSrc (n : Nat) : Path := if n < 64 then .fab else if n = 128 then .seq else .str

/-- The path of the first store that an entry of the write-combining buffer took. -/
def wcPath (e : WcEnt) : Path := pathOfSrc ((e.stores.head?.map (·.1)).getD 0)

/-- Whether one of the stores of a line has been issued before number n by a source and meets pieces (R260). -/
def storesMeet (l : List (Nat × Nat × Nat × Nat)) (ps : List Piece) (f : Nat → Nat → Bool) : Bool :=
  l.any fun x => f x.1 x.2.1 && ps.any fun p => decide (p.addr < x.2.2.1 + x.2.2.2) && decide (x.2.2.1 < p.addr + p.len)

/-- The write-combining buffer entry of a core leaves it (R265): one write for each covered sector, as stores that go their way. -/
def drainLine (s : State) (c : Nat) (e : WcEnt) : State :=
  let s := s.modCore c fun k => { k with wc := k.wc.filter fun x => x.line != e.line }
  let path := wcPath e
  (List.range 4).foldl (fun s i =>
    let offs := (List.range 32).filter fun j => e.mask.getLsbD (32 * i + j)
    if offs.isEmpty then s else
    let (id, s) := s.fresh
    let pieces : List Piece := (runsOf offs).map fun r => ⟨e.line * 128 + 32 * i + r.1, r.2, r.1⟩
    routeAccess s id
      { core := c, src := .chan 16 0, path := path, kind := .drain, acq := false, rel := false, scope := 0
        dom := e.doms.foldl (fun m d => m ||| 2 ^ d) 0, hint := 2, own := none, space := .phys, todo := pieces
        data := (e.bytes.drop (32 * i)).take 32, got := [], tok := none, outs := [], wait := 0, stage := .sent, order := id, epoch := 0
        vas := [], home := none, merged := e.stores.filter fun x => x.2.2.1 / 32 ≤ e.line * 4 + i && e.line * 4 + i ≤ (x.2.2.1 + x.2.2.2 - 1) / 32 }) s

/-- Every entry of a core's buffer that a test takes drains. -/
def drainAll (s : State) (c : Nat) (f : WcEnt → Bool) : State :=
  ((s.core c).wc.filter f).foldl (fun s e => drainLine s c e) s

/-- The oldest entries of a core's buffer drain until it holds no more than 32 (R265). -/
def drainOver (s : State) (c : Nat) : State :=
  ((s.core c).wc.take ((s.core c).wc.length - 32)).foldl (fun s e => drainLine s c e) s

/-- Sends an access whose addresses are settled: into the write-combining buffer when it combines (R265), after the drain of an entry that an
earlier access of its source waits for (R260), else on its way. -/
def sendAccess (s : State) (id : Nat) (a : Access) : State :=
  if a.combines s then
    let lines := a.todo.foldl (fun (l : List Nat) p => if l.contains (p.addr / 128) then l else l ++ [p.addr / 128]) []
    let s := drainAll s a.core fun e => lines.contains e.line && s.accs.any fun p => p.2.core == a.core && p.2.kind != .drain &&
      decide (p.2.order < a.order) && p.2.stage != .performed && storesMeet e.stores p.2.todo fun src _ => src == p.2.srcNum
    let s := s.modCore a.core fun k => a.todo.foldl (fun k p =>
      wcMerge k s.now a.dom a.srcNum a.order p.addr ((a.data.drop p.at_).take p.len)) k
    let s := drainOver (lines.foldl (fun s n => s.after 256 .wcDrain [a.core, n, s.now]) s) a.core
    { s with accs := AMap.put s.accs id { a with stage := .performed, todo := [] } }.after 1 .accessResponse [id]
  else routeAccess s id a

/-- Translates every piece of a virtual access (R399, R400). -/
def transPieces (s : State) (c ctx : Nat) (acc : Acc) : List Piece → Except (Nat × (Nat × Nat)) (List (Piece × Trans) × Nat)
  | [] => .ok ([], 0)
  | p :: ps =>
    match translate s c ctx p.addr acc with
    | .error e => .error (p.addr, e)
    | .ok (t, n) =>
      match transPieces s c ctx acc ps with
      | .error e => .error e
      | .ok (r, m) => .ok (({ p with addr := t.pa }, t) :: r, max n m)

/-- The context a core's accesses belong to. -/
def State.ctxOf (s : State) (c : Nat) : Nat := ((s.launchOf c).map fun l => l.2.ctx).getD 0

/-- The slot of a Banker-managed window that caches the page of an address (R410). -/
def BkWindow.slotOf (w : BkWindow) (va : Nat) : Option Nat :=
  (List.find? (fun p => p.2.1 == va / 65536 * 65536) w.slots).map (·.1)

/-- The offset in the group window at which a core's group finds the page of an address by its leaf, where the Banker-managed window of the
group holds it (R402, R410). -/
def residentAt (s : State) (c va leaf : Nat) : Option Nat :=
  match (s.launchOf c).bind (·.2.window) with
  | none => none
  | some w => if fld leaf 61 59 = 4 then (w.slotOf va).map fun i => (w.off + i) * 65536 + va % 65536 else none

/-- The pieces of a read whose pages all lie in the Banker-managed window of its own group, as window offsets (R402, R410). -/
def redirected (s : State) (a : Access) (leaves : List Nat) : Option (List Piece) :=
  let to_ := (a.todo.zip leaves).filterMap fun p => (residentAt s a.core p.1.addr p.2).map fun o => { p.1 with addr := o }
  if to_.length == a.todo.length && !to_.isEmpty && a.kind.acc == .read then some to_ else none

/-- The pieces of a read of which some pages lie in that window: these at the place of their bytes there, the others in memory (R410). -/
def partRedirected (s : State) (a : Access) (r : List (Piece × Trans)) : List Piece :=
  if a.kind.acc != .read then r.map (·.1) else
  (r.zip a.todo).map fun p => match residentAt s a.core p.2.addr p.1.2.leaf, s.launchOf a.core with
    | some o, some (_, l) => { p.1.1 with addr := winAddr l o }
    | _, _ => p.1.1

/-- Ends the translation of an access: its pieces become physical, or it stalls (R191, R401, R402). A page being
migrated holds the access back without a record. -/
def settleAccess (s : State) (id : Nat) (a : Access) : State :=
  let ctx := s.ctxOf a.core
  match transPieces s a.core ctx a.kind.acc a.todo with
  | .error (va, e) =>
    let s := if (s.core a.core).tlb.any (·.hit ctx va) || (s.die (dieOf a.core)).tlb.any (·.hit ctx va) then s
      else touchWalk s (classOf a.path) (walkPath s.mem va e.1 1 (s.ctx ctx).root)
    if a.kind = .prft then { s with accs := AMap.del s.accs id }
    else stallAccess s id a ctx va (a.kind.acc != .read) e
  | .ok (r, _) =>
    if r.any fun p => fld p.2.leaf 61 59 == 5 then s.after 64 .pageWalk [id] else
    let s := (r.zip a.todo).foldl (fun s p => useTlb s (classOf a.path) a.core ctx p.2.addr p.1.2) s
    match redirected s a (r.map (·.2.leaf)) with
    | some l => sendAccess s id { a with space := .window, vas := a.todo, todo := l }
    | none => sendAccess s id { a with space := .phys, vas := a.todo, todo := partRedirected s a r }

/-- Whether the TLBs of core c hold a context's page of an address (R400). -/
def inTlbs (s : State) (c ctx va : Nat) : Bool :=
  (s.core c).tlb.any (·.hit ctx va) || (s.die (dieOf c)).tlb.any (·.hit ctx va)

/-- The cycles a walk of n cycles takes on core c's die, and the walk kept (R400): it joins the one in progress for its page, takes a
free one of the 128 walkers, or waits for the first that is free, in order of arrival. -/
def walkTime (s : State) (c ctx va n : Nat) : Nat × State :=
  let ws := (s.die (dieOf c)).walks.filter fun w => decide (s.now < w.2.2)
  match ws.find? fun w => w.1 == ctx && w.2.1 == va / 65536 with
  | some w => (w.2.2 - s.now, s)
  | none =>
    let later := (ws.map (·.2.2)).mergeSort (fun a b => decide (b ≤ a))
    let start := if ws.length < 128 then s.now else later.getD 127 s.now
    (start - s.now + n, s.modDie (dieOf c) fun k => { k with walks := ws ++ [(ctx, va / 65536, start + n)] })

/-- An access translates n cycles from now, or waits for the walks that its pages' misses need. -/
def walkPieces (s : State) (id : Nat) (a : Access) (n : Nat) : State :=
  let ctx := s.ctxOf a.core
  match a.todo.find? fun p => !inTlbs s a.core ctx p.addr with
  | some p =>
    let (t, s) := walkTime s a.core ctx p.addr n
    s.after t .pageWalk [id]
  | none => s.after n .pageWalk [id]

/-- Issues an access (R495): a virtual one is translated first, in the time R400 adds. A release at .sys first drains the stores of its
domain that the write-combining buffer holds (R186, R265). -/
def issueAccess (s : State) (a : Access) : State :=
  let s := if a.rel && a.scope == 5 then drainAll s a.core (·.doms.contains a.dom) else s
  let (id, s) := s.fresh
  let a := { a with order := id, offset := a.programAt (s.core a.core) }
  let s := { s with accs := AMap.put s.accs id a }
  if a.space = .virt then
    match transPieces s a.core (s.ctxOf a.core) a.kind.acc a.todo with
    | .ok (_, 0) => settleAccess s id a
    | .ok (_, n) => walkPieces s id a n
    | .error (va, e) =>
      let n := missTime s a.core (s.ctxOf a.core) va e.1
      if n = 0 then settleAccess s id a else walkPieces s id a n
  else sendAccess s id a

/-- Whether two accesses come from one source (R260): one PE's memory port, one channel, one sequencer. -/
def sameSrc (a b : Access) : Bool :=
  a.core == b.core && a.path == b.path && (match a.src, b.src with
    | .node _ p _, .node _ q _ => p == q
    | .seq _, .seq _ => true
    | .chan x _, .chan y _ => x == y
    | _, _ => false)

/-- Whether two lists of pieces overlap. -/
def piecesMeet (l m : List Piece) : Bool := l.any fun p => m.any fun q => decide (p.addr < q.addr + q.len) && decide (q.addr < p.addr + p.len)

/-- Whether the pieces of two accesses overlap: where they perform, or, while the first has still to translate, in virtual space. -/
def overlap (a b : Access) : Bool :=
  (a.space == b.space && piecesMeet a.todo b.todo) || (a.space == .virt && b.space != .virt && piecesMeet a.todo b.vas)

/-- Whether access b must wait for access a, issued earlier by the same core (R186, R260, R265): a release for every earlier
access of its path and domain, and at .sys for the drains of its domain; everything for an earlier acquire; overlapping accesses of one
source, the writes of a copy in turn (R203). A drain counts as issued when its stores were: what overlaps an earlier store of its source
waits for it, and it waits for what its stores' sources issued before them to its bytes and for every acquire of its core before them. -/
def mustFollow (a b : Access) : Bool :=
  a.core == b.core && a.stage != .performed && a.stage != .faulted && a.kind != .null && a.kind != .prft && b.kind != .null && a.path != .mxe && a.path != .row && a.path != .lnk && a.path != .bnk &&
    (if a.kind == .drain then
      if b.kind == .drain then decide (a.order < b.order) && overlap a b
      else storesMeet a.merged (b.todo ++ b.vas) (fun src n => src == b.srcNum && decide (n < b.order))
        || (b.rel && b.scope == 5 && bitAt a.dom b.dom && a.merged.any fun x => decide (x.2.1 < b.order))
     else if b.kind == .drain then
      (a.acq && b.merged.any fun x => decide (a.order < x.2.1) && pathOfSrc x.1 == a.path)
        || storesMeet b.merged a.todo (fun src n => src == a.srcNum && decide (a.order < n))
     else decide (a.order < b.order) && ((a.path == b.path && a.dom == b.dom && (b.rel || a.acq)) || (sameSrc a b && (overlap a b || (a.inTurn && b.inTurn)))))

/-- The reads and writes that a core's engines have under way on the named paths, under numbers of their own (R189): the selected
k-step's operands until they are read, what the frame queue's entry in service reads or writes, the row that a combine is writing or a
CMBADD adds, the header that a dispatch is reading, and a collective's images. -/
def unitAccesses (k : Core) (now : Nat) (paths : List Path) : List Nat :=
  let mxe := (match k.mx.sel with
    | some x => if x.fetched then [] else [2 ^ 64 + x.tokId * 256 + x.s]
    | none => []) ++ (if now < k.mx.fqBusy then [5 * 2 ^ 64 + k.mx.fqBusy] else [])
  let cmb := match k.rows.cmb with
    | some x => if x.writing.isSome then [2 * 2 ^ 64 + x.next] else []
    | none => []
  let cmb := cmb ++ (k.waits.filter (·.op == 0xA6)).map fun w => 6 * 2 ^ 64 + w.id
  let disp := (k.rows.disp.filter (·.begun)).map fun j => 3 * 2 ^ 64 + ((j.a.tag.ctag ++ j.a.tag.itag).toNat * 4 + j.cctx) * 4096 + j.pe * 64 + j.slot
  let lnk := k.colls.filterMap fun p => if p.2.phase = 1 ∨ p.2.phase = 2 then some (4 * 2 ^ 64 + p.2.count.toNat * 256 + p.1) else none
  (if paths.contains .mxe then mxe else []) ++ (if paths.contains .row then cmb ++ disp else []) ++ (if paths.contains .lnk then lnk else [])

/-- What an ordering operation of core c waits for at a scope: outstanding accesses on the named paths, drained stores at .sys alone, and
what its engines have under way (R188, R189, R265). -/
def outstanding (s : State) (c : Nat) (paths : List Path) (scope : Nat) : List Nat :=
  (s.accs.filter fun p => p.2.core == c && p.2.stage != .performed && p.2.kind != .prft &&
    (if p.2.kind = .drain then scope == 5 else paths.contains p.2.path)).map (·.1) ++ unitAccesses (s.core c) s.now paths

/-- The NT and WC stores that core c has issued on the named paths and that have not performed, in its write-combining buffer or on their way
from it, each under its order's number from 2^68 on (R189, R265). -/
def bufferedStores (s : State) (c : Nat) (paths : List Path) : List Nat :=
  let nums := fun (l : List (Nat × Nat × Nat × Nat)) => (l.filter fun x => paths.contains (pathOfSrc x.1)).map fun x => 2 ^ 68 + x.2.1
  (s.core c).wc.flatMap (fun e => nums e.stores)
    ++ (s.accs.filter fun p => p.2.core == c && p.2.kind == .drain && p.2.stage != .performed).flatMap fun p => nums p.2.merged

/-- Whether nothing that core c waits for is still to perform. -/
def allPerformed (s : State) (c : Nat) (ids : List Nat) : Bool :=
  ids.all fun i =>
    if 2 ^ 68 ≤ i then !(bufferedStores s c [.fab, .str, .seq]).contains i
    else if 2 ^ 64 ≤ i then !(unitAccesses (s.core c) s.now [.mxe, .row, .lnk]).contains i
    else match AMap.find? s.accs i with | none => true | some a => a.stage == .performed

/-- The paths of a path mask (R189). -/
def pathsOf (m : Nat) : List Path :=
  [Path.fab, .str, .mxe, .row, .lnk, .bnk, .seq].zip (List.range 7) |>.filterMap fun p => if bitAt m p.2 then some p.1 else none

/-- Cores in ascending order, with one more. -/
def insertNat (c : Nat) : List Nat → List Nat
  | [] => [c]
  | d :: r => if c ≤ d then c :: d :: r else d :: insertNat c r

/-- An acquire at .pkg or .sys by core c (R245): the die's far-cache epoch advances, for the cores that acquire in a cycle in ascending
order and before the fills issued in it; its wrap drops every far-cache line. -/
def acquireFar (s : State) (c : Nat) : State :=
  let d := dieOf c
  let k := s.die d
  let old := if k.acquires.1 = s.now then k.acquires.2 else []
  let cs := insertNat c old
  let base := k.ae - old.length
  if 2 ^ 32 ≤ k.ae + 1 then
    let s := s.modDie d fun k => { k with ae := 0, far := [], acquires := (s.now, []) }
    { s with cores := s.cores.map fun p => if dieOf p.1 = d then (p.1, { p.2 with acq := 0 }) else p }
  else
    let s := s.modDie d fun k => { k with ae := k.ae + 1, acquires := (s.now, cs) }
    let s := { s with accs := s.accs.map fun p => if dieOf p.2.core = d ∧ (p.2.home.map (·.1)) = some s.now
      then (p.1, { p.2 with home := some (s.now, base + cs.length) }) else p }
    ((List.range cs.length).zip cs).foldl (fun s p => s.modCore p.2 fun k => { k with acq := base + p.1 + 1 }) s

/-- Whether a launch runs with snapshots on now (R289, R298). -/
def Launch.snapOn (l : Launch) (now : Nat) : Bool := (timed now 0 l.snapcfg).getLsbD 0

/-- Bytes read by a launch: those its interval store buffers hold, else memory's (R248, R272). -/
def readBuffered (s : State) (n pa len : Nat) : List Byte :=
  let es := s.dies.flatMap fun d => d.2.slices.flatMap fun x => x.2.stores.filter (·.launch == n)
  (List.range len).map fun i =>
    let a := pa + i
    match (es.filter fun e => e.sector == a / 32 && e.mask.getLsbD (a % 32)).reverse with
    | e :: _ => e.bytes.getD (a % 32) 0
    | [] => readByte s.mem a

/-- The path of a source of a write-combining entry, of those a path mask names (R189, R265). -/
def srcOnPaths (paths : List Path) (n : Nat) : Bool := paths.contains (pathOfSrc n)

/-- Requests a cut of launch n; one that runs already serves the request (R273, R290). -/
def askCut (s : State) (n : Nat) : State :=
  match AMap.find? s.launches n with
  | some l => if l.state = .cutting then s else s.after 0 .cut [n]
  | none => s

/-- The die whose slices hold a launch's interval store buffer entries of an address (R272). -/
def bufferDie (l : Launch) (pa : Nat) : Nat := if pa / 2 ^ 48 ≤ 1 then homeDie pa else l.die

/-- A store into the interval store buffers of its sectors' slices (R248, R272): a sector entry of the open interval, merged
by byte; a buffer that comes to 1,536 entries requests a cut. -/
def writeBuffered (s : State) (n : Nat) (l : Launch) (pa : Nat) (bs : List Byte) : State :=
  let put := fun (s : State) (p : Byte × Nat) =>
    let a := pa + p.2
    s.modSlice (bufferDie l a) (sliceOf a) fun sl =>
      if sl.stores.any fun e => e.launch == n && e.interval == l.interval && e.sector == a / 32 then
        { sl with stores := sl.stores.map fun e =>
          if e.launch == n && e.interval == l.interval && e.sector == a / 32 then
            { e with mask := e.mask ||| BitVec.ofNat 32 (2 ^ (a % 32)), bytes := e.bytes.set (a % 32) p.1 } else e }
      else { sl with stores := sl.stores ++
        [⟨n, l.interval, a / 32, BitVec.ofNat 32 (2 ^ (a % 32)), (List.replicate 32 0).set (a % 32) p.1⟩] }
  let t := (bs.zip (List.range bs.length)).foldl put s
  let full := fun (s : State) (x : Nat) => decide (1536 ≤ (s.slice (bufferDie l x) (sliceOf x)).stores.length)
  if (cutAt 128 (bs.length / 128 + 2) pa bs.length).any fun p => !full s p.1 && full t p.1 then askCut t n else t

/-- The new value of an atomic by its node opcode; none where nothing is written (R185). -/
def atomicNew (op : Nat) (old v new : Word) : Option Word :=
  match op with
  | 0x76 => some (old + v)
  | 0x77 => some (word (roundOnce 7 0 false 0 (arith 0 0 (f32 old) (f32 v) .nan)))
  | 0x78 => some (if old.toInt ≤ v.toInt then old else v)
  | 0x79 => some (if old.toInt ≤ v.toInt then v else old)
  | 0x7A => some (if old.toNat ≤ v.toNat then old else v)
  | 0x7B => some (if old.toNat ≤ v.toNat then v else old)
  | 0x7C => some (old &&& v)
  | 0x7D => some (old ||| v)
  | 0x7E => some (old ^^^ v)
  | 0x7F => some v
  | _ => if old = v then some new else none

/-- What one event of an access writes, given the bytes it reads there (R183, R185, R352). -/
def eventWrite (a : Access) (p : Piece) (old : List Byte) : Option (List Byte) :=
  match a.kind with
  | .store | .drain => some ((a.data.drop p.at_).take p.len)
  | .atomic op =>
    (atomicNew op (word (ofBytes old)) (word (ofBytes (a.data.take 4))) (word (ofBytes ((a.data.drop 4).take 4)))).map
      fun w => toBytes 4 w.toNat
  | .add64 => some (toBytes 8 ((ofBytes old + ofBytes (a.data.take 8)) % 2 ^ 64))
  | .cas64 e => if ofBytes old = e.toNat then some (a.data.take 8) else none
  | _ => none

/-- Where a piece's bytes lie in memory. -/
def pieceAddr (s : State) (a : Access) (p : Piece) : Nat :=
  match a.space with
  | .scratch c => scratchAddr c p.addr
  | .window => match s.launchOf a.core with | some (_, l) => winAddr l p.addr | none => p.addr
  | _ => p.addr

/-- Queues a Banker move (R408): a full queue drops it; an idle Banker starts it in the next cycle. -/
def queueMove (s : State) (d : Nat) (m : BkMove) : State :=
  let k := s.die d
  if 64 ≤ k.bkq.length then s else
  let s := s.modDie d fun k => { k with bkq := k.bkq ++ [m] }
  if k.bkq.isEmpty && k.bkrun.isNone then wakeBanker s d else s

/-- Whether a page lies in the range of a Banker-managed window of a group on die d (R410). -/
def windowed (s : State) (d ctx va : Nat) : Bool :=
  s.launches.any fun p => p.2.die == d && p.2.ctx == ctx && p.2.gstate != .released && (match p.2.window with
    | some w => decide (w.va ≤ va) && decide (va < w.va + w.nvp * 65536)
    | none => false)

/-- The move a page's counter asks for when it grows from n to m, by the leaf's state (R408): thresholds of 0 never. -/
def bankerAsks (s : State) (d ctx va leafPa n m : Nat) : State :=
  let k := s.die d
  let e := s.phys64 leafPa
  let st := fld e 61 59
  let hit := fun (t : Nat) => t != 0 && decide (n < t) && decide (t ≤ m)
  let ctl := k.bkctl.toNat
  let s := if st = 0 ∧ hit (fld ctl 15 0) then queueMove s d ⟨0, ctx, va, leafPa⟩ else s
  let s := if st = 1 ∧ hit (fld ctl 31 16) then queueMove s d ⟨1, ctx, va, leafPa⟩ else s
  if (st = 1 ∨ st = 2) ∧ !bitAt e 58 ∧ hit (fld ctl 47 32) ∧ windowed s d ctx va then queueMove s d ⟨2, ctx, va, leafPa⟩ else s

/-- The Banker count of a page after n more accesses (R407): its own entry, a free one, or that of the lowest count below
2, in a table of 8,192. -/
def countPage (s : State) (d ctx va n leafPa : Nat) : State :=
  let k := s.die d
  if !k.bkctl.msb then s else
  match k.bkcnt.find? fun e => e.ctx == ctx && e.va == va with
  | some x =>
    let s := s.modDie d fun k => { k with bkcnt := k.bkcnt.map fun e =>
      if e.ctx == ctx && e.va == va then { e with n := min 65535 (e.n + n) } else e }
    bankerAsks s d ctx va leafPa x.n (min 65535 (x.n + n))
  | none =>
    let e : BkCnt := ⟨ctx, va, leafPa, min 65535 n⟩
    if k.bkcnt.contains BkCnt.free then
      bankerAsks (s.modDie d fun k => { k with bkcnt := k.bkcnt.replace BkCnt.free e }) d ctx va leafPa 0 e.n
    else if k.bkcnt.length < 8192 then bankerAsks (s.modDie d fun k => { k with bkcnt := k.bkcnt ++ [e] }) d ctx va leafPa 0 e.n
    else match leastBy (fun (a b : BkCnt) => a.n < b.n) k.bkcnt with
      | some m => if m.n < 2 then
          bankerAsks (s.modDie d fun k => { k with bkcnt := k.bkcnt.replace m e }) d ctx va leafPa 0 e.n
        else s
      | none => s

/-- One access that reaches a memory controller counts for the page that maps its frame, when BM permits (R407): the
page is the one a TLB of the requesting die holds for it (log 12). -/
def countFrame (s : State) (d pa : Nat) : State :=
  match (s.die d).tlb.find? fun t =>
    let z := 16 + 10 * (4 - t.level)
    t.leaf.getLsbD 56 && fld t.leaf.toNat 51 13 * 2 ^ 13 / 2 ^ z == pa / 2 ^ z with
  | some t =>
    let z := 16 + 10 * (4 - t.level)
    countPage s d t.ctx ((t.va * 2 ^ z + pa % 2 ^ z) / 65536 * 65536) 1 t.leafPa
  | none => s

/-- The far cache with a line put in (R244): in its own way when it is there, else in the lowest invalid of its set's 16 ways, else in
that of the victim of R242. -/
def farPut (far : AMap FarLine) (f : FarLine) : AMap FarLine :=
  let key := fun (l : Nat) => l % 32 + 32 * (l / 32 % 512)
  match AMap.find? far f.line with
  | some x => AMap.put far f.line { f with way := x.way }
  | none =>
    let set := far.filter fun p => key p.1 == key f.line
    match (List.range 16).find? fun w => !set.any fun p => p.2.way == w with
    | some w => AMap.put far f.line { f with way := w }
    | none =>
      let mx := set.foldl (fun m p => max m p.2.rrpv) 0
      match leastBy (fun (a b : Nat × FarLine) => decide (a.2.way < b.2.way)) (set.filter fun p => p.2.rrpv == mx) with
      | some v =>
        AMap.put ((AMap.del far v.1).map fun p =>
          if key p.1 = key f.line then (p.1, { p.2 with rrpv := min 3 (p.2.rrpv + (3 - mx)) }) else p) f.line { f with way := v.2.way }
      | none => far

/-- The valid sectors of a line in a slice. -/
def validAt (sl : Slice) (line lent : Nat) : BitVec 4 :=
  match wayOf sl line lent with
  | some w => ((AMap.find? sl.ways (lineSet line * 16 + w)).map (·.valid)).getD 0
  | none => 0

/-- The slice cache after a read, a write or an atomic, which is both, of n bytes at an address by a path of die d (R241-R243), with the
Banker's counts of a fill, that of a sector which a store covers in part among them, and of a write-back (R407). -/
def touchLine (s : State) (d : Nat) (path : Path) (hint pa n : Nat) (read wrote : Bool) : State :=
  let h := homeDie pa
  let i := sliceOf pa
  let lent := lentWays s h i
  let line := pa / 128
  let old := s.slice h i
  let any := sectors pa n false
  let need := if read then any else any &&& ~~~(sectors pa n true)
  let hit := validAt old line lent &&& need == need
  let s := s.modSlice h i fun sl =>
    touch sl line lent (classOf path) hint (if read then any else 0) (if read then 15 else sectors pa n true) (if wrote then any else 0)
  let now := s.slice h i
  let out := old.ways.filter fun c => c.1 / 16 == lineSet line && c.2.dirty != 0 &&
    !(now.ways.any fun n => n.1 == c.1 && n.2.line == c.2.line)
  let s := out.foldl (fun s c => countFrame s d (c.2.line * 128)) s
  if hit then s else countFrame s d pa

/-- The slice cache after n bytes of a line are read, written or both, and the fill of the sectors that a store covers in part and the slice
lacks (R247). -/
def touchSlice (s : State) (d : Nat) (path : Path) (hint pa n : Nat) (read wrote : Bool) : State :=
  let h := homeDie pa
  let part := sectors pa n false &&& ~~~(sectors pa n true) &&& ~~~(validAt (s.slice h (sliceOf pa)) (pa / 128) (lentWays s h (sliceOf pa)))
  if allocWaits s pa then countFrame s d pa else
  let s := touchLine s d path hint pa n read wrote
  if wrote ∧ !read ∧ part ≠ 0 then s.after 110 .fillArrival [0, h, sliceOf pa, pa / 128, part.toNat] else s

/-- Whether an address is one that die d's far cache may hold (R238, R244). -/
def farHeld (d pa : Nat) : Bool := decide (pa / 2 ^ 48 ≤ 3) && homeDie pa != d

/-- The sectors that n bytes at an address lie in, as address and bytes. -/
def sectorRun (pa n : Nat) : Nat × Nat := (pa / 32 * 32, ceilDiv (pa % 32 + n) 32 * 32)

/-- A store of die d has performed at home: a copy of its line takes the stored sectors, as home holds them now, when the acknowledgement
returns in t cycles (R244, R257). -/
def copyFollows (s : State) (d pa n t : Nat) : State :=
  if farHeld d pa && (AMap.find? (s.die d).far (pa / 128)).isSome then
    let (a, m) := sectorRun pa n
    let (id, s) := s.fresh
    { s with agenda := insertDue (s.now + t) .fillArrival (.bytes [1, d, a, id] (readBytes s.mem a m)) s.agenda }
  else s

/-- Die d's far cache takes a line as home holds it now, its fill issued under an epoch (R245, R257). -/
def fillFar (s : State) (d pa hint ep : Nat) : State :=
  let line := pa / 128
  let (id, s) := s.fresh
  s.modDie d fun k =>
    { k with far := farPut k.far ⟨line, 0, readBytes s.mem (line * 128) 128, ep, if hint = 0 then 2 else 3, List.replicate 4 id⟩ }

/-- A far-cache copy of die d serves a read: it is hit (R242, R244). -/
def refreshFar (s : State) (d line : Nat) : State :=
  s.modDie d fun k => { k with far := match AMap.find? k.far line with
    | some f => AMap.put k.far line { f with rrpv := 0 }
    | none => k.far }

/-- The slice cache and far cache after one event of an access performs at a physical address (R240-R245): a read that went home fills
the copy, one that a copy served refreshes it. -/
def touchCaches (s : State) (a : Access) (p : Piece) (wrote : Bool) : State :=
  (cutAt 128 3 p.addr p.len).foldl one s
where
  /-- Its bytes in one line. -/
  one (s : State) (q : Nat × Nat) : State :=
    let d := dieOf a.core
    let served := a.home.isNone && farServes s a.core q.1
    let s := if 1 < q.1 / 2 ^ 48 ∨ served then s else touchSlice s d a.path a.hint q.1 q.2 (a.kind.acc != .write) wrote
    if 4 ≤ q.1 / 2 ^ 48 then s else
    let s := if 2 ≤ q.1 / 2 ^ 48 ∧ !served then countFrame s d q.1 else s
    if !farHeld d q.1 then s
    else if a.kind.isAtomic then s.modDie d fun k => { k with far := AMap.del k.far (q.1 / 128) }
    else if a.kind = .load ∨ a.kind = .prft then
      if served then refreshFar s d (q.1 / 128) else fillFar s d q.1 a.hint ((a.home.map (·.2)).getD (s.die d).ae)
    else copyFollows s d q.1 q.2 (a.wait / 2)

/-- The bytes one event reads (R255): a far-cache copy's, the interval store buffers' and memory's, or memory's; home's once the access has
forced its cut (R272). -/
def eventRead (s : State) (a : Access) (p : Piece) : List Byte :=
  match a.space with
  | .phys =>
    match s.launchOf a.core with
    | none => readBytes s.mem p.addr p.len
    | some (n, l) =>
      if l.snapOn s.now && a.epoch == 0 && decide (p.addr < 2 ^ 50) then readBuffered s n p.addr p.len
      else if a.home.isNone && farServes s a.core p.addr && a.kind == .load then
        match farHit s a.core p.addr with
        | some f => (f.bytes.drop (p.addr % 128)).take p.len
        | none => readBytes s.mem p.addr p.len
      else readBytes s.mem p.addr p.len
  | _ => readBytes s.mem (pieceAddr s a p) p.len

/-! ## Links -/

/-- Whether a port carries traffic: UP, or RETRAINING with its peer kept (R454, R455). -/
def portLive (s : State) (p : Nat) : Bool :=
  match AMap.find? s.ports p with
  | some k => k.state == .up || k.state == .retraining
  | none => false

/-- Whether package p can be reached: a valid route with a live port (R455). -/
def reachable (s : State) (p : Nat) : Bool :=
  let e := (AMap.get s.routes p 0).toNat
  bitAt e 63 && decide (fld e 62 60 ≤ 4) && (List.range (fld e 62 60)).any fun i => portLive s (fld e (4 * i + 3) (4 * i))

/-- The port of a route entry that a source and a destination name (R455): P[(S XOR D) mod NP]; P0 where the entry has none. -/
def routeSlot (e src dst : Nat) : Nat :=
  let j := if fld e 62 60 = 0 then 0 else (src ^^^ dst) % fld e 62 60
  fld e (4 * j + 3) (4 * j)

/-- The LINK_DOWN record of a discarded message of core c to destination dst of a package (R454, R455), in the launch of the core. -/
def linkDown (s : State) (c pkg dst : Nat) : State :=
  s.note { cause := 14, origin := 11, core := c, detail := routeSlot (AMap.get s.routes pkg 0).toNat c dst + pkg % 256 * 256 }

/-- A message framed into flits that wait for a port of its route (R452, R455). -/
def sendLink (s : State) (dpkg src dst vc bin : Nat) (about : List Nat) (bs : List Byte) : State :=
  let n := max 1 (ceilDiv bs.length 240)
  let flit := fun (i : Nat) =>
    let b := (bs.drop (240 * i)).take 240
    let last := decide (i + 1 = n)
    (⟨0, 0, 0, true, s.topo.pkg.toNat, dpkg, 0, vc, last, b ++ List.replicate (240 - b.length) 0, src, dst, bin, if last then about else [], 0, i⟩ : Flit)
  { s with outbox := s.outbox ++ (List.range n).map flit }

/-! ## A unit's own reads and writes (MXE, ROW and LNK paths), each made in one step (log 15) -/

/-- Where a unit's bytes lie: stretches of memory addresses, a page that does not translate, or the cause of a fault. -/
inductive Reach where
  | ok (l : List (Nat × Nat))
  | miss
  /-- not now: ways that are changing hands (R246), or an interval store buffer that is full (R248) -/
  | wait
  | bad (cause : Nat)
  deriving DecidableEq, Repr

/-- Whether an SLWAYS of a launch has been issued and does not apply yet (R246). -/
def waysPending (s : State) (n : Nat) : Bool := s.ops.any fun p => p.2.op == 0x43 && p.2.launch == n

/-- Whether the interval store buffers lack the entries that a launch's write of stretches of memory needs (R248). -/
def noRoom (s : State) (n : Nat) (l : Launch) (ps : List (Nat × Nat)) : Bool :=
  let buffer := fun (x : Nat) => (s.slice (bufferDie l x) (sliceOf x)).stores
  let secs := ps.flatMap fun p => (cutAt 32 (p.2 / 32 + 2) p.1 p.2).map fun q => q.1 / 32 * 32
  let new := secs.filter fun x => !((buffer x).any fun e => e.launch == n && e.interval == l.interval && e.sector == x / 32)
  let same := fun (x y : Nat) => bufferDie l x == bufferDie l y && sliceOf x == sliceOf y
  l.snapOn s.now && new.any fun x => decide (2048 < (buffer x).length + (new.filter (same x)).length)

/-- Whether poison meets n bytes that core c reads (R292): not where its region's interval store buffers hold the whole sector. -/
def poisonMet (s : State) (c pa n : Nat) : Bool :=
  s.poison.any fun x => decide (x < pa + n) && decide (pa < x + 32) && !(match s.launchOf c with
    | some (m, l) => l.snapOn s.now && (s.slice (bufferDie l x) (sliceOf x)).stores.any fun e =>
        e.launch == m && e.sector == x / 32 && e.mask == BitVec.allOnes 32
    | none => false)

/-- What a unit of core c has read of n bytes of a register block or a peer, whose answer has come: it is under source 18 until the unit
takes it, then under 19 until the unit's next read. -/
def arrivedBytes (s : State) (c pa n : Nat) (taken : Bool) : Option (List Byte) :=
  s.accs.findSome? fun p =>
    if p.2.core = c ∧ (p.2.src = .chan 18 0 ∨ (taken ∧ p.2.src = .chan 19 0)) then
      (p.2.vas.find? fun v => decide (v.addr ≤ pa) && decide (pa + n ≤ v.addr + v.len)).map fun v =>
        (p.2.got.drop (v.at_ + (pa - v.addr))).take n
    else none

/-- Where n bytes of one page lie for a unit, behind stretches already found (R238, R239, R246, R248, R251, R292, R402, R410): what lies in a
register block or at a peer is read by accesses of the unit's path before. -/
def reachLeaf (s : State) (c : Nat) (wr : Bool) (l : List (Nat × Nat)) (va n : Nat) (t : Trans) : Reach :=
  if fld t.leaf 61 59 = 5 then .wait else
  match (if wr then none else residentAt s c va t.leaf), s.launchOf c with
  | some o, some (_, x) => .ok (l ++ (cutAt 128 (n / 128 + 2) o n).map fun p => (winAddr x p.1, p.2))
  | _, run =>
    if 6 * 2 ^ 48 ≤ t.pa ∨ (t.pa < 2 ^ 50 ∧ (memRegion s t.pa).isNone) then .bad 7
    else if 2 ^ 50 ≤ t.pa then (if wr ∨ (arrivedBytes s c t.pa n false).isSome then .ok (l ++ [(t.pa, n)]) else .miss)
    else if !wr && poisonMet s c t.pa n then .bad 10
    else if (cutAt 128 (n / 128 + 2) t.pa n).any (fun p => allocWaits s p.1 || bankHeld s p.1)
        || (wr && match run with | some (m, x) => noRoom s m x (l ++ [(t.pa, n)]) | none => false) then .wait
    else .ok (l ++ [(t.pa, n)])

/-- Whether an operation is a PQPOP or a DQSTEAL of core c that has not its answer (R326, R327). -/
def poppedBy (s : State) (c : Nat) (p : Nat × UnitOp) : Bool :=
  p.2.core == c && [0x3A, 0x3D, 0x13A, 0x13D].contains p.2.op && some p.2.launch == (s.core c).launch

/-- Whether core c's units may not access memory yet, as an acquire of its sequencer, a PQPOP or a DQSTEAL, has not its answer (R326, R327). -/
def popWaits (s : State) (c : Nat) : Bool := s.ops.any (poppedBy s c)

/-- Where n bytes at an address of a space lie (R236-R239, R399). -/
def reach (s : State) (c : Nat) (sp : Space) (a n : Nat) (wr : Bool) : Reach :=
  if popWaits s c then .wait else
  match sp with
  | .scratch k => .ok [(scratchAddr k a, n)]
  | .window =>
    match s.launchOf c with
    | some (id, l) => if waysPending s id then .wait else .ok ((cutAt 128 (n / 128 + 2) a n).map fun p => (winAddr l p.1, p.2))
    | none => .bad 6
  | .phys => .ok [(a, n)]
  | .virt =>
    (cutAt 65536 (n / 65536 + 2) a n).foldl (fun r p =>
      match r with
      | .ok l =>
        match s.walk (s.ctxOf c) p.1 (if wr then .write else .read) with
        | .error _ => .miss
        | .ok t => reachLeaf s c wr l p.1 p.2 t
      | r => r) (.ok [])

/-- Whether core c runs a snapshot region (R272). -/
def inRegion (s : State) (c : Nat) : Bool := match s.launchOf c with | some (_, x) => x.snapOn s.now | none => false

/-- Whether an address is one of a register block or a peer window. -/
def outside (pa : Nat) : Bool := pa / 2 ^ 48 == 4 || pa / 2 ^ 48 == 5

/-- What the caches see of a unit's bytes on a path of core c (R241-R245, R257): each line of HBM as a read or write of the path, and
far-cache copies of lines homed elsewhere, which serve a read or are filled by it, and follow a write; what has come from outside is taken. -/
def touchUnit (s : State) (c : Nat) (path : Path) (l : List (Nat × Nat)) (wrote : Bool) : State :=
  (l.flatMap fun p => if p.1 < 2 ^ 50 then cutAt 128 (p.2 / 128 + 2) p.1 p.2 else []).foldl one
    (if wrote ∨ !(l.any fun p => outside p.1) then s else taken s)
where
  /-- The bytes of one line. -/
  one (s : State) (p : Nat × Nat) : State :=
    let d := dieOf c
    if inRegion s c ∧ wrote then s
    else if !wrote ∧ !inRegion s c ∧ farServes s c p.1 then refreshFar s d (p.1 / 128)
    else
      let s := if p.1 / 2 ^ 48 ≤ 1 then touchSlice s d path 0 p.1 p.2 (!wrote) wrote else countFrame s d p.1
      if !farHeld d p.1 then s
      else if wrote then copyFollows s d p.1 p.2 (levelPhys s c p.1 0 false true / 2)
      else if inRegion s c then s else fillFar s d p.1 0 (s.die d).ae
  /-- Answers that the unit takes, and those it took before. -/
  taken (s : State) : State :=
    { s with accs := (s.accs.filter fun p => !(p.2.core == c && p.2.src == .chan 19 0)).map fun p =>
        if p.2.core = c ∧ p.2.src = .chan 18 0 ∧ p.2.vas.any (fun v => l.any fun x => decide (v.addr ≤ x.1) && decide (x.1 < v.addr + v.len))
        then (p.1, { p.2 with src := .chan 19 0 }) else p }

/-- Bytes of stretches of memory, through the interval store buffers of a snapshot region (R272) or from the copies of the far cache that
serve the core (R244). -/
def takeBytes (s : State) (c : Nat) (l : List (Nat × Nat)) : List Byte :=
  l.flatMap fun p =>
    if outside p.1 then (arrivedBytes s c p.1 p.2 true).getD []
    else if 2 ^ 50 ≤ p.1 then readBytes s.mem p.1 p.2
    else match s.launchOf c with
      | some (n, x) => if x.snapOn s.now then readBuffered s n p.1 p.2 else copied p
      | none => copied p
where
  /-- Line by line, a copy's bytes or memory's. -/
  copied (p : Nat × Nat) : List Byte :=
    if homeDie p.1 = dieOf c ∧ p.1 / 65536 = (p.1 + p.2 - 1) / 65536 ∧ p.1 < 2 ^ 49 then readBytes s.mem p.1 p.2 else
    (cutAt 128 (p.2 / 128 + 2) p.1 p.2).flatMap fun q =>
      match (if homeDie q.1 != dieOf c then farHit s c q.1 else none) with
      | some f => (f.bytes.drop (q.1 % 128)).take q.2
      | none => readBytes s.mem q.1 q.2

/-- A unit's write to a register block or a peer goes as a store of its path (R238). -/
def sendOutside (s : State) (c : Nat) (path : Path) (pa : Nat) (bs : List Byte) : State :=
  issueAccess s
    { core := c, src := .chan 17 0, path := path, kind := .store, acq := false, rel := false, scope := 0, dom := 0, hint := 0, own := none, space := .phys
      todo := split (bs.length + 1) pa bs.length 0, data := bs, got := [], tok := none, outs := [], wait := 0, stage := .sent, order := 0, epoch := 0
      vas := [], home := none }

/-- Bytes written to stretches of memory by a path of core c, likewise, with what the caches see of them. -/
def giveBytes (s : State) (c : Nat) (path : Path) : List (Nat × Nat) → List Byte → State
  | [], _ => s
  | p :: r, bs =>
    let s :=
      if outside p.1 then sendOutside s c path p.1 (bs.take p.2)
      else
        let t := match s.launchOf c with
          | some (n, x) => if x.snapOn s.now && decide (p.1 < 2 ^ 50) then writeBuffered s n x p.1 (bs.take p.2) else s.putPhys p.1 (bs.take p.2)
          | none => s.putPhys p.1 (bs.take p.2)
        touchUnit t c path [p] true
    giveBytes s c path r (bs.drop p.2)

/-- Asks for the pages of a range, so that a failed translation is recorded and answered as any other (R191, R401). -/
def probe (s : State) (c : Nat) (src : Src) (path : Path) (wr : Bool) (a n : Nat) : State :=
  issueAccess s
    { core := c, src := src, path := path, kind := .probe wr, acq := false, rel := false, scope := 0, dom := 0, hint := 0, own := none, space := .virt, todo := (cutAt 65536 (n / 65536 + 2) a n).map (fun p => (⟨p.1, p.2, 0⟩ : Piece)), data := [], got := [], tok := none, outs := [], wait := 0, stage := .sent, order := 0, epoch := 0, vas := [], home := none }

/-- Whether what core c's sequencer reads or writes in one step, n bytes at an address of a space that lie at l, must follow accesses it issued
earlier (R260). -/
def seqBehind (s : State) (c : Nat) (sp : Space) (a n : Nat) (l : List (Nat × Nat)) : Bool :=
  let x : Access :=
    { core := c, src := .seq 64, path := .seq, kind := .load, acq := false, rel := false, scope := 0, dom := 0, hint := 0, own := none, space := if sp = .virt then .phys else sp, todo := if sp = .virt then l.map (fun p => (⟨p.1, p.2, 0⟩ : Piece)) else [⟨a, n, 0⟩], data := [], got := [], tok := none, outs := [], wait := 0, stage := .sent, order := 2 ^ 64, epoch := 0, vas := [⟨a, n, 0⟩], home := none }
  s.accs.any fun p => mustFollow p.2 x

/-- Whether a unit's probe, or its read of what lies outside, is still outstanding. -/
def probing (s : State) (c : Nat) (path : Path) : Bool :=
  s.accs.any fun p => p.2.core == c && p.2.path == path && (match p.2.kind with | .probe _ => true | .load => p.2.src == .chan 17 0 | _ => false)

/-- A probe whose pages have translated is over, but for what it asks of register blocks and peers: it goes on as loads of these (R238). -/
def endProbe (s : State) (id : Nat) (a : Access) : State :=
  let out := a.todo.filter fun p => outside p.addr
  if a.kind != .probe false || out.isEmpty then { s with accs := AMap.del s.accs id } else
  let (todo, vas, _) := out.foldl (fun (r : List Piece × List Piece × Nat) p =>
    (r.1 ++ split (p.len + 1) p.addr p.len r.2.2, r.2.1 ++ [{ p with at_ := r.2.2 }], r.2.2 + p.len)) ([], [], 0)
  { s with accs := AMap.put s.accs id { a with kind := .load, src := .chan 17 0, todo := todo, vas := vas, stage := .sent } }.after 1 .perform [id]

/-- One event of an access takes effect at its memory node (R255): in the interval store buffer of a snapshot region,
but at home once the access has forced its cut (R272, R273, log 13). -/
def performPiece (s : State) (a : Access) (p : Piece) : State × Access :=
  let old := eventRead s a p
  let w := eventWrite a p old
  let buffered := match a.space, s.launchOf a.core with
    | .phys, some (n, l) => if l.snapOn s.now && a.epoch == 0 then some (n, l) else none
    | _, _ => none
  let s := match w, buffered with
    | none, _ => s
    | some bs, some (n, l) => writeBuffered s n l p.addr bs
    | some bs, none => s.putPhys (pieceAddr s a p) bs
  let s := if a.space = .phys ∧ (buffered.isNone ∨ w.isNone) then touchCaches s a p w.isSome
    else if a.space = .phys ∧ a.kind.isAtomic then
      s.modDie (dieOf a.core) fun k => { k with far := AMap.del k.far (p.addr / 128) }  -- R240
    else s
  (s, { a with todo := a.todo.drop 1, got := if a.kind.acc = .write then [] else putAt a.got p.at_ old })

/-! ## Circular buffers (R192-R195) -/

/-- Handle h of a core (unconfigured unless listed). -/
def Core.handle (k : Core) (h : Nat) : Handle := AMap.get k.handles h ⟨false, 0, 0, 0, 0, 0, 0, 0⟩

/-- Slots free of a handle (R192). -/
def Handle.room (h : Handle) : Nat := h.cnt + 1 - h.fill

/-- Scratch offset of slot i (R192). -/
def Handle.slotAddr (h : Handle) (i : Nat) : Nat := h.base + i * (h.ssz + 1) * 64

/-- The producer advance by n (R194). -/
def Handle.put (h : Handle) (n : Nat) : Handle :=
  { h with tail := (h.tail + n) % (h.cnt + 1), fill := h.fill + n, arrv := (h.arrv + n) % 2 ^ 32 }

/-- The consumer advance by n (R194). -/
def Handle.get (h : Handle) (n : Nat) : Handle :=
  { h with head := (h.head + n) % (h.cnt + 1), fill := h.fill - n }

/-- The core with handle h replaced. -/
def Core.setHandle (k : Core) (h : Nat) (v : Handle) : Core := { k with handles := AMap.put k.handles h v }

/-- The accesses of a path that a core has issued to a handle's slots and that have still to perform (R194). -/
def slotAccesses (s : State) (c h : Nat) (path : Path) (writes : Bool) : List Nat :=
  let hd := (s.core c).handle h
  (s.accs.filter fun p => p.2.core == c && p.2.path == path && p.2.space == .scratch c && p.2.stage != .performed &&
    (if writes then p.2.kind != .load else p.2.kind != .store) &&
    p.2.todo.any fun q => decide (hd.base < q.addr + q.len) && decide (q.addr < hd.slotAddr (hd.cnt + 1))).map (·.1)

/-- A returned token as if it had arrived on the port that a side of a node slot names (R135, R152): its data at the port's width. -/
def Core.returned (k : Core) (nk : Nat) (sideB : Bool) (t : Token) : Token :=
  match AMap.find? k.nodes nk with
  | none => t
  | some w =>
    let code := if sideB then (nodeFields w.instr).b.toNat else (nodeFields w.instr).a.toNat
    let d := t.data.getD 0 0
    { t with data := if code = 8 then [if d = 0 then 0 else 1] else if code ≤ 3 then [d]
        else if code ≤ 7 ∧ t.data.length ≠ 16 then List.replicate 16 d else t.data }

/-- Delivers a token into a reserved entry, a matching store (a return, R152) or sf; an entry with no token to come is
released (R94, R97). Answers none where a matching store refuses (R86). -/
def deliverOut (k : Core) (o : OutRes) : Option Core :=
  if 65536 ≤ o.port then
    some (match o.tok with
      | some t => k.putSf (o.port - 65536) (if t.data.length = 16 then t.data else List.replicate 16 (t.data.getD 0 0)) t.e
      | none => k)
  else if 8192 ≤ o.port then
    match o.tok with
    | none => some k
    | some t =>
      let nk := (o.port - 8192) / 2
      (offer (k.store (nk / 4096) (nk / 64 % 64)) (nk % 64) (k.returned nk ((o.port - 8192) % 2 == 1) t) ((o.port - 8192) % 2 == 1)).map fun l =>
        { k with matchSt := AMap.put k.matchSt (nk / 64) l }
  else
    let b := AMap.get k.bufs o.port []
    some { k with bufs := AMap.put k.bufs o.port (match o.tok with
      | none => b.filter fun e => e.id != o.id
      | some t => b.map fun e => if e.id = o.id then { e with tok := some t } else e) }

/-- Delivers each output of a firing, and its write of sf; those refused stay (R80, R86). -/
def deliverAll (k : Core) : List OutRes → Core × List OutRes
  | [] => (k, [])
  | o :: r =>
    match deliverOut k o with
    | some k => deliverAll k r
    | none => let (k, l) := deliverAll k r; (k, o :: l)

/-- A result token for an output from its final tag and flags: the value shaped for the port (R135). -/
def shapeOut (t : Token) (v : Val) (o : OutRes) : OutRes :=
  { o with tok := (rawShape v).map fun x => { x with e := t.e } }
where
  /-- The value as a token of the output's port. -/
  rawShape (v : Val) : Option Token :=
    if 65536 ≤ o.port then some ⟨sfVal v, t.tag, none, t.m, t.l, t.e⟩ else mkTok v t.tag 0 t.tag t.m t.l (o.port % 16)

end Sys2Proof.Machine
end

