-- ==== Sys2Proof/Machine/Leaf.lean ====
section
/-! DEFINITION. What the device does to translation tables, TLBs, HBM banks and lent ways: leaves written by compare-and-swap, pages
dropped, Banker-managed windows returned, promotion slots (R246, R400, R402, R404, R405, R410). -/

namespace Sys2Proof.Machine

/-! ## Leaves and TLBs (R400, R402) -/

/-- Every TLB of the package without the entries a test takes. -/
def dropTlb (s : State) (f : TlbEnt → Bool) : State :=
  { s with
    dies := s.dies.map fun (d : Nat × Die) => (d.1, { d.2 with tlb := d.2.tlb.filter fun t => !f t })
    cores := s.cores.map fun (k : Nat × Core) => (k.1, { k.2 with tlb := k.2.tlb.filter fun t => !f t }) }

/-- A TLB entry that a test takes, wherever it stands. -/
def tlbEntries (s : State) (f : TlbEnt → Bool) : List TlbEnt :=
  (s.dies.flatMap fun (d : Nat × Die) => d.2.tlb.filter f) ++ s.cores.flatMap fun (k : Nat × Core) => k.2.tlb.filter f

/-- A leaf entry with its STATE field replaced (R398). -/
def withState (e : DWord) (st : Nat) : DWord := (e &&& ~~~(dword (7 * 2 ^ 59))) ||| dword (st * 2 ^ 59)

/-- STATE of a leaf entry (R398). -/
def leafState (e : DWord) : Nat := fld e.toNat 61 59

/-- The device's write of a leaf (R402): a compare-and-swap at its home that expects the whole entry; on success the page leaves every
TLB of the package. Answers whether the compare held. -/
def casLeaf (s : State) (pa : Nat) (old new : DWord) : State × Bool :=
  if s.phys64 pa = old.toNat then
    (dropTlb (s.putPhys pa (toBytes 8 new.toNat)) fun t => t.leafPa == pa, true)
  else (s, false)

/-- A valid leaf whose STATE is one of a list takes another. -/
def leafTo (s : State) (pa : Nat) (froms : List Nat) (st : Nat) : State :=
  let e := dword (s.phys64 pa)
  if e.msb && e.getLsbD 62 && froms.contains (leafState e) then (casLeaf s pa e (withState e st)).1 else s

/-! ## Lent ways and windows (R246, R410) -/

/-- The bytes of memory from a to a + n become 0. -/
def clearRange (m : List Host.Cell) (a n : Nat) : List Host.Cell := m.filter fun c => !(decide (a ≤ c.1) && decide (c.1 < a + n))

/-- n bytes at src copied to the places that f gives them. -/
def copyCells (m : List Host.Cell) (src n : Nat) (f : Nat → Nat) : List Host.Cell :=
  (m.filter fun c => decide (src ≤ c.1) && decide (c.1 < src + n)).foldl (fun m c => writeByte m (f c.1) c.2) m

/-- The 32 KiB of one lent way of one slice (R237, log 3). -/
def wayBase (l : Launch) (slice way : Nat) : Nat := 2 ^ 53 + ((l.die * 128 + slice) * 16 + way) * 32768

/-- The dirty lines in ways from a to b - 1 of a group's slices, in the slice that has most of them: so many cycles their write-back takes, a line
a cycle, the slices in parallel (DEDUCED, log 38). -/
def dirtyWays (s : State) (l : Launch) (a b : Nat) : Nat :=
  (l.slices.map fun i => ((s.slice l.die i).ways.filter fun p => decide (a ≤ p.1 % 16) && decide (p.1 % 16 < b) && p.2.dirty != 0).length).foldl max 0

/-- Ways from a to b - 1 of a group's slices go into or leave scratch (R246): their cache lines are written back and dropped, and their
bytes are 0. -/
def turnWays (s : State) (l : Launch) (a b : Nat) : State :=
  l.slices.foldl (fun s i =>
    let mine := fun (p : Nat × CLine) => decide (a ≤ p.1 % 16) && decide (p.1 % 16 < b)
    let s := ((s.slice l.die i).ways.filter fun p => mine p && p.2.dirty != 0).foldl (fun s p => countFrame s l.die (p.2.line * 128)) s
    let s := s.modSlice l.die i fun sl => { sl with ways := sl.ways.filter fun p => !mine p }
    { s with mem := (List.range (b - a)).foldl (fun m j => clearRange m (wayBase l i (a + j)) 32768) s.mem }) s

/-- One slot of a window is freed, then its page's leaf is WARM again (R402, R410). -/
def returnSlot (s : State) (n slot : Nat) : State :=
  match (AMap.find? s.launches n).bind (·.window) with
  | none => s
  | some w =>
    match AMap.find? w.slots slot with
    | none => s
    | some p => leafTo (s.modLaunch n fun l => { l with window := some { w with slots := AMap.del w.slots slot } }) p.2 [4] 1

/-- A group's Banker-managed window is unregistered: every page of it returns to WARM (R410). -/
def returnWindow (s : State) (n : Nat) : State :=
  match (AMap.find? s.launches n).bind (·.window) with
  | none => s
  | some w => (w.slots.foldl (fun s p => returnSlot s n p.1) s).modLaunch n fun l => { l with window := none }

/-- The lent ways of a launch become w (R246, R415); a window that is cut short returns its pages first. -/
def applyWays (s : State) (n : Nat) (l : Launch) (w : Nat) : State :=
  let cut := match l.window with
    | some x => decide (({ l with ways := w } : Launch).winSize < (x.off + x.nsl) * 65536)
    | none => false
  let s := if cut then returnWindow s n else s
  let s := if l.ways < w then turnWays s l (16 - w) (16 - l.ways) else turnWays s l (16 - l.ways) (16 - w)
  s.modLaunch n fun l => { l with ways := w }

/-- A group that is released returns its window's pages and its ways (R410, R415); the launch keeps W for a restore (R283). -/
def releaseWays (s : State) (n : Nat) (l : Launch) : State :=
  (applyWays (returnWindow s n) n { l with window := none } 0).modLaunch n fun x => { x with ways := l.ways }

/-! ## Promotion slots (R404, R405) -/

/-- The state with a bank changed by f. -/
def State.modBank (s : State) (d b : Nat) (f : Bank → Bank) : State :=
  s.modDie d fun k => { k with banks := AMap.put k.banks b (f (AMap.get k.banks b Bank.reset)) }

/-- An address in each of the 64 rows of the 64 KiB block of an HBM address (R404). -/
def blockRows (pa : Nat) : List Nat := (List.range 64).map fun i => pa / 65536 * 65536 + i % 16 * 4096 + i / 16 * 128

/-- The slot of a bank that holds a row. -/
def Bank.holding (b : Bank) (row : Nat) : Option (Nat × PSlot) := List.find? (fun p => p.2.row == row) b.slots

/-- The slot Promote chooses (R405): the lowest that is not VALID, else the unpinned one of lowest SEQ. -/
def Bank.choose (b : Bank) : Option Nat :=
  match (List.range 128).find? fun i => (AMap.find? b.slots i).isNone with
  | some i => some i
  | none => (leastBy (fun (x y : Nat × PSlot) => decide (x.2.seq < y.2.seq)) (b.slots.filter fun p => !p.2.pin)).map (·.1)

/-- A slot leaves its row: a leaf that promoted it goes from HOT to WARM (R402, R405). -/
def slotLeaves (s : State) (d b i : Nat) : State :=
  match AMap.find? (s.bankAt d b).slots i with
  | none => s
  | some p =>
    let s := s.modBank d b fun k => { k with slots := AMap.del k.slots i }
    if p.leaf = 0 then s else leafTo s p.leaf [2] 1

/-- Promote(row, pin) (R405) as it begins: the state, the slot for which the bank is held, and whether it failed. -/
def promoteRow (s : State) (d b : Nat) (j : PJob) : State × Option Nat × Bool :=
  let k := s.bankAt d b
  match k.holding j.row with
  | some (i, p) =>
    (s.modBank d b fun k => { k with slots := AMap.put k.slots i { p with seq := k.pseq, pin := p.pin || j.pin }, pseq := k.pseq + 1 }, none, false)
  | none => (s, k.choose, k.choose.isNone)

/-- Demote(row, unpin) (R405) as it begins: the state, and the slot for which the bank is held. -/
def demoteRow (s : State) (d b : Nat) (j : PJob) : State × Option Nat :=
  match (s.bankAt d b).holding j.row with
  | none => (s, none)
  | some (i, p) =>
    if j.pin then (s.modBank d b fun k => { k with slots := AMap.put k.slots i { p with pin := false } }, none)
    else (s, some i)

/-- The end of the hold of a bank for a slot (R405): what the slot held has been written back, and a promotion's row is in it. -/
def slotTaken (s : State) (d b : Nat) (j : PJob) (i : Nat) : State :=
  let s := slotLeaves s d b i
  if j.demote then s
  else s.modBank d b fun k => { k with slots := AMap.put k.slots i ⟨j.pin, j.row, k.pseq, j.leaf⟩, pseq := k.pseq + 1 }

end Sys2Proof.Machine
end

