-- ==== Sys2Proof/Machine/MemNode.lean ====
section
/-! DEFINITION. Memory node operations (R176-R195, R208, R209, R265, R270). -/

namespace Sys2Proof.Machine

/-- Whether a core's launch runs in DET mode (R90, R311). -/
def State.detOf (s : State) (c : Nat) : Bool :=
  match s.launchOf c with
  | some (_, l) => (l.recd.getD 0 0).getLsbD 4
  | none => false

/-- The sequence number of an access (R179). -/
def ownNum (att itag : Nat) : BitVec 16 := BitVec.ofNat 16 (fld att 27 24 + (fld att 31 28 + 1) * itag)

/-- The number a node's access carries: none in a FREE launch (R179). -/
def Firing.own (q : Firing) (s : State) : Option (BitVec 16) :=
  if s.detOf q.core then some (ownNum q.lit.toNat q.tag.itag.toNat) else none

/-- The bytes of an element by ESZ and WID of an attribute word (R176). -/
def elemBytes (att : Nat) : Nat :=
  match fld att 7 6 with
  | 0 => 4
  | 1 => 64
  | _ => fld att 5 0 + 1

/-- Outstanding requests of a PE's memory port: accesses and waiting nodes (R190, R193, R209, R270). -/
def portUsed (s : State) (c pe : Nat) : Nat :=
  (s.accs.filter fun p => p.2.core == c && p.2.kind != .null && p.2.kind != .prft &&
      (match p.2.src with | .node _ x _ => x == pe | _ => false)).length
    + ((s.core c).waits.filter fun w => w.pe == pe && decide (w.op < 0xA0)).length

/-- Whether a PE's memory port can take a firing now (R208, R209). -/
def portFree (s : State) (c pe : Nat) : Bool :=
  decide (portUsed s c pe < 8) && decide (AMap.get (s.core c).memPort pe 0 ≤ s.now)

/-- The token a memory node will send, but for its data: A's tag changed by the tag action, with the flags of R91. -/
def Firing.template (q : Firing) : Token :=
  let act := q.f.tg.toNat
  ⟨[], actTag act q.tag q.btag, q.sides.map fun l => l.map (actSide act q.btag), q.m || act == 7, q.l || act == 6, false⟩

/-- A template with the operands' flags alone, as an error token made later has them (R98); the tag action's are added to a result. -/
def Firing.plain (q : Firing) : Token := { q.template with m := q.m, l := q.l }

/-- A plain template as a result has it: the tag action's own flag added (R91). -/
def Token.acted (t : Token) (act : Nat) : Token := { t with m := t.m || act == 7, l := t.l || act == 6 }

/-- Starts a firing whose results come later: operands consumed, entries reserved. -/
def startHeld (s : State) (q : Firing) : List OutRes × State :=
  match AMap.find? (s.core q.core).nodes (nkey q.cctx q.pe q.slot) with
  | none => ([], s)
  | some t =>
    let s := s.modCore q.core fun c => consume c q.cctx q.pe q.slot t.instr q.pick
    let (outs, s) := reserveAll s q.core q.cctx q.pe q.slot (outPorts q.f)
    let outs := if q.f.x = 10 ∨ q.f.y = 10 then outs ++ [⟨65536 + nkey q.cctx q.pe q.slot, 0, none⟩] else outs
    (outs, markIssued s q.core q.pe)

/-- Starts a memory firing whose results come later; its port is held for k cycles. -/
def startLong (s : State) (q : Firing) (k : Nat) : List OutRes × State :=
  let (outs, s) := startHeld s q
  (outs, s.modCore q.core fun c => { c with memPort := AMap.put c.memPort q.pe (s.now + k) })

/-- An access of a memory node before its pieces are set. -/
def Firing.access (q : Firing) (s : State) (kind : AKind) (space : Space) (todo : List Piece) (data : List Byte)
    (outs : List OutRes) : Access :=
  let att := q.lit.toNat
  let ord := fld att 12 11
  { core := q.core
    src := .node q.cctx q.pe q.slot
    path := if bitAt att 13 then .str else .fab
    kind := kind
    acq := ord % 2 == 1
    rel := ord / 2 == 1
    scope := fld att 10 8
    dom := fld att 23 20
    hint := fld att 15 14
    own := q.own s
    space := space
    todo := todo
    data := data
    got := []
    tok := some { q.template with data := if q.a.vec then q.a.lanes else [q.a.lane 0] }
    outs := outs
    wait := 0
    stage := .sent
    order := 0
    epoch := 0
    vas := []
    home := none
    ftag := (q.tag.ctag ++ q.tag.itag).toNat }

/-- The null access of a DET firing that performs nothing (R270). -/
def nullAccess (s : State) (q : Firing) : State :=
  if s.detOf q.core then issueAccess s { q.access s .null .phys [] [] [] with tok := none } else s

/-- The common frame of the memory nodes: port free, buffers free; an E operand sends its error token and performs nothing
(R98, R180); an X operand faults unless taken (R96). -/
def withMem (s : State) (xok numbered : Bool) (body : Firing → State) : Res :=
  withNode s true fun q =>
    if !portFree s q.core q.pe then s
    else if q.e then fireError (if numbered then nullAccess s q else s) q 1
    else if q.x && !xok then nodeFault s q 1
    else body q

/-- A firing that fails on its data: an error token, and its null number (R99, R270). -/
def memFail (s : State) (q : Firing) (cause : Nat) : State := fireFail (nullAccess s q) q 1 cause

/-- Starts the access of a node that fires. -/
def startAccess (s : State) (q : Firing) (kind : AKind) (space : Space) (todo : List Piece) (data : List Byte) (lanewise : Bool := false) : State :=
  let (outs, s) := startLong s q (max 1 (if lanewise then todo.filter fun p => p.at_ % 4 == 0 else todo).length)
  issueAccess s { q.access s kind space todo data outs with lanewise := lanewise }

/-- The bytes of an operand: its lanes, lowest first. -/
def Opnd.bytes (o : Opnd) : List Byte := o.lanes.flatMap fun w => toBytes 4 w.toNat

/-- The bytes a store writes (R182, R183): a vector-width store repeats a scalar, a converter store does not. -/
def storeBytes (o : Opnd) (att n : Nat) : List Byte :=
  if o.vec ∨ fld att 7 6 = 1 then o.bytes.take n
  else (toBytes 4 (o.lane 0).toNat ++ List.replicate 60 0).take n

/-- LD, ST, LDS and STS (R183) at a place. -/
def loadStore (s : State) (q : Firing) (store : Bool) (place : Except Nat (Space × Nat)) (n : Nat) : State :=
  match place with
  | .error c => memFail s q c
  | .ok (sp, a) =>
    let data := match q.b with | some b => if store then storeBytes b q.lit.toNat n else [] | none => []
    startAccess s q (if store then .store else .load) sp (eventsOf a n) data

/-- LD (R183). -/
def execLd (_ : NF) (s : State) : Res :=
  withMem s false true fun q =>
    let n := elemBytes q.lit.toNat
    loadStore s q false (placeWin s q.core (fld q.lit.toNat 19 16) (q.a.lane 0).toNat n) n

/-- ST (R183). -/
def execSt (_ : NF) (s : State) : Res :=
  withMem s false true fun q =>
    let n := elemBytes q.lit.toNat
    loadStore s q true (placeWin s q.core (fld q.lit.toNat 19 16) (q.a.lane 0).toNat n) n

/-- LDS (R181, R183). -/
def execLds (_ : NF) (s : State) : Res :=
  withMem s false true fun q =>
    let n := elemBytes q.lit.toNat
    loadStore s q false (placeScratch s q.core (q.a.lane 0).toNat n) n

/-- STS (R181, R183). -/
def execSts (_ : NF) (s : State) : Res :=
  withMem s false true fun q =>
    let n := elemBytes q.lit.toNat
    loadStore s q true (placeScratch s q.core (q.a.lane 0).toNat n) n

/-- The pieces of one lane's access (R258): one event, whose bytes part at a page's end, and at a line's end in the window. -/
def laneEvent (sp : Space) (a n at_ : Nat) : List Piece :=
  let b := match sp with | .virt => 65536 | .window => 128 | _ => 2 ^ 53
  (cutAt b 2 a n).map fun p => ⟨p.1, p.2, at_ + (p.1 - a)⟩

/-- The pieces of an indexed access (R184): one element for each non-empty lane, each piece's place in the value that of
its lane, and the space; the cause when a lane lies outside the window. -/
def lanePieces (s : State) (q : Firing) (n : Nat) : List Nat → Except Nat (List Piece × Space)
  | [] => .ok ([], .scratch q.core)
  | l :: ls =>
    match placeWin s q.core (fld q.lit.toNat 19 16) (q.a.lane l).toNat n, lanePieces s q n ls with
    | .ok (sp, a), .ok (r, _) => .ok (laneEvent sp a n (4 * l) ++ r, sp)
    | .error c, _ => .error c
    | _, .error c => .error c

/-- LDX (R184). -/
def execLdx (_ : NF) (s : State) : Res :=
  withMem s true true fun q =>
    match lanePieces s q (elemBytes q.lit.toNat) q.lanes with
    | .error c => memFail s q c
    | .ok (ps, sp) => startAccess s q .load sp ps [] true

/-- STX (R184): every non-empty lane of A, whatever B's X sidecar says of its lane. -/
def execStx (_ : NF) (s : State) : Res :=
  withMem s true true fun q =>
    let q : Firing := { q with b := q.b.map fun (o : Opnd) => { o with side := none } }
    match lanePieces s q (elemBytes q.lit.toNat) q.lanes with
    | .error c => memFail s q c
    | .ok (ps, sp) => startAccess s q .store sp ps ((List.range 16).flatMap fun l => toBytes 4 (q.bl l).toNat) true

/-- The atomics (R185) by node opcode: one event on the aligned word. -/
def atomicNode (s : State) (op : Nat) : Res :=
  withMem s false true fun q =>
    match placeWin s q.core (fld q.lit.toNat 19 16) (q.a.lane 0).toNat 4 with
    | .error c => memFail s q c
    | .ok (sp, a) =>
      if a % 4 ≠ 0 then memFail s q 16
      else
        let data := if op = 0x80 then toBytes 4 (q.bl 0).toNat ++ toBytes 4 (q.bl 1).toNat else toBytes 4 (q.bl 0).toNat
        startAccess s q (.atomic op) sp [⟨a, 4, 0⟩] data

/-- AADD (R185). -/
def execAadd (_ : NF) (s : State) : Res := atomicNode s 0x76
/-- AFADD (R185). -/
def execAfadd (_ : NF) (s : State) : Res := atomicNode s 0x77
/-- AMIN (R185). -/
def execAmin (_ : NF) (s : State) : Res := atomicNode s 0x78
/-- AMAX (R185). -/
def execAmax (_ : NF) (s : State) : Res := atomicNode s 0x79
/-- AMINN (R185). -/
def execAminn (_ : NF) (s : State) : Res := atomicNode s 0x7A
/-- AMAXN (R185). -/
def execAmaxn (_ : NF) (s : State) : Res := atomicNode s 0x7B
/-- AAND (R185). -/
def execAand (_ : NF) (s : State) : Res := atomicNode s 0x7C
/-- AOR (R185). -/
def execAor (_ : NF) (s : State) : Res := atomicNode s 0x7D
/-- AXOR (R185). -/
def execAxor (_ : NF) (s : State) : Res := atomicNode s 0x7E
/-- AXCH (R185). -/
def execAxch (_ : NF) (s : State) : Res := atomicNode s 0x7F
/-- ACAS (R185). -/
def execAcas (_ : NF) (s : State) : Res := atomicNode s 0x80

/-! ## Waiting nodes (R188, R189, R193-R195) -/

/-- Sends a value to the outputs of a waiting node lat cycles from now, and ends the wait. -/
def endWait (s : State) (c : Nat) (w : Wait) (lat : Nat) (v : Val) : State :=
  let (id, s) := s.fresh
  let s := s.modCore c fun k =>
    { k with waits := k.waits.filter (·.id != w.id)
             flights := k.flights ++ [⟨id, w.cctx, w.pe, w.slot, w.outs.map (shapeOut w.tok { v with side := w.tok.side }), none, false⟩] }
  s.after lat .resultDelivery [c, id]

/-- The kept data of a waiting node's A operand. -/
def Wait.val (w : Wait) : Val :=
  if w.tok.data.length = 16 then ⟨w.tok.data, true, none⟩ else Val.scalar (w.tok.data.getD 0 0)

/-- The scratch address of a core's own offset (R181). -/
def scratchTok (off : Nat) : Val := Val.scalar (word off)

/-- The null access of a FENCE whose wait has ended (R270); w.n holds its number. -/
def Wait.null (w : Wait) (c : Nat) : Access where
  core := c
  src := .node w.cctx w.pe w.slot
  path := .fab
  kind := .null
  acq := false
  rel := false
  scope := 0
  dom := fld w.att.toNat 23 20
  hint := 0
  own := some (BitVec.ofNat 16 w.n)
  space := .phys
  todo := []
  data := []
  got := []
  tok := none
  outs := []
  wait := 0
  stage := .sent
  order := 0
  epoch := 0
  vas := []
  home := none

/-- The FAB accesses of a domain that a release of core c at a scope waits for (R186, R188, R265). -/
def domainAccesses (s : State) (c dom scope : Nat) : List Nat :=
  (outstanding s c [.fab] scope).filter fun i => match AMap.find? s.accs i with
    | some a => if a.kind = .drain then bitAt a.dom dom else a.dom == dom
    | none => false

/-- The core's launch when a release at a scope has to wait for a cut of its region (R262, R273). -/
def cutOf (s : State) (c : Nat) (rel : Bool) (scope : Nat) : Option Nat :=
  match s.launchOf c with
  | some (n, l) => if rel && decide (3 ≤ scope) && l.snapOn s.now then some n else none
  | none => none

/-- An access or a wait stands until the cut that it forces has committed (R273). -/
def awaitCut (s : State) (n id : Nat) : State :=
  match AMap.find? s.launches n with
  | some l => if l.cutWait.contains id then s else askCut (s.modLaunch n fun l => { l with cutWait := l.cutWait ++ [id] }) n
  | none => s

/-- The release of an instruction of core c's sequencer at a scope (R189, R265, R273, R359): none once every access that the core had
issued on the paths has performed, the buffered stores drained at .sys among them, and the cut that a region's release forces has
committed; else the state in which the sequencer waits. -/
def seqRelease (s : State) (c : Nat) (paths : List Path) (scope : Nat) : Option State :=
  let wait := fun (s : State) (ids : List Nat) (cut : Option Nat) => s.modCore c fun k => { k with seq := { k.seq with wait := .fence ids cut } }
  let cutting := fun (s : State) => match cutOf s c (!paths.isEmpty) scope with
    | some n => some (askCut (wait s [] ((AMap.find? s.launches n).map (·.interval))) n)
    | none => none
  match (s.core c).seq.wait with
  | .fence _ (some k) => match s.launchOf c with
    | some (_, l) => if l.interval ≤ k then some s else none
    | none => none
  | .fence ids none => if allPerformed s c ids then cutting s else some s
  | _ =>
    let t := if scope = 5 then drainAll s c fun e => e.stores.any fun x => srcOnPaths paths x.1 else s
    let ids := outstanding t c paths scope ++ bufferedStores t c paths
    if ids.isEmpty then cutting s else some (wait t ids none)

/-- A release at .sys, as it issues, drains the buffered stores it waits for (R186, R189, R262, R265, R395): those of its domain for a
FENCE or a CNTADD that releases, those of its BEFORE paths for an XFENCE. -/
def fenceDrain (s : State) (c op att : Nat) : State :=
  if op ≠ 0x82 then
    if bitAt att 12 ∧ fld att 10 8 = 5 then drainAll s c (·.doms.contains (fld att 23 20)) else s
  else if fld att 18 16 = 5 then drainAll s c fun e => e.stores.any fun x => srcOnPaths (pathsOf (fld att 6 0)) x.1
  else s

/-- Whether a fence that waits is a release, and its scope (R188, R189, R395). -/
def Wait.release (w : Wait) : Bool × Nat :=
  if w.op = 0x82 then (true, fld w.att.toNat 18 16) else (bitAt w.att.toNat 12, fld w.att.toNat 10 8)

/-- What a fence has still to wait for: accesses, then the cut that a release at .die or wider forces (R188, R262, R273); none when
it is done. -/
def fenceHeld (s : State) (c : Nat) (w : Wait) : Option State :=
  if !allPerformed s c w.ids then some s
  else match cutOf s c w.release.1 w.release.2 with
    | some n => if w.cut then none else some (awaitCut s n w.id)
    | none => none

/-- The latency of a counter operation from core c (R396). -/
def counterTime (c n : Nat) : Nat := if dieOf c / 2 = n / 4096 then 48 else 72

/-- A counter add of a waiting node leaves for its counter (R395, R396): w.h names it, w.n is the addend. -/
def sendCount (s : State) (c : Nat) (w : Wait) : State :=
  let o : UnitOp :=
    { core := c, launch := ((s.core c).launch).getD 0, op := 0x89, target := w.h, val := (word w.n).signExtend 64, reg := w.id,
      half := s.now + counterTime c w.h / 2, tok := none, node := some (w.cctx, w.pe, w.slot), outs := [], queue := none, victims := [s.ctxOf c] }
  let (id, s) := s.fresh
  let s := { s with ops := AMap.put s.ops id o }.at o.half .counterArrival [id]
  s.modCore c fun k => { k with waits := k.waits.map fun x => if x.id = w.id then { x with op := 0x8B } else x }

/-- Ends a wait whose condition holds: FENCE and XFENCE (1 cycle after), the circular-buffer nodes (2 cycles after), by
opcode, a drain's producer advance (0x185, from cycle n on, R228), and a k-step's consumer advance (0x186, R217); a CNTADD leaves when its
release is done (0x89, then 0x8B, R395); others are left to their units. -/
def serveWait (s : State) (c : Nat) (w : Wait) : State :=
  let h := (s.core c).handle w.h
  if w.op = 0x81 ∨ w.op = 0x82 then
    match fenceHeld s c w with
    | some t => t
    | none =>
      let sc := w.release.2
      let acq := if w.op = 0x81 then bitAt w.att.toNat 11 else true
      let s := if acq ∧ 4 ≤ sc then acquireFar s c else s
      let s := endWait s c w 1 w.val
      if w.op = 0x81 ∧ s.detOf c then issueAccess s (w.null c)
      else s
  else if w.op = 0x85 then
    if h.room < w.n ∨ !allPerformed s c w.ids then s else
    let h := h.put w.n
    endWait (s.modCore c fun k => k.setHandle w.h h) c w 2 (Val.scalar (word h.arrv))
  else if w.op = 0x86 then
    if h.fill < w.n ∨ !allPerformed s c w.ids then s else
    let h := h.get w.n
    endWait (s.modCore c fun k => k.setHandle w.h h) c w 2 (scratchTok (h.slotAddr h.head))
  else if w.op = 0x87 then
    if h.fill < w.n then s else endWait s c w 2 (scratchTok (h.slotAddr h.head))
  else if w.op = 0x88 then
    if h.room < w.n then s else endWait s c w 2 (scratchTok (h.slotAddr h.tail))
  else if w.op = 0x185 then
    if s.now < w.n ∨ h.room < 1 then s else
    endWait (s.modCore c fun k => k.setHandle w.h (h.put 1)) c w 2 w.val
  else if w.op = 0x186 then
    if h.fill = 0 then s else
    s.modCore c fun k => { k.setHandle w.h (h.get 1) with waits := k.waits.filter (·.id != w.id) }
  else if w.op = 0x89 then (match fenceHeld s c w with
    | some t => t
    | none => sendCount s c w)
  else s

/-- Whether wait a is served before wait b in a cycle (R195): gets, then puts, then waits; within a kind by PE and slot. -/
def Wait.before (a b : Wait) : Bool :=
  let k := fun (w : Wait) => (if w.op = 0x186 then 0 else if w.op = 0x86 then 1 else if w.op % 256 = 0x85 then 2 else 3) * 65536 + w.pe * 256 + w.slot
  decide (k a ≤ k b)

/-- A wait in its place of the order of R195. -/
def insertWait (w : Wait) : List Wait → List Wait
  | [] => [w]
  | v :: r => if w.before v then w :: v :: r else v :: insertWait w r

/-- Every waiting node of a core, of those a test names, whose condition holds ends its wait, at the end of the cycle. -/
def serveWaits (s : State) (c : Nat) (p : Wait → Bool) : State :=
  (((s.core c).waits.filter p).foldr insertWait []).foldl (fun s w => serveWait s c w) s

/-- A node fires and waits: operands consumed, outputs reserved, a port entry held; CNTADD's answer may be an error token. -/
def startWait (s : State) (q : Firing) (op h n : Nat) (ids : List Nat) : State :=
  let (outs, s) := startLong s q 1
  let (id, s) := s.fresh
  let t := { (if op = 0x89 then q.plain else q.template) with data := if q.a.vec then q.a.lanes else [q.a.lane 0], side := none }
  s.modCore q.core fun k =>
    { k with waits := k.waits ++ [⟨id, op, h, n, ids, q.lit, q.cctx, q.pe, q.slot, t, outs, false⟩] }

/-- FENCE (R188, R270): waits for the FAB accesses of its domain when it is a release. -/
def execFence (_ : NF) (s : State) : Res :=
  withMem s false true fun q =>
    let att := q.lit.toNat
    let s := fenceDrain s q.core 0x81 att
    let ids := if bitAt att 12 then domainAccesses s q.core (fld att 23 20) (fld att 10 8) else []
    startWait s q 0x81 0 (ownNum att q.tag.itag.toNat).toNat ids

/-- XFENCE (R189). -/
def execXfence (_ : NF) (s : State) : Res :=
  withMem s false false fun q =>
    let att := q.lit.toNat
    let s := fenceDrain s q.core 0x82 att
    let paths := pathsOf (fld att 6 0)
    startWait s q 0x82 0 0 (outstanding s q.core paths (fld att 18 16) ++ bufferedStores s q.core paths)

/-- CNTADD (R395): a release waits for its core's earlier FAB accesses of domain 0 (R186); a number past the counters sends an error token. -/
def execCntadd (_ : NF) (s : State) : Res :=
  withMem s false false fun q =>
    let n := (q.a.lane 0).toNat
    if 8192 ≤ n then fireFail s q 1 1
    else
      let att := q.lit.toNat
      let s := fenceDrain s q.core 0x89 att
      startWait s q 0x89 n (q.bl 0).toNat (if bitAt att 12 then domainAccesses s q.core 0 (fld att 10 8) else [])

/-- PRFT (R190): asks for the line and sends A in the next cycle; outside its window it asks for nothing. -/
def execPrft (_ : NF) (s : State) : Res :=
  withMem s false false fun q =>
    let t := finish s q 1 q.a.val
    match placeWin s q.core (fld q.lit.toNat 19 16) (q.a.lane 0).toNat 1 with
    | .ok (.virt, a) =>
      issueAccess t { q.access s .prft .virt [⟨a / 128 * 128, 128, 0⟩] [] [] with own := none, tok := none, acq := false, rel := false }
    | _ => t

/-- WBL (R190): sends A when the line is clean at its memory. -/
def execWbl (_ : NF) (s : State) : Res :=
  withMem s false false fun q =>
    match placeWin s q.core (fld q.lit.toNat 19 16) (q.a.lane 0).toNat 1 with
    | .error c => fireFail s q 1 c
    | .ok (sp, a) =>
      let (outs, s) := startLong s q 1
      issueAccess s { q.access s .wbl sp [⟨a / 128 * 128, 128, 0⟩] [] outs with own := none }

/-- The circular-buffer nodes (R193): n and the handle are checked when the node fires; an advance also waits for the
FAB accesses its core issued earlier to the handle's slots (R194). -/
def cbNode (s : State) (op : Nat) : Res :=
  withMem s false false fun q =>
    let h := q.lit.toNat % 16
    let n := (q.a.lane 0).toNat
    let hd := (s.core q.core).handle h
    if n = 0 ∨ hd.cnt + 1 < n ∨ !hd.v then fireFail s q 1 18
    else startWait s q op h n
      (if op = 0x85 then slotAccesses s q.core h .fab true else if op = 0x86 then slotAccesses s q.core h .fab false else [])

/-- CBPUT (R193, R194). -/
def execCbput (_ : NF) (s : State) : Res := cbNode s 0x85
/-- CBGET (R193, R194). -/
def execCbget (_ : NF) (s : State) : Res := cbNode s 0x86
/-- CBWAIT (R193). -/
def execCbwait (_ : NF) (s : State) : Res := cbNode s 0x87
/-- CBROOM (R193). -/
def execCbroom (_ : NF) (s : State) : Res := cbNode s 0x88

end Sys2Proof.Machine
end

