-- ==== Sys2Proof/Machine/Memory.lean ====
section
/-! DEFINITION. The events of the memory system: an access performs and answers, page walks, the write-combining drain,
fills, order slices (R182-R187, R241-R275, R292, R399-R401, R495). -/

namespace Sys2Proof.Machine

/-! ## Faults of an access -/

/-- An access meets a freezing fault at its requester: the record, the freeze, and nothing more performed or sent; it rests, and a resume
of its launch attempts it again (R288); an ENQ is attempted whole (R325). -/
def faultAccess (s : State) (id : Nat) (a : Access) (cause addr : Nat) : State :=
  let rests : Bool := match s.launchOf a.core with
    | some (_, l) => l.live? || l.state == .freezing || l.state == .rollingBack
    | none => false
  let enq := a.src = .seq 65 ∨ a.src = .seq 66
  let s : State := { s with accs := if rests && a.kind != AKind.drain && !enq then AMap.put s.accs id { a with stage := .faulted } else AMap.del s.accs id }
  let s := s.raise (a.record cause addr)
  if enq then s.modCore a.core fun k => { k with seq := { k.seq with wait := .faulted } } else s

/-! ## Order slices (R267-R271) -/

/-- The order slice of a domain (R267): die and slice. -/
def orderSlice (l : Launch) (dom : Nat) : Nat × Nat := (l.die, (8 * dom + l.origin % 8) % 128)

/-- Stride and base mask of a launch's domain, from its memory nodes and stream descriptors (R268). -/
def domBases (s : State) (l : Launch) (dom : Nat) : Nat × Nat :=
  let nodes := l.cores.flatMap fun c => (s.core c).nodes.filterMap fun p =>
    let op := nodeOp p.2.instr
    if 0x70 ≤ op ∧ op ≤ 0x81 ∧ fld p.2.lit.toNat 23 20 = dom then some p.2.lit.toNat else none
  let strs := match s.imageOf l with
    | some im => im.streams.filterMap fun x =>
        let att := fld ((x.2.2.getD 1 0).toNat) 63 32
        if fld att 23 20 = dom then some att else none
    | none => []
  (nodes ++ strs).foldl (fun r att => (fld att 31 28 + 1, r.2 ||| 2 ^ fld att 27 24)) (1, 0)

/-- The number after n in a domain (R269): the next whose base the mask holds. -/
def nextNum (stride bases : Nat) : Nat → BitVec 16 → BitVec 16
  | 0, n => n
  | f + 1, n => if bitAt bases (n.toNat % stride) then n else nextNum stride bases f (n + 1)

/-- The lowest base of a mask. -/
def lowBase (bases : Nat) : Nat := ((List.range 16).find? fun i => bitAt bases i).getD 0

/-- An access is held by its domain, or answered NACK and retried 16 cycles later (R268, R269). A domain that a save has taken from its
slice becomes active again with the number that it expected. -/
def arriveOrder (s : State) (id : Nat) (a : Access) (own : BitVec 16) : State :=
  match s.launchOf a.core with
  | none => { s with accs := AMap.del s.accs id }
  | some (n, l) =>
    let (d, i) := orderSlice l a.dom
    let sl := s.slice d i
    let (stride, bases) := domBases s l a.dom
    let doms := if sl.doms.any fun x => x.launch == n && x.dom == a.dom then sl.doms
      else if sl.doms.length < 32 then
        sl.doms ++ [(l.doms.find? (·.dom == a.dom)).getD ⟨n, a.dom, BitVec.ofNat 16 (lowBase bases), stride, bases, []⟩]
      else sl.doms
    let s := s.modSlice d i fun sl => { sl with doms := doms }
    match doms.find? fun x => x.launch == n && x.dom == a.dom with
    | none => s.after 16 .nackRetry [id]
    | some x =>
      let dist := (own - x.nx).toNat
      let free := (doms.map fun y => (y.held.filter fun h => h.1 != y.nx).length).foldl (· + ·) 0
      if 32768 ≤ dist ∨ (dist ≠ 0 ∧ 64 - doms.length ≤ free) then s.after 16 .nackRetry [id]
      else
        let doms := doms.map fun y => if y.launch = n ∧ y.dom = a.dom then { y with held := y.held ++ [(own, id)] } else y
        let s := s.modSlice d i fun sl => { sl with doms := doms }
        if dist = 0 then s.at (max s.now sl.relAt) .orderSliceRelease [d, i] else s

/-- ORDER_SLICE_ARRIVAL (R267, R269): access [id] reaches its order slice. -/
def execOrderSliceArrival (s : State) : Res :=
  match AMap.find? s.accs (s.arg 0) with
  | some a => match a.own with
    | some n => if a.stage = .ordering then .next (arriveOrder s (s.arg 0) a n) else .next s
    | none => .next s
  | none => .next s

/-- NACK_RETRY (R269): a NACKed access [id] tries again. -/
def execNackRetry (s : State) : Res :=
  match AMap.find? s.accs (s.arg 0) with
  | some a => match a.own with
    | some n => if a.stage = .ordering then .next (arriveOrder s (s.arg 0) a n) else .next s
    | none => .next s
  | none => .next s

/-- The held access a slice releases next: of the lowest-numbered active domain that holds its expected number. -/
def releasable (doms : List Domain) : Option (Nat × Nat × Nat) :=
  doms.findSome? fun x => (x.held.find? fun h => h.1 == x.nx).map fun h => (x.launch, x.dom, h.2)

/-- ORDER_SLICE_RELEASE (R269): slice [die, slice] releases one access towards its memory node. -/
def execOrderSliceRelease (s : State) : Res :=
  let d := s.arg 0
  let i := s.arg 1
  let sl := s.slice d i
  match releasable sl.doms with
  | none => .next s
  | some (n, dom, id) =>
    if s.now < sl.relAt then .next (s.at sl.relAt .orderSliceRelease [d, i]) else
    let doms := sl.doms.map fun x =>
      if x.launch = n ∧ x.dom = dom then
        { x with nx := nextNum x.stride x.bases 16 (x.nx + 1), held := x.held.filter fun h => h.2 != id }
      else x
    let s := s.modSlice d i fun sl => { sl with doms := doms, relAt := s.now + 1 }
    let s := if (releasable doms).isSome then s.at (s.now + 1) .orderSliceRelease [d, i] else s
    match AMap.find? s.accs id with
    | none => .next s
    | some a => .next ({ s with accs := AMap.put s.accs id { a with stage := .sent } }.after (ceilDiv a.wait 2) .perform [id])

/-! ## Performing (R255, R495) -/

/-- WC_DRAIN (R265): the entry [core, line, since] drains, if it is still held. -/
def execWcDrain (s : State) : Res :=
  .next (drainAll s (s.arg 0) fun e => e.line == s.arg 1 && e.since == s.arg 2)

/-- Whether an access meets bytes that its own source still holds in the write-combining buffer (R260). -/
def behindWc (s : State) (a : Access) : Bool :=
  a.space == .phys && (s.core a.core).wc.any fun e => storesMeet e.stores a.todo fun src n => src == a.srcNum && decide (n < a.order)

/-- Whether an access to the group window was issued after an SLWAYS that does not apply yet (R246). -/
def behindWays (s : State) (a : Access) : Bool :=
  a.space == .window && s.ops.any fun p => p.2.op == 0x43 && p.2.launch == ((s.core a.core).launch).getD 0 && decide (p.1 < a.order)

/-- The pieces of an access that perform in one cycle: all of a drained sector or of an ENQ's copy, those of one lane, else the first (R182, R258, R265). -/
def Access.due (a : Access) : List Piece :=
  if a.kind = .drain ∨ a.src = .seq 65 ∨ a.src = .seq 66 then a.todo else
  match a.todo with
  | [] => []
  | p :: r => if a.lanewise then p :: r.takeWhile (fun q => q.at_ % 4 != 0) else [p]

/-- Whether an access would allocate into a way that an SLWAYS, issued and not yet applied, lends (R246). -/
def behindAlloc (s : State) (a : Access) : Bool := a.space == .phys && a.due.any fun p => allocWaits s p.addr

/-- Whether an access goes to an HBM bank that a promotion holds (R251, R405). -/
def behindHold (s : State) (a : Access) : Bool := a.space == .phys && a.due.any fun p => bankHeld s p.addr

/-- The memory node of a piece (R254), as a number: a scratch bank, a slice, a hub die's controller, a register block, the link. -/
def nodeOf (s : State) (a : Access) (p : Piece) : Nat :=
  let pa := pieceAddr s a p
  match a.space with
  | .scratch c => 2 ^ 20 + c * 32 + p.addr / 64 % 32
  | .window => 2 ^ 21 + (pa - 2 ^ 53) / (16 * 256 * 128)
  | _ =>
    if pa < 2 ^ 49 then 2 ^ 21 + homeDie pa * 128 + sliceOf pa
    else if pa < 4 * 2 ^ 48 then homeDie pa
    else pa / 65536

/-- Whether a DET access has to follow one of a lower number of its domain that goes to the same memory node (R267). -/
def afterLower (s : State) (a b : Access) : Bool :=
  match a.own, b.own, b.todo with
  | some m, some n, p :: _ =>
    a.stage == .sent && (s.core a.core).launch == (s.core b.core).launch && a.dom == b.dom && decide ((n - m).toNat < 32768) && n != m &&
      a.todo.any fun q => nodeOf s a q == nodeOf s b p
  | _, _, _ => false

/-- Whether an access was issued after an acquire of its core's sequencer, a PQPOP or a DQSTEAL, that has not yet its answer (R326,
R327). -/
def behindPop (s : State) (a : Access) : Bool :=
  s.ops.any fun p => poppedBy s a.core p && decide (p.1 < a.order)

/-- Whether an access has to wait in this cycle for others, for ways that change hands or for a held bank (R186, R246, R260, R267). At one
memory node the order of a DET domain goes before the order of issue (R267, R271). -/
def heldBack (s : State) (a : Access) : Bool :=
  s.accs.any (fun p => (mustFollow p.2 a && !afterLower s a p.2) || afterLower s p.2 a) || behindWc s a || behindWays s a || behindAlloc s a || behindHold s a || behindPop s a

/-- The launch whose cut an access forces before it performs (R262, R272, R273): a release or an atomic at .die or wider, and what writes
a register block or a peer window. -/
def forcesCut (s : State) (a : Access) : Option Nat :=
  let out := a.kind.acc != .read && a.space == .phys && a.todo.any fun p => decide (4 * 2 ^ 48 ≤ p.addr)
  if a.epoch = 0 then cutOf s a.core (a.rel || a.kind.isAtomic || out) (if out then 3 else a.scope) else none

/-- The launch whose interval store buffers lack room for the next event of an access (R248). -/
def lacksRoom (s : State) (a : Access) : Option Nat :=
  match s.launchOf a.core with
  | some (n, l) =>
    if a.epoch == 0 && a.space == .phys && a.kind.acc != .read && noRoom s n l ((a.due.filter fun p => decide (p.addr < 2 ^ 50)).map fun p => (p.addr, p.len))
    then some n else none
  | none => none

/-- The bytes of the register an access reaches, read or written at an offset of its doubleword (R308, R457). -/
def registerPiece (s : State) (a : Access) (p : Piece) (r : Reg) : State × Access :=
  let o := p.addr % 8
  let old := toBytes 8 (regRead s r).toNat
  let read := (old.drop o).take p.len
  let w := eventWrite a p read
  let s := match w with
    | some bs => regWrite s r (dword (ofBytes (putAt old o bs)))
    | none => s
  (regSeen s r, { a with todo := a.todo.drop 1, got := if a.kind.acc = .write then [] else putAt a.got p.at_ read })

/-! ### Messages to other packages (R452-R455) -/

/-- The die that the scheduler's messages name as their source (R455): the scheduler block's, HD0. -/
def schedulerDie : Nat := 4

/-- What a request to a peer does, as a number (PeerReq). -/
def AKind.reqOp : AKind → Nat
  | .store => 1
  | .add64 => 2
  | .cas64 _ => 3
  | .atomic op => op
  | _ => 0

/-- The operand bytes of a request: a store's own, an atomic's whole, a compare-and-swap's with its expected value. -/
def requestData (a : Access) (p : Piece) : List Byte :=
  match a.kind with
  | .store => (a.data.drop p.at_).take p.len
  | .cas64 e => a.data.take 8 ++ toBytes 8 e.toNat
  | .load => []
  | _ => a.data

/-- One event of an access to a peer window leaves as a request under the next number; the access waits for its response (R238, R454,
R455). -/
def peerPiece (s : State) (a : Access) (p : Piece) : State × Access :=
  let num := s.reqNum.toNat
  let s := sendLink { s with reqNum := s.reqNum + 1 } (fld p.addr 47 40) a.core (fld p.addr 16 7) 0 0
    [1, num, a.kind.reqOp, p.addr % 2 ^ 40, p.len] (requestData a p)
  (s, { a with stage := .away num })

/-- Cycles that an access's way back takes beside its level latency: a node's over the memory stream path, and a load or atomic of the
sequencer (R187, R208, R345). -/
def Access.extra (a : Access) : Nat :=
  match a.src with
  | .node .. => if a.path = .str then 4 else 0
  | .seq d => if a.kind = .store ∨ d = 65 then 0 else 2
  | .chan .. => 0

/-- An access that has performed its last event: an acquire at .pkg or .sys advances the far-cache epoch (R245); the answer
follows after the way back (R495, R208, R271), where one is owed. -/
def performed (s : State) (id : Nat) (a : Access) : State :=
  let s := if a.acq ∧ 4 ≤ a.scope then acquireFar s a.core else s
  let back := a.wait / 2 + a.extra + (if a.kind.isAtomic then 2 else 0) + (if a.own.isSome then 20 else 0)
  if a.kind = .prft ∨ a.kind = .drain then { s with accs := AMap.del s.accs id }
  else { s with accs := AMap.put s.accs id { a with stage := .performed } }.after back .accessResponse [id]

/-- What one event of an access does where its address lies (R238, R239, R254, R292, R457): the state and the access with
the event done; none where it has faulted or been dropped. -/
def pieceAt (s : State) (id : Nat) (a : Access) (p : Piece) : State × Option Access :=
  let done := fun (r : State × Access) => (r.1, some r.2)
  let fault := fun (s : State) (cause : Nat) => (faultAccess s id a cause p.addr, (none : Option Access))
  if a.space ≠ .phys ∨ 2 ^ 53 ≤ p.addr then done (performPiece s a p)
  else if a.kind = .prft ∧ 4 * 2 ^ 48 ≤ p.addr then ({ s with accs := AMap.del s.accs id }, none)
  else if 6 * 2 ^ 48 ≤ p.addr then fault s 7
  else if p.addr / 2 ^ 48 = 5 then
    if reachable s (fld p.addr 47 40) then done (peerPiece s a p) else fault (linkDown s a.core (fld p.addr 47 40) (fld p.addr 16 7)) 7
  else if p.addr / 2 ^ 48 = 4 then
    match regAt (p.addr / 8 * 8) with
    | none => fault s 9
    | some r =>
      if accessOk s (0x2000 + s.ctxOf a.core) (p.addr / 8 * 8) (a.kind.acc != .read) then done (registerPiece s a p r) else fault s 9
  else if (memRegion s p.addr).isNone then
    if a.kind = .prft then ({ s with accs := AMap.del s.accs id }, none) else fault s 7
  else if a.kind.acc != .write && poisonMet s a.core p.addr p.len then
    if a.kind = .prft then ({ s with accs := AMap.del s.accs id }, none) else fault s 10
  else done (performPiece s a p)

/-- The next n events of an access. -/
def eventsAt (s : State) (id : Nat) : Nat → Access → State × Option Access
  | 0, a => (s, some a)
  | n + 1, a => match a.todo with
    | [] => (s, some a)
    | p :: _ => if a.stage ≠ .sent then (s, some a) else match pieceAt s id a p with
      | (s, some b) => eventsAt s id n b
      | r => r

/-- WBL at its memory (R190): the line's dirty sectors are written back and the line stays valid. -/
def writeBack (s : State) (c pa : Nat) : State :=
  if 2 ≤ pa / 2 ^ 48 ∨ !dirtyAt s pa then s else
  let s := countFrame s (dieOf c) pa
  s.modSlice (homeDie pa) (sliceOf pa) fun sl =>
    { sl with ways := sl.ways.map fun p => if p.2.line = pa / 128 then (p.1, { p.2 with dirty := 0 }) else p }

/-- WBL [id] of a line (R190, R238, R239). -/
def lineBack (s : State) (id : Nat) (a : Access) (p : Piece) : State :=
  if a.space ≠ .phys then performed s id { a with todo := [] }
  else if 6 * 2 ^ 48 ≤ p.addr ∨ (p.addr < 4 * 2 ^ 48 ∧ (memRegion s p.addr).isNone) then faultAccess s id a 7 p.addr
  else performed (writeBack s a.core p.addr) id { a with todo := [] }

/-- Whether a read that was to be served by far-cache copies has lost one on its way (R244). -/
def lostCopy (s : State) (a : Access) : Bool :=
  a.kind == .load && a.space == .phys && a.home.isNone && !(a.todo.all fun p => farServes s a.core p.addr)

/-- Such a read goes home: its fill is issued now (R244, R245, R495). -/
def goHome (s : State) (id : Nat) (a : Access) : State :=
  let l := a.todo.foldl (fun m p => max m (levelPhys s a.core p.addr p.len false true)) 90
  let a := { a with wait := a.wait + (l - 90), home := some (s.now, (s.die (dieOf a.core)).ae) }
  { s with accs := AMap.put s.accs id a }.after (max 1 (ceilDiv l 2 - 45)) .perform [id]

/-- PERFORM (R255, R270, R495): access [id] takes effect at its memory node, one event a cycle (R182), after the accesses that
order it (R186, R260, R267) and the cut it forces (R273); a null access does nothing, and a unit's probe has had its answer, or goes on as loads. -/
def execPerform (s : State) : Res :=
  let id := s.arg 0
  match AMap.find? s.accs id with
  | none => .next s
  | some a =>
    if a.stage ≠ .sent then .next s
    else if a.kind = .null then .next { s with accs := AMap.del s.accs id }
    else if (match a.kind with | .probe _ => true | _ => false) then .next (endProbe s id a)
    else if heldBack s a then .next (s.after 1 .perform [id])
    else if lostCopy s a then .next (goHome s id a)
    else match forcesCut s a, lacksRoom s a with
    | some n, _ => .next (awaitCut s n id)
    | none, some n => .next (askCut (s.after 1 .perform [id]) n)
    | none, none =>
      match a.kind, a.todo with
      | .wbl, p :: _ => .next (lineBack s id a p)
      | _, _ =>
        match eventsAt s id a.due.length a with
        | (s, none) => .next s
        | (s, some a) =>
          if a.todo.isEmpty then .next (performed s id a) else .next ({ s with accs := AMap.put s.accs id a }.after 1 .perform [id])

/-! ## Answers -/

/-- The value of a load or atomic as its access gathered it (R182, R184): scalar up to 4 bytes, unless the firing was a
vector one. -/
def loadVal (a : Access) : Val :=
  let ws := (List.range 16).map fun i => word (ofBytes ((a.got.drop (4 * i)).take 4))
  match a.tok with
  | some t =>
    if a.got.length ≤ 4 ∧ t.side.isNone then Val.scalar (ws.getD 0 0)
    else ⟨ws, true, t.side⟩
  | none => ⟨ws, true, none⟩

/-- The result of an access for its consumer: what it read, or A's data (R183). -/
def accessVal (a : Access) : Val :=
  if a.kind = .load ∨ a.kind.isAtomic then loadVal a
  else match a.tok with
    | some t => if t.data.length = 16 then ⟨t.data, true, t.side⟩ else Val.scalar (t.data.getD 0 0)
    | none => Val.scalar 0

/-- The sequencer takes the answer of its access (R352, R345): register d below 32; a wait's value (32, R357); a posted
store's end (64, an ENQ's 66); register d - 96 with the end of an LDGA (96 and above). -/
def seqAnswer (k : Core) (d now : Nat) (got : List Byte) : Core :=
  let v := dword (ofBytes (got.take 8))
  let q := k.seq
  if d = 32 then
    { k with seq := { q with wait := match q.wait with
        | .poll ea _ => .poll ea (some v)
        | .trap i _ => .trap i (some v)
        | w => w } }
  else if d = 64 ∨ d = 66 ∨ d = 67 then k
  else
    let r := d % 32
    { k with seq := { q with g := if r = 0 then q.g else AMap.put q.g r v, busy := q.busy.filter (· != r),
                             ready := AMap.put q.ready r now, loads := q.loads - 1,
                             wait := if 96 ≤ d then .none else q.wait, next := if 96 ≤ d then now else q.next } }

/-- A list with an element replaced, grown with empty tokens up to it. -/
def fillTok (l : List Token) (i : Nat) (t : Token) : List Token :=
  let none_ : Token := ⟨[], ⟨0, 0⟩, none, false, false, false⟩
  (l ++ List.replicate (i + 1 - l.length) none_).set i t

/-- A stream channel takes the answer of an element (R200-R204): counted; what a copy or a multicast has read waits to be
written, by element. -/
def chanAnswer (k : Core) (ch e : Nat) (a : Access) : Core :=
  match AMap.find? k.chans ch with
  | none => k
  | some x =>
    let k := { k with chans := AMap.put k.chans ch { x with done := x.done + 1 } }
    let t : Token := ⟨(List.range 16).map fun i => word (ofBytes ((a.got.drop (4 * i)).take 4)), ⟨0, 0⟩, none, false, false, false⟩
    let put := fun (c at_ : Nat) =>
      match AMap.find? k.chans c with
      | some y => { k with chans := AMap.put k.chans c { y with index := fillTok y.index (e - at_) t } }
      | none => k
    if a.kind != .load then k
    else if x.pass = 5 then put x.partner (match AMap.find? k.chans x.partner with | some y => y.issued | none => 0)
    else if x.pass = 7 then put ch x.paired
    else k

/-- An ENQ's read of n bytes of its record at an address for the ring address r, with m bytes more to follow (R325): on the SEQ path, the
doublewords one event each. -/
def enqRead (s : State) (c va n r m : Nat) : State :=
  issueAccess s
    { core := c, src := .seq 65, path := .seq, kind := .load, acq := false, rel := false, scope := 0, dom := 0, hint := 0, own := none, space := .virt
      todo := (List.range (n / 8)).map fun i => ⟨va + 8 * i, 8, 8 * i⟩, data := [], got := [], tok := none, outs := [], wait := 0, stage := .sent
      order := 0, epoch := 1, vas := [], home := none, merged := [(r, va + n, m, 0)] }

/-- What an ENQ has read is written to its ring, for the scheduler to see, and the rest of the record is read (R325). -/
def enqWrite (s : State) (a : Access) : State :=
  let (r, va, m, _) := a.merged.headD (0, 0, 0, 0)
  let n := a.got.length
  let s := issueAccess s
    { a with src := .seq 66, kind := .store, space := .virt, todo := (List.range (n / 8)).map fun i => ⟨r + 8 * i, 8, 8 * i⟩, data := a.got, got := [],
             stage := .sent, vas := [], home := none, merged := [] }
  if m = 0 then s else enqRead s a.core va m (r + n) 0

/-- ACCESS_RESPONSE (R495, R257): the answer of access [id] reaches its source; what a unit has read outside memory waits for it. -/
def execAccessResponse (s : State) : Res :=
  let id := s.arg 0
  match AMap.find? s.accs id with
  | none => .next s
  | some a =>
    if a.stage ≠ .performed then .next s else
    if a.kind = .load ∧ a.src = .chan 17 0 then .next { s with accs := AMap.put s.accs id { a with src := .chan 18 0 } } else
    let s := { s with accs := AMap.del s.accs id }
    if a.src = .seq 65 then .next (enqWrite s a) else
    let v := accessVal a
    let outs := match a.tok with
      | some t => a.outs.map (shapeOut t v)
      | none => a.outs
    .next (s.modCore a.core fun k =>
      match a.src with
      | .node .. => { (deliverAll k outs).1 with lastOut := s.now }
      | .seq d => seqAnswer k d s.now a.got
      | .chan ch e => chanAnswer k ch e a)

/-- PAGE_WALK (R399-R401): the translation of access [id] completes, with an address or a failure; a stalled access whose
table was full tries again. -/
def execPageWalk (s : State) : Res :=
  match AMap.find? s.accs (s.arg 0) with
  | none => .next s
  | some a =>
    match a.stage with
    | .sent | .walking | .stalled _ => if a.space = .virt then .next (settleAccess s (s.arg 0) a) else .next s
    | _ => .next s

/-- FILL_ARRIVAL (R247, R257): the fill of sectors of a slice line arrives (kind 0: die, slice, line, mask), or a far-cache
copy takes the sectors that the acknowledgement of a store carries (kind 1: die, address, number, and the bytes), but for those it holds
newer (R257: a copy never goes back). -/
def execFillArrival (s : State) : Res :=
  if s.arg 0 = 0 then
    .next (s.modSlice (s.arg 1) (s.arg 2) fun sl => { sl with ways := sl.ways.map fun p => if p.2.line = s.arg 3 ∧ (p.2.valid ||| p.2.dirty) ≠ 0 then (p.1, { p.2 with valid := p.2.valid ||| BitVec.ofNat 4 (s.arg 4) }) else p })
  else
    let pa := s.arg 2
    let bs := match s.cur with | .ev (.bytes _ b) => b | _ => []
    .next (s.modDie (s.arg 1) fun k => match AMap.find? k.far (pa / 128) with
      | some f => { k with far := AMap.put k.far (pa / 128) ((List.range (bs.length / 32)).foldl (one pa (s.arg 3) bs) f) }
      | none => k)
where
  /-- Sector i of an acknowledgement, newer than what the copy holds there. -/
  one (pa id : Nat) (bs : List Byte) (f : FarLine) (i : Nat) : FarLine :=
    let o := pa % 128 + 32 * i
    if f.stamp.getD (o / 32) 0 < id ∧ o < 128 then
      { f with bytes := putAt f.bytes o ((bs.drop (32 * i)).take 32), stamp := f.stamp.set (o / 32) id }
    else f

end Sys2Proof.Machine
end

