-- ==== Sys2Proof/Machine/Frame.lean ====
section
/-! DEFINITION. Accumulator frames and tiles: classes, exact products, settling, drain of one element, spill images, the
compressed image, and tile headers (R53-R73). -/

namespace Sys2Proof.Machine

/-! ## Classes (R53, R58, R59, R65) -/

/-- Total bits of an element. -/
def Cls.total : Cls → Nat
  | .n80 => 80
  | .h112 => 112
  | .w576 => 576

/-- Weight of bit 0: 2^-offset. -/
def Cls.offset : Cls → Nat
  | .n80 => 32
  | .h112 => 48
  | .w576 => 266

/-- log2 of the range limit L. -/
def Cls.range : Cls → Nat
  | .n80 => 64
  | .h112 => 80
  | .w576 => 522

/-- Block rows. -/
def Cls.bh : Cls → Nat
  | .w576 => 8
  | _ => 16

/-- Block columns. -/
def Cls.bw : Cls → Nat
  | .n80 => 16
  | .h112 => 8
  | .w576 => 4

/-- Elements of a frame. -/
def Cls.count (c : Cls) : Nat := c.bh * c.bw

/-- The PCNT limit (R58). -/
def Cls.limit : Cls → Nat
  | .n80 => 16384
  | _ => 1048576

/-- CLS codes of images (R66). -/
def Cls.code : Cls → Nat
  | .n80 => 0
  | .h112 => 1
  | .w576 => 2

/-- A class by its code. -/
def Cls.ofCode : Nat → Option Cls
  | 0 => some .n80
  | 1 => some .h112
  | 2 => some .w576
  | _ => none

/-- Bytes of an element's slot in a spill image (R65). -/
def Cls.slot : Cls → Nat
  | .w576 => 80
  | _ => 16

/-- Bytes of a frame's spill image (R65). -/
def Cls.imageBytes (c : Cls) : Nat := 64 + c.count * c.slot

/-! ## Elements -/

/-- An element that is 0 with no flags. -/
def Elem.zero : Elem := ⟨0, false, false, false, false⟩

/-- A frame of a class in a state with nothing in it. -/
def Frame.blank (c : Cls) (st : FState) : Frame := ⟨c, st, 0, false, 0, 0, []⟩

/-- Element e of a frame. -/
def Frame.elem (f : Frame) (e : Nat) : Elem := AMap.get f.elems e Elem.zero

/-- Frame n of a core: EMPTY, of the class .frames gave it or N80, unless listed (R61). -/
def Core.frame (k : Core) (n : Nat) : Frame := AMap.get k.mx.frames n (Frame.blank (AMap.get k.frameCls n .n80) .empty)

/-- The core with frame n replaced. -/
def Core.setFrame (k : Core) (n : Nat) (f : Frame) : Core := { k with mx := { k.mx with frames := AMap.put k.mx.frames n f } }

/-- An exact value as a contribution (R55): NaN and infinities are flags, -0 is 0. -/
def Cls.addend (c : Cls) : XVal → Elem
  | .nan => { Elem.zero with nan := true }
  | .inf false => { Elem.zero with pinf := true }
  | .inf true => { Elem.zero with ninf := true }
  | .fin s n d =>
    let z : Int := (n * 2 ^ c.offset / d : Nat)
    { Elem.zero with v := if s then -z else z }

/-- ExactProduct (R55). -/
def Cls.exactProduct (c : Cls) (a b : XVal) : Elem := c.addend (a.mul b)

/-- A value modulo 2^total as a signed integer. -/
def Cls.wrapV (c : Cls) (z : Int) : Int := sext c.total (wrap c.total z)

/-- Insertion (R55): V modulo 2^total, flags ORed. -/
def Elem.insert (c : Cls) (a b : Elem) : Elem :=
  ⟨c.wrapV (a.v + b.v), a.nan || b.nan, a.pinf || b.pinf, a.ninf || b.ninf, a.ovf || b.ovf⟩

/-- A contribution negated (R216). -/
def Elem.negate (a : Elem) : Elem := ⟨-a.v, a.nan, a.ninf, a.pinf, a.ovf⟩

/-- Settle (R57). -/
def Elem.settle (c : Cls) (a : Elem) : Elem :=
  let l : Int := ((2 ^ c.range : Nat) : Int)
  if l ≤ a.v then { a with ovf := true, v := l - 1 }
  else if a.v ≤ -l then { a with ovf := true, v := -(l - 1) }
  else a

/-- A frame with each element settled, PCNT and LST-issued cleared (R57, R58, R62). -/
def Frame.settle (f : Frame) : Frame :=
  { f with elems := f.elems.map (fun p => (p.1, p.2.settle f.cls)), state := .settled, pcnt := 0, lst := false }

/-- A frame with a contribution inserted into element e. -/
def Frame.insertAt (f : Frame) (e : Nat) (x : Elem) : Frame :=
  if x = Elem.zero then f else { f with elems := AMap.put f.elems e ((f.elem e).insert f.cls x) }

/-- Whether an element is a finite one with OVF set (R64). -/
def Elem.overflowed (a : Elem) : Bool := a.ovf && !a.nan && !a.pinf && !a.ninf

/-- DrainElement before its one rounding (R64): the value, and whether SAT is forced. -/
def Elem.drain (a : Elem) (c : Cls) (fexp : Int) (scales : List XVal) : XVal × Bool :=
  let neg := decide (a.v < 0)
  let p := pow2 (fexp - (c.offset : Int))
  let v : XVal :=
    if a.nan || (a.pinf && a.ninf) then .nan
    else if a.pinf then .inf false
    else if a.ninf then .inf true
    else if a.ovf then .inf (decide (a.v ≤ 0))
    else .fin neg (a.v.natAbs * p.1) p.2
  let v := scales.foldl XVal.mul v
  let v := match v with
    | .fin s n d => if n = 0 then .fin false 0 1 else .fin s n d
    | v => v
  (v, a.overflowed)

/-! ## Spill images (R65-R68) -/

/-- The flags in the order of R67. -/
def Elem.flags (a : Elem) : Nat := b2n a.nan + 2 * b2n a.pinf + 4 * b2n a.ninf + 8 * b2n a.ovf

/-- An element of a value and flags. -/
def Elem.make (v : Int) (fl : Nat) : Elem := ⟨v, bitAt fl 0, bitAt fl 1, bitAt fl 2, bitAt fl 3⟩

/-- The slot of an element (R67). -/
def Elem.slot (a : Elem) (c : Cls) : List Byte :=
  if c = .w576 then toBytes 72 (wrap 576 a.v) ++ toBytes 8 a.flags
  else toBytes 16 (wrap c.total a.v + a.flags * 2 ^ 120)

/-- STATE and EXT of a frame descriptor (R66). -/
def FState.codes : FState → Nat × Nat
  | .empty => (0, 1)
  | .spilled => (0, 2)
  | .zeroed => (0, 0)
  | .accumulating => (1, 0)
  | .settled => (2, 0)
  | .drained => (3, 0)

/-- The first 64 bits of a frame descriptor (R66). -/
def Frame.descr (f : Frame) : Nat :=
  let (st, ext) := f.state.codes
  if ext = 0 then f.pcnt * 2 ^ 16 + wrap 10 f.fexp * 2 ^ 4 + st * 4 + f.cls.code else ext * 2 ^ 14 + f.cls.code

/-- A frame's spill image (R65-R67); EXT marks EMPTY and SPILLED frames in a launch save. -/
def Frame.image (f : Frame) : List Byte :=
  toBytes 8 f.descr ++ List.replicate 56 0 ++
    (if f.state = .empty ∨ f.state = .spilled then List.replicate (f.cls.count * f.cls.slot) 0
     else (List.range f.cls.count).flatMap fun e => (f.elem e).slot f.cls)

/-- Consecutive parts of n bytes. -/
def chunks (n : Nat) : Nat → List Byte → List (List Byte)
  | 0, _ => []
  | k + 1, l => l.take n :: chunks n k (l.drop n)

/-- A slot's element (R67); none where a bit that is 0 is set (R68). -/
def unslot (c : Cls) (b : List Byte) : Option Elem :=
  let x := ofBytes b
  if c = .w576 then
    if 16 ≤ x / 2 ^ 576 then none else some (Elem.make (sext 576 (x % 2 ^ 576)) (x / 2 ^ 576))
  else
    if x / 2 ^ 124 ≠ 0 ∨ x % 2 ^ 120 / 2 ^ c.total ≠ 0 then none
    else some (Elem.make (sext c.total (x % 2 ^ c.total)) (fld x 123 120))

/-- The frame descriptor's fields after the checks of R68: class, state, PCNT, FEXP; none faults FMT_BAD. -/
def readDescr (b : List Byte) : Option (Cls × FState × Nat × Int) :=
  let d := ofBytes (b.take 8)
  let ext := fld d 15 14
  let st := fld d 3 2
  let pcnt := fld d 36 16
  let fexp := sext 10 (fld d 13 4)
  match Cls.ofCode (d % 4) with
  | none => none
  | some c =>
    if d / 2 ^ 37 ≠ 0 ∨ ((b.drop 8).take 56).any (· != 0) ∨ ext = 3 ∨ (ext ≠ 0 ∧ (st ≠ 0 ∨ pcnt ≠ 0 ∨ fexp ≠ 0)) ∨ c.limit < pcnt
        ∨ (fexp ≠ 0 ∧ c ≠ .n80) then none
    else
      let state : FState := if ext = 1 then .empty else if ext = 2 then .spilled
        else match st with
          | 0 => .zeroed
          | 1 => .accumulating
          | 2 => .settled
          | _ => .drained
      some (c, state, pcnt, fexp)

/-- The elements of a list that are not plain zeros, by index. -/
def listElems (l : List Elem) : AMap Elem := ((List.range l.length).zip l).filter fun p => p.2 != Elem.zero

/-- The frame that a spill image holds, as it stands there (R66, R68); none where it faults FMT_BAD. -/
def rawImage (b : List Byte) : Option Frame :=
  match readDescr b with
  | none => none
  | some (c, st, pcnt, fexp) =>
    if b.length < c.imageBytes then none else
    match (chunks c.slot c.count (b.drop 64)).mapM (unslot c) with
    | none => none
    | some es =>
      if (st = .empty ∨ st = .spilled) ∧ es.any (· != Elem.zero) then none
      else some ⟨c, st, 0, false, pcnt, fexp, listElems es⟩

/-- A frame as a fill makes it from its image: SETTLED runs Settle (R62). -/
def Frame.filled (f : Frame) : Frame := if f.state = .settled then f.settle else f

/-- The first byte at which the first 64 bytes of an image break R68 (R496); none where they do not. -/
def descrBad (b : List Byte) : Option Nat :=
  let d := ofBytes (b.take 8)
  let ext := fld d 15 14
  let pcnt := fld d 36 16
  let cls := Cls.ofCode (d % 4)
  let limit := match cls with | some c => decide (c.limit < pcnt) | none => false
  let wide := match cls with | some c => c != .n80 | none => false
  let bad : List (Bool × Nat) :=
    [(cls.isNone || (ext != 0 && fld d 7 2 != 0) || (wide && fld d 7 4 != 0), 0),
     (ext == 3 || ((ext != 0 || wide) && fld d 13 8 != 0), 1), ((ext != 0 && pcnt != 0) || limit, 2), (fld d 39 37 != 0, 4)]
  match bad.find? (·.1) with
  | some p => some p.2
  | none => (List.range 59).findSome? fun i => if b.getD (5 + i) 0 ≠ 0 then some (5 + i) else none

/-- The first byte at which an image fails the checks of a fill (R68, R496). -/
def imageBad (b : List Byte) : Nat :=
  match descrBad b with
  | some o => o
  | none =>
    let d := ofBytes (b.take 8)
    let c := (Cls.ofCode (d % 4)).getD .n80
    let alone := fun (o : Nat) => List.replicate (o % c.slot) 0 ++ [b.getD (64 + o) 0]
    64 + ((List.range (c.count * c.slot)).find? fun o =>
      if fld d 15 14 = 0 then (unslot c (alone o)).isNone else b.getD (64 + o) 0 != 0).getD 0

/-- The frame that a fill makes of an image (R62, R68). -/
def readImage (b : List Byte) : Option Frame := (rawImage b).map Frame.filled

/-! ## The compressed W576 image (R69) -/

/-- Limb h of a W576 element. -/
def limb (x h : Nat) : Nat := x / 2 ^ (64 * h) % 2 ^ 64

/-- The compressed element (R69). -/
def Elem.compressed (a : Elem) : List Byte :=
  let x := wrap 576 a.v
  let fl := toBytes 1 a.flags
  if x = 0 then toBytes 1 0xFF ++ fl else
  let s := x / 2 ^ 575
  let lo := ((List.range 9).find? fun h => limb x h != 0).getD 0
  let hi := ((List.range 9).find? fun h =>
    ((List.range 9).all fun g => decide (g ≤ h) || limb x g == s * (2 ^ 64 - 1)) && limb x h / 2 ^ 63 == s).getD 8
  toBytes 1 (lo + 16 * hi) ++ fl ++ (List.range (hi + 1 - lo)).flatMap fun i => toBytes 8 (limb x (lo + i))

/-- The compressed image of a frame (R69). -/
def Frame.compressed (f : Frame) : List Byte :=
  toBytes 8 f.descr ++ List.replicate 56 0 ++ (List.range f.cls.count).flatMap fun e => (f.elem e).compressed

/-- The limbs of a compressed element put back (R69). -/
def expandLimbs (lo hi : Nat) (ls : List Nat) : Nat :=
  let s := ls.getD (hi - lo) 0 / 2 ^ 63
  (List.range 9).foldl (fun n h =>
    n + (if h < lo then 0 else if h ≤ hi then ls.getD (h - lo) 0 else s * (2 ^ 64 - 1)) * 2 ^ (64 * h)) 0

/-- One compressed element and the bytes after it (R69); none where it faults FMT_BAD. An element that its encoding would
not give back breaks the rule of its limbs (DEDUCED, log 18). -/
def takeCompressed (b : List Byte) : Option (Elem × List Byte) :=
  match b with
  | h :: fl :: r =>
    let lo := h.toNat % 16
    let hi := h.toNat / 16
    if 16 ≤ fl.toNat then none
    else if h.toNat = 0xFF then some (Elem.make 0 fl.toNat, r)
    else if hi < lo ∨ 8 < hi ∨ r.length < 8 * (hi + 1 - lo) then none
    else
      let e := Elem.make (sext 576 (expandLimbs lo hi ((chunks 8 (hi + 1 - lo) r).map ofBytes))) fl.toNat
      if e.compressed.take 2 = [h, fl] then some (e, r.drop (8 * (hi + 1 - lo))) else none
  | _ => none

/-- n compressed elements and the bytes after them. -/
def takeElems : Nat → List Byte → Option (List Elem × List Byte)
  | 0, b => some ([], b)
  | n + 1, b =>
    match takeCompressed b with
    | none => none
    | some (e, r) =>
      match takeElems n r with
      | none => none
      | some (es, t) => some (e :: es, t)

/-- The frame of a compressed image at the head of bytes, and the bytes after it (R69); none faults FMT_BAD. -/
def readCompressed (b : List Byte) : Option (Frame × List Byte) :=
  match readDescr b with
  | none => none
  | some (c, st, pcnt, fexp) =>
    if b.length < 64 ∨ c ≠ .w576 then none else
    match takeElems 32 (b.drop 64) with
    | none => none
    | some (es, t) =>
      if (st = .empty ∨ st = .spilled) ∧ es.any (· != Elem.zero) then none
      else some (⟨c, st, 0, false, pcnt, fexp, listElems es⟩, t)

/-! ## Tiles (R70-R72) -/

/-- A tile header's fields (R70): rows and K extent as counts. -/
structure Tile where
  fmt : Nat
  scl : Nat
  spm : Bool
  rows : Nat
  cols : Nat
  texp : Int
  deriving DecidableEq, Repr

/-- A tile header read, with the checks of R71 that need it alone; none faults FMT_BAD. -/
def readTile (h : Nat) (isB : Bool) : Option Tile :=
  let t : Tile := ⟨h % 16, fld h 5 4, bitAt h 6, fld h 19 8 + 1, fld h 31 20 + 1, sext 9 (fld h 40 32)⟩
  if h / 2 ^ 41 ≠ 0 ∨ bitAt h 7 ∨ 7 ≤ t.fmt ∨ t.scl = 3 ∨ (t.fmt = 4 ∧ t.scl ≠ 1) ∨ (t.scl = 1 ∧ t.fmt ≠ 4)
      ∨ (t.fmt = 4 ∧ t.cols % 32 ≠ 0) ∨ (t.spm ∧ (isB ∨ t.fmt = 5 ∨ t.fmt = 6 ∨ t.cols % 4 ≠ 0))
      ∨ (t.texp ≠ 0 ∧ (t.fmt = 5 ∨ t.fmt = 6)) then none
  else some t

/-- The class of a tile format (R71). -/
def Tile.cls (t : Tile) : Cls := if t.fmt = 5 then .h112 else if t.fmt = 6 then .w576 else .n80

/-- The element type code (R114) of a tile format (R70). -/
def Tile.type (t : Tile) : Nat := t.fmt

/-- Stored elements of a row (R72). -/
def Tile.stored (t : Tile) : Nat := if t.spm then t.cols / 2 else t.cols

/-- The next 64-byte boundary. -/
def up64 (n : Nat) : Nat := ceilDiv n 64 * 64

/-- End of the data, and the ends of the scales, the drain vector and the metadata, from the header (R70). -/
def Tile.ends (t : Tile) : Nat × Nat × Nat × Nat :=
  let d := 64 + ceilDiv (t.rows * t.stored * typeBits t.type) 8
  let s := if t.scl = 1 then up64 d + t.rows * t.cols / 32 else d
  let v := if t.scl = 2 then up64 s + 4 * t.rows else s
  let m := if t.spm then up64 v + ceilDiv (t.rows * t.cols) 8 else v
  (d, s, v, m)

/-- Bytes of a tile. -/
def Tile.span (t : Tile) : Nat := t.ends.2.2.2

/-- The metadata nibble j of row i (R72). -/
def Tile.nibble (t : Tile) (b : List Byte) (i j : Nat) : Nat :=
  let n := i * (t.cols / 4) + j
  (b.getD (up64 t.ends.2.2.1 + n / 2) 0).toNat / 16 ^ (n % 2) % 16

/-- Whether every nibble's indices ascend (R71). -/
def Tile.nibblesOk (t : Tile) (b : List Byte) : Bool :=
  !t.spm || (List.range t.rows).all fun i => (List.range (t.cols / 4)).all fun j => decide (t.nibble b i j % 4 < t.nibble b i j / 4)

/-- Where position k of a group lies among the two stored elements; none when it is skipped (R72). -/
def Tile.place (t : Tile) (b : List Byte) (i k : Nat) : Option Nat :=
  if t.spm then
    let n := t.nibble b i (k / 4)
    if k % 4 = n % 4 then some (2 * (k / 4)) else if k % 4 = n / 4 then some (2 * (k / 4) + 1) else none
  else some k

/-- The stored element at index n, as its bits (R36). -/
def Tile.raw (t : Tile) (b : List Byte) (n : Nat) : Nat :=
  let w := typeBits t.type
  ofBytes ((b.drop (64 + n * w / 8)).take 2) / 2 ^ (n * w % 8) % 2 ^ w

/-- The ue4m3 scale of position k of row i; 1 where the tile has none (R37). -/
def Tile.scale (t : Tile) (b : List Byte) (i k : Nat) : XVal :=
  if t.scl = 1 then elemVal 16 (b.getD (up64 t.ends.1 + (i * t.cols + k) / 32) 0).toNat else .fin false 1 1

/-- The value of element (i, k) with its block scale applied (R37, R38, R72). -/
def Tile.value (t : Tile) (b : List Byte) (i k : Nat) : XVal :=
  let s := t.scale b i k
  match t.place b i k with
  | none => if s = .nan then .nan else .fin false 0 1
  | some p =>
    let v := elemVal t.type (t.raw b (i * t.stored + p))
    if t.scl = 1 then s.mul v else v

/-- Depth K of a k-step on two tiles (R216); none where MXIS meets 16-bit formats. -/
def depthK (a b : Tile) (sparse : Bool) : Nat :=
  match a.cls with
  | .h112 => 16
  | .w576 => 8
  | .n80 => (if a.fmt = 4 ∧ b.fmt = 4 then 64 else 32) * (if sparse then 2 else 1)

end Sys2Proof.Machine
end

