-- ==== Sys2Proof/Machine/Matrix.lean ====
section
/-! DEFINITION. The matrix engine's k-steps: MXI and MXIS, the order of issue, the fetch and its checks, insertion, and the
power grants (R20, R21, R124, R211-R224, R231-R235). -/

namespace Sys2Proof.Machine

/-! ## Control tokens (R124, R214) -/

/-- A field of a queued token. -/
def XTok.fl (t : XTok) (hi lo : Nat) : Nat := fld t.tok.toNat hi lo

/-- m of a token. -/
def XTok.rows (t : XTok) : Nat := 16 * 2 ^ t.fl 4 3
/-- n of a token. -/
def XTok.cols (t : XTok) : Nat := 16 * 2 ^ t.fl 6 5
/-- The last k-step's number. -/
def XTok.ks (t : XTok) : Nat := t.fl 14 7
/-- The frame base. -/
def XTok.fb (t : XTok) : Nat := t.fl 23 17
/-- The iteration tag's low 16 bits. -/
def XTok.tag (t : XTok) : Nat := t.fl 63 48
/-- Handle of A. -/
def XTok.ha (t : XTok) : Nat := t.fl 27 24
/-- Handle of B. -/
def XTok.hb (t : XTok) : Nat := t.fl 31 28
/-- Whether B lies in another core (R220). -/
def XTok.rem (t : XTok) : Bool := bitAt t.tok.toNat 32
/-- Whether the k-steps are multicast (R220). -/
def XTok.mcst (t : XTok) : Bool := bitAt t.tok.toNat 33

/-- Frames that an m × n product with base fb takes (R60). -/
def Core.span (k : Core) (fb m n : Nat) : Nat := (m / (k.frame fb).cls.bh) * (n / (k.frame fb).cls.bw)

/-- Frames of a token's range. -/
def Core.tokSpan (k : Core) (t : XTok) : Nat := k.span t.fb t.rows t.cols

/-- The frames of a range. -/
def Core.framesOf (k : Core) (fb n : Nat) : List Frame := (List.range n).map fun i => k.frame (fb + i)

/-- The queue a token stands in. -/
def Mx.xq (m : Mx) (q : Nat) : List XTok := if q = 0 then m.xq0 else m.xq1

/-- The engine with a queue replaced. -/
def Mx.setXq (m : Mx) (q : Nat) (l : List XTok) : Mx := if q = 0 then { m with xq0 := l } else { m with xq1 := l }

/-- A token in its place of the order of entry (R211). -/
def enterXq (t : XTok) : List XTok → List XTok
  | [] => [t]
  | u :: r => if t.since < u.since then t :: u :: r else u :: enterXq t r

/-- The state with core c's engine changed by f. -/
def State.modMx (s : State) (c : Nat) (f : Mx → Mx) : State := s.modCore c fun k => { k with mx := f k.mx }

/-- Whether a token's words are rejected when it fires (R124, R215). -/
def badToken (k : Core) (c : Nat) (t : XTok) : Bool :=
  let mgrp := fld t.att.toNat 31 16
  let rci := fld t.att.toNat 7 4
  decide (4 ≤ t.fl 2 0) || (t.mcst && !t.rem) || (!t.rem && (rci != 0 || mgrp != 0)) || (t.rem && rci == clusIdx c)
    || (!t.mcst && mgrp != 0) || (t.mcst && !bitAt mgrp (clusIdx c)) || decide (128 < t.fb + k.tokSpan t)

/-- CNT and TMR of a bin as they apply in a cycle (R438). -/
def Bin.trigger (x : Bin) (now : Nat) : Nat × Nat :=
  match x.trig with
  | some (t, c, m) => if t ≤ now then (c, m) else (x.cnt, x.tmr)
  | none => (x.cnt, x.tmr)

/-- The matrix queue of a bin (R431). -/
def Bin.xq (b : Bin) : Nat := fld b.dw0.toNat 27 27
/-- T: tokens per group (R431). -/
def Bin.toks (b : Bin) : Nat := fld b.dw0.toNat 26 25 + 1

/-- Whether a bin fixes a group in this cycle if its queue has the entries (R435, R437): the bin fires or fires now, the group has
rows, and those before it have read their tiles and sent their results. -/
def Bin.claims (x : Bin) (now : Nat) : Bool :=
  (x.state == .firing || (x.state == .opened && decide ((x.trigger now).1 ≤ x.r))) && decide (16 * x.fixed < x.r)
    && x.groups.all fun y => (y.adv || y.toRead == 0) && y.g % 2 != x.fixed % 2

/-- The entries of a queue that the bin unit takes in this cycle, before any firing (R211, R435). -/
def binEntries (k : Core) (now q : Nat) : Nat :=
  (k.rows.bins.filter fun p => p.2.xq == q && p.2.claims now).foldl
    (fun n p => if (k.mx.xq q).length + n + p.2.toks ≤ 8 then n + p.2.toks else n) 0

/-- MXI and MXIS (R211, R214, R215): the token takes an entry of the queue x names and stands in it from the next cycle
on; y receives A. -/
def mxiNode (s : State) (sparse : Bool) : Res :=
  withNode s true fun q =>
    let qn := if q.f.x = 13 then 1 else 0
    if q.e then fireError s q 1
    else if q.x then nodeFault s q 1
    else if 8 ≤ ((s.core q.core).mx.xq qn).length + binEntries (s.core q.core) s.now qn then s
    else
      let (id, s) := s.fresh
      let t : XTok := ⟨id, q.bl 0 ++ q.a.lane 0, q.lit, sparse, 0, none, s.now + 1⟩
      if badToken (s.core q.core) q.core t then nodeFault s q 1
      else finish (s.modMx q.core fun m => m.setXq qn (enterXq t (m.xq qn))) q 1 q.a.val

/-- MXI (R214). -/
def execMxi (_ : NF) (s : State) : Res := mxiNode s false
/-- MXIS (R214). -/
def execMxis (_ : NF) (s : State) : Res := mxiNode s true

/-! ## Candidates (R217, R220, R221) -/

/-- The interval and the latency to settle of an m × n k-step (R233). -/
def kTime (mn : Nat) : Nat × Nat :=
  if mn ≤ 2048 then (4, 12) else if mn ≤ 4096 then (8, 16) else if mn ≤ 8192 then (16, 24) else (32, 40)

/-- The consumer advances that matrix engines have still to make on a core's handle (R217). -/
def Core.pending (k : Core) (h : Nat) : Nat := (k.waits.filter fun w => w.op == 0x186 && w.h == h).length

/-- Whether a wait of a k-step for w slots of a handle is met, or could never be (R221). -/
def fillMet (k : Core) (h w : Nat) : Bool :=
  let hd := k.handle h
  w == 0 || !hd.v || decide (hd.cnt + 1 < w) || decide (w ≤ hd.fill)

/-- The slot that k-step n of a token reads of a handle: HEAD when it advances, else HEAD + n (R217). -/
def slotFor (k : Core) (h n : Nat) (adv : Bool) : Nat :=
  let hd := k.handle h
  if !hd.v then 0 else (hd.head + (if adv then 0 else n)) % (hd.cnt + 1)

/-- The core whose handle B is read from (R220). -/
def XTok.owner (t : XTok) (c : Nat) : Nat := if t.rem then clusCore c (fld t.att.toNat 7 4) else c

/-- The cores of a multicast k-step, in ascending index (R220). -/
def XTok.members (t : XTok) (c : Nat) : List Nat :=
  if t.mcst then ((List.range 16).filter fun i => bitAt (fld t.att.toNat 31 16) i).map (clusCore c) else []

/-- Whether core d runs the same launch as core c. -/
def sameLaunch (s : State) (c d : Nat) : Bool := (s.core c).launch == (s.core d).launch

/-- Whether R62 lets a k-step with this ACC issue on a frame now. -/
def Frame.permits (f : Frame) (acc : Bool) : Bool := acc || f.state != .accumulating || f.inflight == 0

/-- ACC of a token's next k-step (R62). -/
def XTok.acc (t : XTok) : Bool := t.next != 0 || bitAt t.tok.toNat 15

/-- Whether a token's next k-step has its fill counts (R217, R220). -/
def fillsMet (s : State) (c : Nat) (t : XTok) : Bool :=
  let o := t.owner c
  fillMet (s.core c) t.ha (t.fl 40 34) && (!sameLaunch s c o || fillMet (s.core o) t.hb (t.fl 47 41))

/-- Whether core c's engine has still to make the consumer advances of its last fetch, after which the next one begins (R217). -/
def advancing (s : State) (c : Nat) : Bool :=
  ((List.range 16).map (clusCore c)).any fun d => (s.core d).waits.any fun w => w.op == 0x186 && w.att == word c

/-- Whether a token's next k-step is ready but for a multicast rendezvous (R217, R221). -/
def readyAlone (s : State) (c : Nat) (t : XTok) : Bool :=
  let k := s.core c
  !advancing s c && k.pending t.ha == 0 && (s.core (t.owner c)).pending t.hb == 0 && fillsMet s c t && (k.framesOf t.fb (k.tokSpan t)).all (·.permits t.acc)
    && !(k.mx.locked.any fun f => decide (t.fb ≤ f) && decide (f < t.fb + k.tokSpan t))

/-- The candidates of a queue: next k-steps of its first four tokens whose frames no earlier one of the window uses. -/
def candidates (k : Core) (now q : Nat) : List XTok :=
  let w := ((k.mx.xq q).filter fun t => decide (t.since ≤ now)).take 4
  if k.mx.halted.contains q then [] else
  (List.range w.length).filterMap fun i =>
    (w[i]?).bind fun t =>
      if (w.take i).all fun u => decide (u.fb + k.tokSpan u ≤ t.fb) || decide (t.fb + k.tokSpan t ≤ u.fb) then some t else none

/-- What a multicast k-step reads: the owner, its handle and slot, and its members (R220). -/
def XTok.target (s : State) (c : Nat) (t : XTok) : Nat × Nat × Nat × List Nat :=
  (t.owner c, t.hb, slotFor (s.core (t.owner c)) t.hb t.next (bitAt t.att.toNat 1), t.members c)

/-- A token of a core by its number. -/
def Core.xtok (k : Core) (id : Nat) : Option XTok := (k.mx.xq0 ++ k.mx.xq1).find? (·.id == id)

/-- What the multicast k-step that a core has selected reads (R220). -/
def Core.chosen (k : Core) : Option (Nat × Nat × Nat × List Nat) :=
  match k.mx.sel with
  | some x => if x.group.isEmpty then none else (k.xtok x.tokId).map fun t => (x.owner, t.hb, x.slotB, x.group)
  | none => none

/-- Whether member d has selected the k-step that names this target, or has it ready with no other multicast k-step selected. -/
def meets (s : State) (d : Nat) (g : Nat × Nat × Nat × List Nat) : Bool :=
  let k := s.core d
  match k.chosen with
  | some h => h == g
  | none => (candidates k s.now 0 ++ candidates k s.now 1).any fun t => t.mcst && t.target s d == g && readyAlone s d t

/-- Whether another member has selected the multicast k-step that a token's next one belongs to. -/
def joins (s : State) (c : Nat) (t : XTok) : Bool :=
  t.mcst && (t.members c).any fun d => d != c && sameLaunch s c d && (s.core d).chosen == some (t.target s c)

/-- Whether a candidate is ready (R221); a member outside the group is not waited for, since the issue faults (R215). -/
def readyTok (s : State) (c : Nat) (t : XTok) : Bool :=
  readyAlone s c t && (!t.mcst || (t.members c).all fun d => d == c || !sameLaunch s c d || meets s d (t.target s c))

/-- What a queue offers: its ready candidate of lowest TAG, the earlier on equal TAG (R221). -/
def offered (s : State) (c q : Nat) : Option XTok :=
  leastBy (fun a b => decide (a.tag < b.tag)) ((candidates (s.core c) s.now q).filter (readyTok s c))

/-- The multicast k-step of a core that takes precedence (R220): one that another member has selected, else the one of lowest TAG in
xq0, then in xq1 (DESIGN CHOICE, log 17). A core that a stop wave has reached still joins the others (R232). -/
def rendezvous (s : State) (c : Nat) : Option (Nat × XTok) :=
  let k := s.core c
  let ready := [0, 1].flatMap fun q => ((candidates k s.now q).filter fun t => t.mcst && readyTok s c t).map fun t => (q, t)
  let key := fun (p : Nat × XTok) => b2n (!joins s c p.2) * 2 ^ 17 + p.1 * 2 ^ 16 + p.2.tag
  leastBy (fun a b => decide (key a < key b)) (ready.filter fun p => !k.stopped || joins s c p.2)

/-! ## Selection (R222, R235) -/

/-- The shares after queue q was chosen between (R222). -/
def Mx.spend (m : Mx) (q : Nat) : Mx :=
  let c0 := if q = 0 then m.c0 - 1 else m.c0
  let c1 := if q = 1 then m.c1 - 1 else m.c1
  if c0 = 0 ∧ c1 = 0 then { m with c0 := m.w0, c1 := m.w1 } else { m with c0 := c0, c1 := c1 }

/-- The lines that a k-step reads of the tile in a slot of a handle, by the header that stands there now: runs of addresses with their
numbers, header, data and scales, then the metadata; a drain vector between them is not read (R218, R235). -/
def tileLines (s : State) (c h slot : Nat) (isB : Bool) : List (Nat × Nat) :=
  let hd := (s.core c).handle h
  if !hd.v then [] else
  let a := hd.slotAddr slot
  let n := (hd.ssz + 1) * 64
  match readTile (ofBytes (s.scratch c a 8)) isB with
  | some t =>
    let (_, e, v, m) := t.ends
    (a, ceilDiv (min e n) 64) :: if t.spm && decide (up64 v < n) then [(a + up64 v, ceilDiv (min m n - up64 v) 64)] else []
  | none => [(a, 1)]

/-- The most lines that fall in one scratch bank (R235). -/
def bankLoad (l : List (Nat × Nat)) : Nat :=
  (List.range 32).foldl (fun m b =>
    max m (l.foldl (fun n p => n + (p.2 + 31 - (b + 32 - p.1 / 64 % 32) % 32) / 32) 0)) 0

/-- A grant request (R20, R224): one at a time, in order of cycle and core. -/
def requestGrant (s : State) (c : Nat) : State :=
  if (s.core c).mx.requested then s else
  let e := s.now * 1024 + c
  let s := s.modMx c fun m => { m with requested := true }
  (s.modDie (dieOf c) fun d => { d with waiting := d.waiting.filter (· ≤ e) ++ [e] ++ d.waiting.filter (fun x => !decide (x ≤ e)) }).after 0
    .governorGrant [dieOf c]

/-- Adds to a counter of MXST (R231). -/
def Mx.bump (m : Mx) (n v : Nat) : Mx := { m with cnt := AMap.put m.cnt n ((AMap.get m.cnt n 0 + v) % 2 ^ 32) }

/-- KSTEP_SELECT (R222): the engine of core [core] selects its next k-step, when none is selected and one is ready, and
starts its fetch. -/
def execKstepSelect (s : State) : Res :=
  let c := s.arg 0
  let k := s.core c
  if k.mx.sel.isSome ∨ k.launch.isNone then .next s else
  let pick := match rendezvous s c, (if k.stopped then none else offered s c 0), (if k.stopped then none else offered s c 1) with
    | some p, _, _ => some (p.1, p.2, k.mx)
    | none, some a, some b => if k.mx.c1 ≤ k.mx.c0 then some (0, a, k.mx.spend 0) else some (1, b, k.mx.spend 1)
    | none, some a, none => some (0, a, k.mx.spend 0)
    | none, none, some b => some (1, b, k.mx.spend 1)
    | none, none, none => none
  match pick with
  | none => .next s
  | some (q, t, m) =>
    let o := t.owner c
    let sa := slotFor k t.ha t.next (bitAt t.att.toNat 0)
    let sb := slotFor (s.core o) t.hb t.next (bitAt t.att.toNat 1)
    let la := tileLines s c t.ha sa false
    let lb := if sameLaunch s c o then tileLines s o t.hb sb true else []
    let local_ := max 1 (bankLoad (if t.rem then la else la ++ lb))
    let fetch := if t.rem then max local_ (ceilDiv ((lb.map (·.2)).foldl (· + ·) 0) 4) + 18 else local_
    let sel : Sel := ⟨q, t.id, t.next, s.now + fetch, false, [], 0, bitAt t.tok.toNat 1, 0, .n80, o, sa, sb, t.members c, 0⟩
    let s := s.modMx c fun _ => { m.bump 3 (local_ - max 1 (m.arrayFree - s.now)) with sel := some sel }
    let s := if k.mx.balance < (kTime (t.rows * t.cols)).1 then requestGrant s c else s
    .next (s.after fetch .kstepFetch [c, t.id, t.next])

/-! ## Fetch (R216-R220) -/

/-- The frame conditions of a k-step (R58, R62, R218): the cause of its fault. -/
def Frame.refuses (f : Frame) (acc : Bool) (texp : Int) (k : Nat) : Option Nat :=
  if !acc then none
  else if f.state = .empty ∨ f.state = .spilled then some 2
  else if f.state = .zeroed then none
  else if f.fexp ≠ texp then some 4
  else if f.cls.limit < f.pcnt + k then some 5
  else none

/-- The contribution to element (i, j) of a k-step (R216). -/
def dot (cls : Cls) (neg : Bool) (a b : List XVal) : Elem :=
  let e := (a.zip b).foldl (fun (e : Elem) p =>
    let x := cls.exactProduct p.1 p.2
    ⟨e.v + x.v, e.nan || x.nan, e.pinf || x.pinf, e.ninf || x.ninf, false⟩) Elem.zero
  if neg then e.negate else e

/-- The contributions of a k-step, by frame and element (R60, R216, R219). -/
def products (cls : Cls) (fb n : Nat) (neg : Bool) (a b : List (List XVal)) : List (Nat × Nat × Elem) :=
  ((List.range a.length).zip a).flatMap fun p =>
    ((List.range b.length).zip b).filterMap fun r =>
      let e := dot cls neg p.2 r.2
      if e = Elem.zero then none
      else some (fb + p.1 / cls.bh * (n / cls.bw) + r.1 / cls.bw, p.1 % cls.bh * cls.bw + r.1 % cls.bw, e)

/-- The fields of a k-step that its tiles give: class, depth, tile sum, contributions. -/
structure KStep where
  cls : Cls
  k : Nat
  texp : Int
  contrib : List (Nat × Nat × Elem)
  rows : Nat
  deriving DecidableEq, Repr

/-- TILE_CHECK and the products of a k-step (R71, R216, R218): the cause of a fault, or what it inserts. Where several checks fail at
once the spec names no order; the model takes the first in the order written here (DESIGN CHOICE, log 17). -/
def tileCheck (s : State) (c : Nat) (t : XTok) (x : Sel) : Except Nat KStep :=
  let ha := (s.core c).handle t.ha
  let hb := (s.core x.owner).handle t.hb
  if !ha.v ∨ !hb.v ∨ ha.cnt + 1 < t.fl 40 34 ∨ hb.cnt + 1 < t.fl 47 41 then .error 18 else
  let na := (ha.ssz + 1) * 64
  let nb := (hb.ssz + 1) * 64
  let ba := s.scratch c (ha.slotAddr x.slotA) na
  let bb := s.scratch x.owner (hb.slotAddr x.slotB) nb
  match readTile (ofBytes (ba.take 8)) false, readTile (ofBytes (bb.take 8)) true with
  | some a, some b =>
    let k := s.core c
    let frames := k.framesOf t.fb (k.tokSpan t)
    let kd := depthK a b t.sparse
    if a.cls ≠ b.cls ∨ frames.any (·.cls != a.cls) then .error 4
    else if a.cols ≠ kd ∨ b.cols ≠ kd ∨ b.rows ≠ t.cols ∨ (if x.rag then t.rows < a.rows else a.rows ≠ t.rows) ∨ a.spm ≠ t.sparse then
      .error 4
    else if na < a.span ∨ nb < b.span then .error 6
    else if !a.nibblesOk ba then .error 3
    else
      let texp := a.texp + b.texp
      match frames.findSome? (·.refuses t.acc texp kd) with
      | some e => .error e
      | none =>
        let rowsA := (List.range a.rows).map fun i => (List.range kd).map (a.value ba i)
        let rowsB := (List.range b.rows).map fun j => (List.range kd).map (b.value bb j)
        .ok ⟨a.cls, kd, texp, products a.cls t.fb t.cols (bitAt t.tok.toNat 0) rowsA rowsB, a.rows⟩
  | _, _ => .error 3

/-- A fault of a k-step (R218): the queue stops at it and nothing is inserted. -/
def kFault (s : State) (c : Nat) (t : XTok) (q cause : Nat) : State :=
  let s := s.modMx c fun m => { m with sel := none, halted := q :: m.halted }
  s.raise { cause := cause, origin := 4 + q, core := c, tag := t.tag, detail := t.tag + t.next * 2 ^ 16 + t.fb * 2 ^ 24 }

/-- A multicast k-step of core c has faulted at its fetch: it issues on no member, and those that have selected it hold it no longer. -/
def dropMates (s : State) (c : Nat) (x : Sel) : State :=
  (x.group.filter fun d => d != c && (s.core d).chosen.isSome && (s.core d).chosen == (s.core c).chosen).foldl
    (fun s d => s.modMx d fun m => { m with sel := none }) s

/-- A consumer advance of core c's handle by the matrix engine of core e, made within the order of R195 (R217). -/
def advanceWait (s : State) (e c h : Nat) : State :=
  let (id, s) := s.fresh
  s.modCore c fun k => { k with waits := k.waits ++ [⟨id, 0x186, h, 1, [], word e, 0, 0, 0, ⟨[], ⟨0, 0⟩, none, false, false, false⟩, [], false⟩] }

/-- The core with group g of bin b changed by f. -/
def Core.modGroup (k : Core) (b g : Nat) (f : BGroup → BGroup) : Core :=
  match AMap.find? k.rows.bins b with
  | none => k
  | some x =>
    let x : Bin := { x with groups := x.groups.map fun y => if y.g = g then f y else y }
    { k with rows := { k.rows with bins := AMap.put k.rows.bins b x } }

/-- KSTEP_FETCH (R217, R218): the fetch of the selected k-step [core, token, s] ends: its tiles are checked and read, ADV
operands advance; a remote owner's handle advances once, after every member's fetch (R220). -/
def execKstepFetch (s : State) : Res :=
  let c := s.arg 0
  let k := s.core c
  match k.mx.sel, k.xtok (s.arg 1) with
  | some x, some t =>
    if x.tokId ≠ t.id ∨ x.s ≠ s.arg 2 ∨ x.fetched ∨ s.now < x.fetchEnd then .next s else
    if !sameLaunch s c x.owner then .next (s.modMx c fun m => { m with sel := some { x with fetched := true } }) else
    match tileCheck s c t x with
    | .error e => .next (kFault (dropMates s c x) c t x.q e)
    | .ok r =>
      let x := { x with fetched := true, contrib := r.contrib, k := r.k, texp := r.texp, cls := r.cls, rows := r.rows }
      let s := s.modMx c fun m => { m with sel := some x }
      let s := if bitAt t.att.toNat 0 then advanceWait s c c t.ha else s
      let lastOne := x.group.all fun d => d == c ||
        ((s.core d).chosen == (s.core c).chosen && ((s.core d).mx.sel.map (·.fetched)).getD false)
      let s := if bitAt t.att.toNat 1 ∧ lastOne then advanceWait s c x.owner t.hb else s
      match t.bin with
      | some (b, g) => .next (if x.s = t.ks then s.modCore c fun k => k.modGroup b g fun y => { y with toRead := y.toRead - 1 } else s)
      | none => .next s
  | _, _ => .next s

/-! ## Issue and completion (R57, R58, R62, R224) -/

/-- Whether a core's selected k-step may issue now but for its grant balance and the other members (R62, R235). -/
def issueReady (s : State) (c : Nat) : Bool :=
  let k := s.core c
  match k.mx.sel with
  | none => false
  | some x =>
    match k.xtok x.tokId with
    | none => false
    | some t => x.fetched && decide (x.fetchEnd ≤ s.now) && decide (k.mx.arrayFree ≤ s.now)
        && (k.framesOf t.fb (k.tokSpan t)).all (·.permits t.acc)

/-- Whether the balance covers the selected k-step (R224). -/
def covered (k : Core) : Bool :=
  match k.mx.sel.bind fun x => k.xtok x.tokId with
  | none => false
  | some t => decide ((kTime (t.rows * t.cols)).1 ≤ k.mx.balance)

/-- The cores that issue together with core c: a multicast group, or c alone (R220). -/
def issuers (s : State) (c : Nat) : List Nat :=
  match (s.core c).mx.sel with
  | some x => if x.group.isEmpty then [c] else x.group.filter (sameLaunch s c)
  | none => []

/-- Whether every issuer can issue in this cycle, each for the same multicast k-step. -/
def allIssue (s : State) (c : Nat) : Bool :=
  !(issuers s c).isEmpty && (issuers s c).all fun d => issueReady s d && covered (s.core d) && (s.core d).chosen == (s.core c).chosen

/-- Whether every issuer can issue but for its balance (R224). -/
def onlyPower (s : State) (c : Nat) : Bool :=
  !(issuers s c).isEmpty && (issuers s c).all fun d => issueReady s d && (s.core d).chosen == (s.core c).chosen

/-- A frame as a k-step issues on it (R62); keep names the elements that ACC = 0 leaves alone, those of rows that the A tile does not
have (R219). -/
def Frame.issue (f : Frame) (acc : Bool) (texp : Int) (k : Nat) (lst : Bool) (keep : Nat → Bool) : Frame :=
  if !acc then { f with state := .accumulating, inflight := 1, lst := lst, pcnt := k, fexp := texp, elems := f.elems.filter fun p => keep p.1 }
  else if f.state = .zeroed then { f with state := .accumulating, inflight := 1, lst := lst, pcnt := k, fexp := texp }
  else { f with state := .accumulating, inflight := f.inflight + 1, lst := f.lst || lst, pcnt := f.pcnt + k }

/-- The core with each frame of a range changed by f. -/
def Core.mapFrames (k : Core) (fb n : Nat) (f : Frame → Frame) : Core :=
  (List.range n).foldl (fun k i => k.setFrame (fb + i) (f (k.frame (fb + i)))) k

/-- The frames of a token's range as its selected k-step issues on them (R62, R219). -/
def Core.issueFrames (k : Core) (t : XTok) (x : Sel) (lst : Bool) : Core :=
  (List.range (k.tokSpan t)).foldl (fun k i =>
    let f := k.frame (t.fb + i)
    let keep := fun (e : Nat) => decide (x.rows ≤ i / (t.cols / f.cls.bw) * f.cls.bh + e / f.cls.bw)
    k.setFrame (t.fb + i) (f.issue t.acc x.texp x.k lst keep)) k

/-- The issue of core c's selected k-step, with the frame checks made again (R62, R215, R218, R225). -/
def issueOne (s : State) (c : Nat) : State :=
  let k := s.core c
  match k.mx.sel with
  | none => s
  | some x =>
    match k.xtok x.tokId with
    | none => s
    | some t =>
      let n := k.tokSpan t
      let frames := k.framesOf t.fb n
      if !sameLaunch s c x.owner ∨ x.group.any (fun d => !sameLaunch s c d) then kFault s c t x.q 6
      else if frames.any (·.cls != x.cls) ∨ 128 < t.fb + n then kFault s c t x.q 4
      else match frames.findSome? (·.refuses t.acc x.texp x.k) with
      | some e => kFault s c t x.q e
      | none =>
        let (i, lat) := kTime (t.rows * t.cols)
        let lst := bitAt t.tok.toNat 16 && x.s == t.ks
        let (id, s) := s.fresh
        let k := (s.core c).issueFrames t x lst
        let bin := if lst then t.bin else none
        let fl : KFlight := ⟨id, (List.range n).map (t.fb + ·), x.contrib, t.id, bin⟩
        let q := (k.mx.xq x.q).filterMap fun u =>
          if u.id = t.id then (if t.ks ≤ x.s then none else some { u with next := u.next + 1 }) else some u
        let m := (((k.mx.setXq x.q q).bump 0 1).bump 1 i)
        let m := { m with sel := none, balance := m.balance - i, arrayFree := s.now + i, lastIssue := s.now, flights := m.flights ++ [fl] }
        let s := s.setCore c { k with mx := m }
        let s := s.modDie (dieOf c) fun d => { d with d := d.d - i }
        let s := if (s.die (dieOf c)).waiting.isEmpty then s else s.after 0 .governorGrant [dieOf c]
        let left := !(candidates (s.core c) s.now 0).isEmpty || !(candidates (s.core c) s.now 1).isEmpty
        let s := if m.balance < 64 ∧ left then requestGrant s c else s
        ((s.after lat .kstepComplete [c, id])).after 0 .kstepSelect [c]

/-- KSTEP_ISSUE (R62, R222, R224): the selected k-step of core [core] issues once its fetch, the array and its balance let
it, a multicast one on every member together. -/
def execKstepIssue (s : State) : Res :=
  let c := s.arg 0
  if allIssue s c then .next ((issuers s c).foldl issueOne s) else .next s

/-- KSTEP_COMPLETE (R55, R57, R62): the contributions of flight [core, id] are inserted; a frame with none left in flight
and LST-issued set settles. -/
def execKstepComplete (s : State) : Res :=
  let c := s.arg 0
  match (s.core c).mx.flights.find? (·.id == s.arg 1) with
  | none => .next s
  | some fl =>
    let s := s.modMx c fun m => { m with flights := m.flights.filter (·.id != fl.id) }
    let k := fl.contrib.foldl (fun k p => k.setFrame p.1 ((k.frame p.1).insertAt p.2.1 p.2.2)) (s.core c)
    let done := fun (f : Frame) =>
      let f := { f with inflight := f.inflight - 1 }
      if f.inflight = 0 ∧ f.lst then f.settle else f
    let k := fl.frames.foldl (fun k n => k.setFrame n (done (k.frame n))) k
    let s := s.setCore c k
    match fl.bin with
    | some (b, g) => .next (s.modCore c fun k => k.modGroup b g fun y => { y with toSettle := y.toSettle - 1 })
    | none => .next s

/-! ## Power grants (R20, R21, R224) -/

/-- The requests a die can grant now: D grows by 256 for each (R21). -/
def grantHeads : List Nat → Nat → Nat → List Nat × List Nat × Nat
  | [], _, d => ([], [], d)
  | e :: r, cap, d =>
    if d + 256 ≤ cap then
      let (g, w, d) := grantHeads r cap (d + 256)
      (e % 1024 :: g, w, d)
    else ([], e :: r, d)

/-- GOVERNOR_GRANT (R20, R21): die [die] grants the requests at the head of its queue while D + 256 ≤ CAP; each grant
reaches its engine 4 cycles later. -/
def execGovernorGrant (s : State) : Res :=
  let d := s.arg 0
  let x := s.die d
  let (g, w, n) := grantHeads x.waiting x.cap x.d
  .next (g.foldl (fun s c => s.after 4 .grantArrival [c]) (s.modDie d fun k => { k with waiting := w, d := n }))

/-- GRANT_ARRIVAL (R224): a grant of 256 array cycles reaches the engine of core [core]; the 64 idle cycles of a return
count from it (DEDUCED, log 17). -/
def execGrantArrival (s : State) : Res :=
  .next (s.modMx (s.arg 0) fun m => { m with balance := m.balance + 256, requested := false, lastIssue := max m.lastIssue s.now })

/-- The engine of core c returns its balance (R224). -/
def returnBalance (s : State) (c : Nat) : State :=
  let b := (s.core c).mx.balance
  if b = 0 then s else
  let s := s.modMx c fun m => { m with balance := 0 }
  let s := s.modDie (dieOf c) fun d => { d with d := d.d - b }
  if (s.die (dieOf c)).waiting.isEmpty then s else s.after 0 .governorGrant [dieOf c]

/-- BALANCE_RETURN (R224): after 64 cycles in which no k-step issued, core [core]'s balance goes back; or at once when the
group stops and no selected k-step remains (R232). -/
def execBalanceReturn (s : State) : Res :=
  let c := s.arg 0
  let k := s.core c
  if k.mx.lastIssue + 64 ≤ s.now ∨ ((k.stopped ∨ k.gated) ∧ k.mx.sel.isNone) then .next (returnBalance s c) else .next s

/-- The conditions of R21 on readings in whole degrees: the least reading at which one holds, the reading 3 degrees below its
threshold, and the sixteenths of CAP it leaves; die hotspot three times, coolant supply. -/
def heatLimits : List (Nat × Nat × Nat) := [(95, 92, 12), (100, 97, 8), (105, 102, 4), (41, 37, 8)]

/-- One condition after a reading: it holds from reading lim on, and lifts when the readings have stayed at or below calm for
2^20 cycles (R21). -/
def heatStep (now lim calm temp : Nat) (h : Bool × Nat) : Bool × Nat :=
  if lim ≤ temp then (true, now)
  else if calm < temp then (h.1, now)
  else if h.1 ∧ now < h.2 + 2 ^ 20 then h
  else (false, h.2)

/-- CAP_UPDATE (R21): die [die]'s CAP by the lowest factor that applies; the sensors' readings are free, the die's hotspot for each die,
the coolant's supply and flow for the module, which all dies read in the same cycle (log 2). -/
def execCapUpdate (s : State) : Res :=
  let d := s.arg 0
  let (n, s) := s.freeArg
  let hot := Config.sensor (4 * n)
  let supply := Config.sensor (4 * s.now + 1)
  let x := s.die d
  let heat := ((List.range 4).zip heatLimits).map fun p =>
    heatStep s.now p.2.1 p.2.2.1 (if p.1 < 3 then hot else supply) (x.heat.getD p.1 (false, 0))
  let f := ((heat.zip heatLimits).filterMap fun p => if p.1.1 then some (5120 * p.2.2.2) else none).foldl min x.opCap
  let f := if Config.sensor (4 * s.now + 2) = 0 then min f 20480 else f
  .next ((s.modDie d fun k => { k with heat := heat, cap := f }).after 0 .governorGrant [d])

/-- OPERATOR_CAP (R21, R458): an operator sets a cap f of 1/16 to 1 of the allotment on die [die], as [cycles] = floor(81,920 × f); CAP
follows at the next CAP_UPDATE. -/
def execOperatorCap (s : State) : Res :=
  let n := s.arg 1
  .next (if 5120 ≤ n ∧ n ≤ 81920 then s.modDie (s.arg 0) fun k => { k with opCap := n } else s)

/-! ## The engine's cycle -/

/-- The late part of a cycle for core c's frame queue: its head starts, before any k-step issues in the cycle (R63). -/
def fqCycle (s : State) (c : Nat) : State :=
  let k := s.core c
  if !k.mx.fq.isEmpty && decide (k.mx.fqBusy ≤ s.now) && !k.stopped && !popWaits s c && !k.mx.halted.contains 2 then s.after 0 .fqEntryStart [c] else s

/-- The late part of a cycle for core c's engine: the issue, the selection, the grant, and the counters of R231; each posts its event for
this cycle. -/
def mxCycle (s : State) (c : Nat) : State :=
  let k := s.core c
  if k.launch.isNone then s else
  let s := if k.mx.sel.isSome && !covered k then requestGrant s c else s
  let s := if allIssue s c then s.after 0 .kstepIssue [c] else s
  let own := issueReady s c
  let s := if own && !covered k && onlyPower s c then s.modMx c (·.bump 2 1) else s
  let s := if own && covered k && !allIssue s c then s.modMx c (·.bump 9 1) else s
  let cands := candidates k s.now 0 ++ candidates k s.now 1
  let s := if k.mx.sel.isNone && (if k.stopped then (rendezvous s c).isSome else !popWaits s c && cands.any (readyTok s c)) then s.after 0 .kstepSelect [c] else s
  let idle := k.mx.sel.isNone && !k.stopped && !cands.any (readyTok s c)
  let s := if idle && cands.any (fun t => !fillsMet s c t) then s.modMx c (·.bump 4 1) else s
  let s := if idle && cands.any (readyAlone s c) then s.modMx c (·.bump 9 1) else s
  if k.mx.balance != 0 && (decide (k.mx.lastIssue + 64 ≤ s.now) || ((k.stopped || k.gated) && k.mx.sel.isNone)) then s.after 0 .balanceReturn [c] else s

end Sys2Proof.Machine
end

