-- ==== Sys2Proof/Machine/FrameQueue.lean ====
section
/-! DEFINITION. The frame queue: its eleven node operations and what each does when its entry starts (R62-R68, R73, R211,
R213, R223-R232, R234). -/

namespace Sys2Proof.Machine

/-- Shaker states after n roundings that use them lane by lane, from lane r mod 16 on (R49). -/
def shakeOn : Nat → Nat → List Word → List Word
  | 0, _, sh => sh
  | n + 1, r, sh => shakeOn n (r + 1) (sh.set (r % 16) (shakerNext (sh.getD (r % 16) 0)))

/-- A word's lane of an operand token. -/
def laneOf (t : Option Token) (l : Nat) : Nat := match t with | some x => (x.data.getD l 0).toNat | none => 0

/-- Where a drain writes: its base, its slot's address with PUT, and its pitch (R228). -/
def drainBase (k : Core) (lit : Nat) (b : Option Token) : Nat × Nat :=
  let h := fld lit 31 28
  let hd := k.handle h
  let ahead := (k.waits.filter fun w => w.op == 0x185 && w.h == h).length
  (if bitAt lit 27 then hd.slotAddr ((hd.tail + ahead) % (hd.cnt + 1)) else laneOf b 0, laneOf b 1)

/-- The cause of the error token that a drain with this attribute and these operands ends in (R228); none where it drains. -/
def drainCause (k : Core) (lit : Nat) (b : Option Token) (fb : Nat) : Option Nat :=
  let m := 16 * 2 ^ (lit % 4)
  let n := 16 * 2 ^ fld lit 3 2
  let hd := k.handle (fld lit 31 28)
  let sz := typeBits (fld lit 23 20) / 8
  let put := bitAt lit 27
  let (base, pitch) := drainBase k lit b
  let last := base + (m - 1) * pitch + n * sz
  let use := fun i => bitAt lit (4 + i)
  let cnt := fun i => if i = 2 then n else m
  let off := fun i => laneOf b (2 + i)
  if 128 < fb + k.span fb m n then some 19
  else if put && !hd.v then some 18
  else if pitch < n * sz ∨ 2 ^ 21 < last ∨ (put ∧ base + (hd.ssz + 1) * 64 < last)
      ∨ (List.range 3).any (fun i => use i && decide (2 ^ 21 < off i + 4 * cnt i)) then some 6
  else if base % sz ≠ 0 ∨ pitch % sz ≠ 0 ∨ (List.range 3).any (fun i => use i && off i % 4 != 0) then some 16
  else none

/-- A firing that may enter the frame queue (R211-R213): E gives an error token, X faults, a bad word of A is FRAME_RANGE,
a full queue leaves the node not ready. The entry in service counts until its hold ends. The SR roundings of an MXDR take their Shaker
states now, in the order of its PE's firings (R50), unless it is to end in an error token and rounds nothing (R49). -/
def fqNode (s : State) (op : Nat) (bad : Core → Nat → Firing → Bool) : Res :=
  withNode s true fun q =>
    let k := s.core q.core
    if q.e then fireError s q 1
    else if q.x then nodeFault s q 1
    else if bad k (q.a.lane 0).toNat q then fireFail s q 1 19
    else if 8 ≤ k.mx.fq.length + (if s.now < k.mx.fqBusy then 1 else 0) then s
    else
      let (outs, s) := startHeld s q
      let (id, s) := s.fresh
      let a := { q.plain with data := if q.a.vec then q.a.lanes else [q.a.lane 0], side := none }
      let b : Option Token := q.b.map fun o => ⟨o.lanes, q.btag, none, false, false, false⟩
      let lit := q.lit.toNat
      let rm := s.rnd q.core (fld lit 18 16)
      let rounds := op = 0x95 ∧ rm = 5 ∧ (drainCause k lit b (q.a.lane 0).toNat).isNone
      let sh := if rounds then s.shaker q.core q.pe else []
      let s := if sh.isEmpty then s else s.setShaker q.core q.pe (shakeOn (256 * 2 ^ (lit % 4 + fld lit 3 2)) 0 sh)
      let e : FqEnt := ⟨id, op, q.lit, q.cctx, q.pe, q.slot, q.tag, a, b, outs, rm, sh⟩
      s.modMx q.core fun m => { m with fq := m.fq ++ [e] }

/-- A frame word's checks (R213). -/
def badFrameWord (w : Nat) : Bool := decide (2 ^ 15 ≤ w) || bitAt w 7 || decide (127 < w % 128 + fld w 14 8)

/-- An element word's checks (R213). -/
def badElemWord (k : Core) (w : Nat) : Bool :=
  let c := (k.frame (w % 128)).cls
  decide (2 ^ 17 ≤ w) || bitAt w 7 || decide (c.count ≤ fld w 15 8) || (bitAt w 16 && c != .w576)

/-- MXZ (R225). -/
def execMxz (_ : NF) (s : State) : Res := fqNode s 0x92 fun _ w _ => badFrameWord w
/-- MXPEEK (R227). -/
def execMxpeek (_ : NF) (s : State) : Res := fqNode s 0x93 fun k w _ => badElemWord k w
/-- MXRD (R227). -/
def execMxrd (_ : NF) (s : State) : Res := fqNode s 0x94 fun k w _ => badElemWord k w
/-- MXDR (R228). -/
def execMxdr (_ : NF) (s : State) : Res := fqNode s 0x95 fun _ w _ => decide (128 ≤ w)
/-- MXSPL (R229). -/
def execMxspl (_ : NF) (s : State) : Res := fqNode s 0x96 fun _ w _ => badFrameWord w
/-- MXFIL (R229). -/
def execMxfil (_ : NF) (s : State) : Res := fqNode s 0x97 fun _ w _ => badFrameWord w
/-- MXADD (R213, R230): SRC 3 names a second range by B. -/
def execMxadd (_ : NF) (s : State) : Res := fqNode s 0x98 fun _ w q =>
  badFrameWord w || (q.lit.toNat % 4 == 3 && (decide (128 ≤ (q.bl 0).toNat) || decide (127 < (q.bl 0).toNat + fld w 14 8)))
/-- MXCLS (R225). -/
def execMxcls (_ : NF) (s : State) : Res := fqNode s 0x99 fun _ w _ => badFrameWord w
/-- MXST (R231). -/
def execMxst (_ : NF) (s : State) : Res := fqNode s 0x9A fun _ _ _ => false
/-- MXWT (R226). -/
def execMxwt (_ : NF) (s : State) : Res := fqNode s 0x9B fun _ w _ => badFrameWord w
/-- MXPOL (R223). -/
def execMxpol (_ : NF) (s : State) : Res := fqNode s 0x9C fun _ _ _ => false

/-! ## What an entry does when it starts -/

/-- A result sent by a unit to reserved outputs, lat cycles from now. -/
def sendOuts (s : State) (c cctx pe slot : Nat) (t : Token) (outs : List OutRes) (lat : Nat) (v : Val) : State :=
  let (id, s) := s.fresh
  (s.modCore c fun k => { k with flights := k.flights ++ [⟨id, cctx, pe, slot, outs.map (shapeOut t v), none, false⟩] }).after lat
    .resultDelivery [c, id]

/-- The token an entry's result goes out with: the tag action of its node added (R91). -/
def FqEnt.good (e : FqEnt) (k : Core) : Token :=
  match AMap.find? k.nodes (nkey e.cctx e.pe e.slot) with
  | some t => e.a.acted (nodeFields t.instr).tg.toNat
  | none => e.a

/-- The entry's end: it leaves the queue, which it holds for some cycles, and its result is sent (R234). -/
def fqDone (s : State) (c : Nat) (e : FqEnt) (lat hold : Nat) (v : Val) : State :=
  let s := s.modMx c fun m => { m with fq := m.fq.drop 1, fqBusy := s.now + hold }
  sendOuts s c e.cctx e.pe e.slot (e.good (s.core c)) e.outs lat v

/-- A's data as the result. -/
def FqEnt.val (e : FqEnt) : Val := if e.a.data.length = 16 then ⟨e.a.data, true, none⟩ else Val.scalar (e.a.data.getD 0 0)

/-- An error token that a waiting operation of a node creates (R99). -/
def errVal (cause cctx pe slot : Nat) : Val :=
  ⟨word (cause % 2 ^ 16 + pe % 64 * 2 ^ 16 + slot % 64 * 2 ^ 22 + cctx % 4 * 2 ^ 28) :: List.replicate 15 0, true, none⟩

/-- The entry ends with an error token (R99). -/
def fqFail (s : State) (c : Nat) (e : FqEnt) (cause : Nat) : State :=
  let s := s.modMx c fun m => { m with fq := m.fq.drop 1, fqBusy := s.now + 1 }
  sendOuts s c e.cctx e.pe e.slot { e.a with e := true } e.outs 1 (errVal cause e.cctx e.pe e.slot)

/-- The entry faults (R295): the group freezes and the entry stays at the head. -/
def fqFault (s : State) (c : Nat) (e : FqEnt) (cause detail : Nat) : State :=
  let s := s.modMx c fun m => { m with halted := 2 :: m.halted }
  s.raise { cause := cause, origin := 6, core := c, pe := e.pe, slot := e.slot, cctx := e.cctx,
            tag := (e.tag.ctag ++ e.tag.itag).toNat, detail := detail }

/-- Whether all frames share one class (R213). -/
def oneClass (l : List Frame) : Bool := l.all fun f => (l.head?.map (·.cls)) == some f.cls

/-- Whether a frame has nothing in it to drain, read or spill (R62). -/
def Frame.void (f : Frame) : Bool := f.state == .empty || f.state == .spilled

/-- Whether a frame is held by a collective or has k-steps in flight (R62). -/
def busyFrames (k : Core) (fb n : Nat) : Bool :=
  (k.framesOf fb n).any (fun f => f.inflight != 0) || k.mx.locked.any fun f => decide (fb ≤ f) && decide (f < fb + n)

/-- The level latency of stretches of memory (R208, R253). -/
def reachLevel (s : State) (c : Nat) (sp : Space) (l : List (Nat × Nat)) : Nat :=
  let snap : Bool := match s.launchOf c with | some (_, x) => x.snapOn s.now | none => false
  l.foldl (fun m p => max m (levelOf s c (if sp = .virt then .phys else sp) p.1 p.2 (!snap))) 0

/-- Where an image of n bytes at B's offset lies (R65, R181, R229): a cause of an error token, or its stretches. An MXADD's f32 array
and its compressed image have no alignment (R230). -/
def fqPlace (s : State) (c : Nat) (e : FqEnt) (n : Nat) : Except Nat (Space × Nat) :=
  let off := laneOf e.b 0
  if off % 64 ≠ 0 ∧ !(e.op = 0x98 ∧ e.lit.toNat % 4 ≠ 0) then .error 16 else placeWin s c (fld e.lit.toNat 19 16) off n

/-- Runs a memory operation of an entry once its pages translate (log 15): a failed translation is asked for again, a
bad address is an error token or a fault. -/
def fqMemory (s : State) (c : Nat) (e : FqEnt) (n : Nat) (wr : Bool) (body : State → List (Nat × Nat) → Nat → State) : State :=
  match fqPlace s c e n with
  | .error x => fqFail s c e x
  | .ok (sp, a) =>
    match reach s c sp a n wr with
    | .bad x => fqFault s c e x 0
    | .miss => if probing s c .mxe then s else probe s c (.node e.cctx e.pe e.slot) .mxe wr a n
    | .wait => s
    | .ok l => body (if wr then s else touchUnit s c .mxe l false) l (reachLevel s c sp l + ceilDiv n 128)

/-! ### Zero, reclass, read -/

/-- MXZ's entry (R62, R225). -/
def runZ (s : State) (c : Nat) (e : FqEnt) (fb n : Nat) : State :=
  if busyFrames (s.core c) fb n then s else
  let s := s.modCore c fun k => k.mapFrames fb n fun f => Frame.blank f.cls .zeroed
  fqDone s c e (2 + ceilDiv n 8) (2 + ceilDiv n 8) e.val

/-- MXCLS's entry (R62, R225). -/
def runCls (s : State) (c : Nat) (e : FqEnt) (fb n : Nat) : State :=
  if busyFrames (s.core c) fb n then s else
  match Cls.ofCode (e.lit.toNat % 4) with
  | none => s
  | some cl => fqDone (s.modCore c fun k => k.mapFrames fb n fun _ => Frame.blank cl .empty) c e 2 1 e.val

/-- The lanes of an element read (R227). -/
def elemLanes (f : Frame) (x : Elem) (part : Bool) : List Word :=
  let b := x.slot f.cls
  let b := if part then b.drop 60 else b.take 60
  let st := b2n (f.state == .settled || f.state == .drained)
  ((List.range 15).map fun i => word (ofBytes ((b.drop (4 * i)).take 4))) ++ [word (wrap 10 f.fexp * 8 + f.cls.code * 2 + st)]

/-- The element an MXPEEK sees (R73): the exact insertion of some subset of the k-steps in flight, a free choice. -/
def peeked (k : Core) (fb e n : Nat) : Elem :=
  let f := k.frame fb
  let flights := k.mx.flights.filter fun x => x.frames.contains fb
  ((List.range flights.length).zip flights).foldl (fun x p =>
    if bitAt (Config.peekSubset n) p.1 then
      (p.2.contrib.filter fun y => y.1 == fb && y.2.1 == e).foldl (fun x y => x.insert f.cls y.2.2) x
    else x) (f.elem e)

/-- MXPEEK's and MXRD's entry (R227). -/
def runRead (s : State) (c : Nat) (e : FqEnt) (w : Nat) : State :=
  let k := s.core c
  let f := k.frame (w % 128)
  if f.void then fqFault s c e 2 0
  else if e.op = 0x94 then
    if f.state = .accumulating ∨ busyFrames k (w % 128) 1 then s
    else fqDone s c e 4 1 (Val.vec16 (elemLanes f (f.elem (fld w 15 8)) (bitAt w 16)))
  else
    let (n, s) := s.freeArg
    fqDone s c e 4 1 (Val.vec16 (elemLanes f (peeked k (w % 128) (fld w 15 8) n) (bitAt w 16)))

/-! ### Drain -/

/-- Roundings of a drain in element order (R49, R64): each value with its own saturation, stepping lane r mod 16 under SR. -/
def drainRound (t rm : Nat) (sat : Bool) : List (XVal × Bool) → Nat → List Word → List Nat
  | [], _, _ => []
  | (v, f) :: r, n, sh =>
    if rm = 5 then
      let x := shakerNext (sh.getD (n % 16) 0)
      roundOnce t rm (sat || f) (x.toNat / 256) v :: drainRound t rm sat r (n + 1) (sh.set (n % 16) x)
    else roundOnce t rm (sat || f) 0 v :: drainRound t rm sat r (n + 1) sh

/-- The first finite element with OVF among frames from fb on, in frame and element order (R64). -/
def firstOvf (k : Core) (fb n : Nat) : Option (Nat × Nat) :=
  (List.range n).findSome? fun i =>
    let f := k.frame (fb + i)
    (((List.range f.cls.count).find? fun e => (f.elem e).overflowed)).map fun e => (fb + i, e)

/-- The drained values of an m × n block, row-major, with row scales and column scales (R64, R228). -/
def drainVals (k : Core) (fb m n : Nat) (row : Nat → List XVal) (col : Nat → List XVal) : List (XVal × Bool) :=
  let c := (k.frame fb).cls
  (List.range m).flatMap fun i => (List.range n).map fun j =>
    let f := k.frame (fb + i / c.bh * (n / c.bw) + j / c.bw)
    (f.elem (i % c.bh * c.bw + j % c.bw)).drain c f.fexp (row i ++ col j)

/-- The f32 scale at a scratch offset. -/
def scaleAt (s : State) (c off : Nat) : XVal := f32 (word (ofBytes (s.scratch c off 4)))

/-- Writes encodings of sz bytes each into rows of n (R228). -/
def putRows (s : State) (c base pitch n sz : Nat) (l : List Nat) : State :=
  ((List.range l.length).zip l).foldl (fun s p => s.putScratch c (base + p.1 / n * pitch + p.1 % n * sz) (toBytes sz p.2)) s

/-- MODE.SOD of a core (R64, R300). -/
def State.sod (s : State) (c : Nat) : Bool := (s.modeOf c).getLsbD 4

/-- An MXDR that ends in an error token (R228): it has rounded nothing, so the Shaker states that its firing took go back (R49), unless
a later firing of its PE has taken states since (log 45). -/
def drainFail (s : State) (c : Nat) (e : FqEnt) (cause : Nat) : State :=
  let n := 256 * 2 ^ (e.lit.toNat % 4 + fld e.lit.toNat 3 2)
  let s := if !e.sh.isEmpty && s.shaker c e.pe == shakeOn n 0 e.sh then s.setShaker c e.pe e.sh else s
  fqFail s c e cause

/-- MXDR's entry (R64, R228). PUT waits for a free slot beyond those that drains have still to advance. -/
def runDrain (s : State) (c : Nat) (e : FqEnt) (fb : Nat) : State :=
  let k := s.core c
  let lit := e.lit.toNat
  let m := 16 * 2 ^ (lit % 4)
  let n := 16 * 2 ^ fld lit 3 2
  let nf := k.span fb m n
  let cause := drainCause k lit e.b fb
  if cause = some 19 then drainFail s c e 19 else
  let frames := k.framesOf fb nf
  if !oneClass frames then fqFault s c e 4 0
  else if frames.any (·.void) then fqFault s c e 2 0
  else if frames.any (·.state == .accumulating) || busyFrames k fb nf then s
  else
  let dst := fld lit 23 20
  let sz := typeBits dst / 8
  let put := bitAt lit 27
  let h := fld lit 31 28
  let hd := k.handle h
  let ahead := (k.waits.filter fun w => w.op == 0x185 && w.h == h).length
  if put && hd.v && decide (hd.room < ahead + 1) then s
  else match cause with
  | some x => drainFail s c e x
  | none =>
  let (base, pitch) := drainBase k lit e.b
  let use := fun i => bitAt lit (4 + i)
  let off := fun i => laneOf e.b (2 + i)
  match (if s.sod c then none else firstOvf k fb nf) with
  | some (f, x) => fqFault s c e 5 (f * 256 + x)
  | none =>
    let late := e.rm = 5 ∧ e.sh.isEmpty
    let sh := if late then s.shaker c e.pe else e.sh
    let s := if late then s.setShaker c e.pe (shakeOn (m * n) 0 sh) else s
    let sc := fun i j => if use i then [scaleAt s c (off i + 4 * j)] else []
    let vals := drainVals k fb m n (fun i => sc 0 i ++ sc 1 i) (sc 2)
    let s := putRows s c base pitch n sz (drainRound dst e.rm (bitAt lit 19) vals 0 sh)
    let s := s.modCore c fun k => k.mapFrames fb nf fun f => { f with state := .drained }
    let lat := max 6 nf
    if put then
      let (id, s) := s.fresh
      let s := s.modMx c fun m => { m with fq := m.fq.drop 1, fqBusy := s.now + max 4 nf }
      s.modCore c fun k => { k with waits := k.waits ++ [⟨id, 0x185, h, s.now + lat, [], e.lit, e.cctx, e.pe, e.slot, e.good k, e.outs, false⟩] }
    else fqDone s c e lat (max 4 nf) e.val

/-! ### Spill, fill, add -/

/-- MXSPL's entry (R62, R65, R229). -/
def runSpill (s : State) (c : Nat) (e : FqEnt) (fb n : Nat) : State :=
  let k := s.core c
  let frames := k.framesOf fb n
  if frames.any (·.void) then fqFault s c e 2 0
  else if busyFrames k fb n then s
  else
    let img := frames.flatMap (·.image)
    fqMemory s c e img.length true fun s l lat =>
      let s := (giveBytes s c .mxe l img).modCore c fun k => k.mapFrames fb n fun f => { f with state := .spilled }
      fqDone s c e lat lat e.val

/-- The frames of n images of a class, one after another (R65, R68): FMT_BAD for a malformed image, FMT_MISMATCH for one of another
class, the first that fails deciding. -/
def framesIn (cls : Cls) (n : Nat) (b : List Byte) : Except Nat (List Frame) :=
  (chunks cls.imageBytes n b).mapM fun i =>
    match readDescr i with
    | none => .error 3
    | some (c, _) => if c ≠ cls then .error 4 else match rawImage i with
      | none => .error 3
      | some f => .ok f

/-- The core with successive frames from fb on. -/
def Core.putFrames (k : Core) (fb : Nat) : List Frame → Core
  | [] => k
  | f :: r => (k.setFrame fb f).putFrames (fb + 1) r

/-- MXFIL's entry (R62, R68, R229). -/
def runFill (s : State) (c : Nat) (e : FqEnt) (fb n : Nat) : State :=
  let k := s.core c
  if busyFrames k fb n then s else
  let cls := (k.frame fb).cls
  fqMemory s c e (n * cls.imageBytes) false fun s l lat =>
    match framesIn cls n (takeBytes s c l) with
    | .error x => fqFault s c e x 0
    | .ok fs => fqDone (s.modCore c fun k => k.putFrames fb (fs.map Frame.filled)) c e lat lat e.val

/-- A frame with a source's elements added, settled (R62, R230); none when FEXP differs. -/
def Frame.addImage (d x : Frame) : Option Frame :=
  if d.state ≠ .zeroed ∧ d.fexp ≠ x.fexp then none
  else
    let d : Frame := { d with fexp := if d.state = FState.zeroed then x.fexp else d.fexp }
    some (x.elems.foldl (fun d p => d.insertAt p.1 p.2) d).settle

/-- Adds source frames into the frames from fb on, all or none (R230): the cause of a fault otherwise. -/
def addFrames (k : Core) (fb : Nat) (src : List Frame) : Except Nat Core :=
  let pairs := ((List.range src.length).map fun i => k.frame (fb + i)).zip src
  if pairs.any fun p => p.1.void || p.2.void then .error 2
  else if pairs.any fun p => p.1.cls != p.2.cls then .error 4
  else match pairs.mapM fun p => p.1.addImage p.2 with
    | none => .error 4
    | some fs => .ok (k.putFrames fb fs)

/-- The f32 array of one frame as a source (R55, R230); it has no exponent, so 0. -/
def f32Frame (b : List Byte) : Frame :=
  { Frame.blank .w576 .settled with elems := listElems ((chunks 4 32 b).map fun x => Cls.w576.addend (f32 (word (ofBytes x)))) }

/-- The bytes after n compressed elements (R69): FMT_BAD for a header or a flag byte that R69 does not allow, WIN_RANGE where the bytes
end. -/
def skipElems : Nat → List Byte → Except Nat (List Byte)
  | 0, b => .ok b
  | n + 1, h :: f :: r =>
    let k := if h = 0xFF then 0 else 8 * (h.toNat / 16 + 1 - h.toNat % 16)
    if 16 ≤ f.toNat ∨ (h ≠ 0xFF ∧ (h.toNat / 16 < h.toNat % 16 ∨ 8 < h.toNat / 16)) then .error 3
    else if r.length < k then .error 17
    else skipElems n (r.drop k)
  | _ + 1, _ => .error 17

/-- Frames of successive compressed images (R69) and their bytes; none faults FMT_BAD. -/
def takeFrames : Nat → List Byte → Option (List Frame)
  | 0, _ => some []
  | n + 1, b =>
    match readCompressed b with
    | none => none
    | some (f, r) => (takeFrames n r).map (f :: ·)

/-- The bytes after n successive compressed frame images (R69), or why they are not there; an image of another class is FMT_MISMATCH, as
R68 says of an image (log 45). -/
def skipFrames : Nat → List Byte → Except Nat (List Byte)
  | 0, b => .ok b
  | n + 1, b =>
    if b.length < 64 then .error 17
    else match readDescr b with
      | none => .error 3
      | some (c, _) => if c ≠ .w576 then .error 4 else match skipElems 32 (b.drop 64) with
        | .ok r => skipFrames n r
        | .error x => .error x

/-- The bytes that a window still holds from an offset on (R181). -/
def winLeft (s : State) (c w off : Nat) : Nat :=
  match (s.launchOf c).bind fun l => s.imageOf l.2 with
  | none => 0
  | some im => match im.windows[w]? with
    | none => 0
    | some (_, _, size) => size - off

/-- Ends an MXADD with source frames (R230). -/
def endAdd (s : State) (c : Nat) (e : FqEnt) (fb lat : Nat) (src : List Frame) : State :=
  match addFrames (s.core c) fb src with
  | .error x => fqFault s c e x 0
  | .ok k => fqDone (s.setCore c k) c e lat lat e.val

/-- MXADD's entry (R230). -/
def runAdd (s : State) (c : Nat) (e : FqEnt) (fb n : Nat) : State :=
  let k := s.core c
  let frames := k.framesOf fb n
  let src := e.lit.toNat % 4
  let cls := (k.frame fb).cls
  if frames.any (·.void) then fqFault s c e 2 0
  else if busyFrames k fb n then s
  else match src with
  | 0 => fqMemory s c e (n * cls.imageBytes) false fun s l lat =>
      match framesIn cls n (takeBytes s c l) with
      | .error x => fqFault s c e x 0
      | .ok fs => endAdd s c e fb (lat + 2) fs
  | 1 =>
    if cls ≠ .w576 then fqFault s c e 4 0
    else fqMemory s c e (128 * n) false fun s l lat => endAdd s c e fb (lat + 2) ((chunks 128 n (takeBytes s c l)).map f32Frame)
  | 2 =>
    if cls ≠ .w576 then fqFault s c e 4 0
    else
      let off := laneOf e.b 0
      let room := min (n * 2432) (winLeft s c (fld e.lit.toNat 19 16) off)
      fqMemory s c e room false fun s l lat =>
        let b := takeBytes s c l
        match skipFrames n b, takeFrames n b with
        | .error 17, _ => fqFail s c e 17
        | .error 4, _ => fqFault s c e 4 0
        | .ok r, some fs => endAdd s c e fb (lat - ceilDiv room 128 + ceilDiv (b.length - r.length) 128 + 2) fs
        | _, _ => fqFault s c e 3 0
  | _ =>
    let sb := laneOf e.b 0
    let srcs := k.framesOf sb n
    if !oneClass srcs then fqFault s c e 4 0
    else if srcs.any (·.void) then fqFault s c e 2 0
    else if srcs.any (·.state == .accumulating) || busyFrames k sb n then s
    else endAdd s c e fb (2 + n) srcs

/-! ### Waits, status, policy -/

/-- Whether no token that has entered its queue has an unissued k-step on a range of frames and none is in flight on them (R226). -/
def rangeIdle (k : Core) (now fb n : Nat) : Bool :=
  !((k.mx.xq0 ++ k.mx.xq1).any fun t => decide (t.since ≤ now) && decide (t.fb < fb + n) && decide (fb < t.fb + k.tokSpan t))
    && (k.framesOf fb n).all fun f => f.inflight == 0

/-- The status vector (R231). -/
def mxStatus (k : Core) (now : Nat) : List Word :=
  let m := k.mx
  let n := fun i => AMap.get m.cnt i 0
  let held := fun (l : List XTok) => (l.filter fun t => decide (t.since ≤ now)).length
  [word (n 0), word (n 1 + 2 ^ 32 - (m.arrayFree - now)), word (n 2), word (n 3), word (n 4), word (held m.xq0), word (held m.xq1),
   word m.flights.length, word (m.w0 + m.w1 * 16 + m.c0 * 256 + m.c1 * 4096), word (n 9), word m.balance, 0, 0, 0, 0, 0]

/-- New weights (R223). -/
def Mx.weights (m : Mx) (w : Nat) : Mx :=
  let w0 := w % 16
  let w1 := w / 16 % 16
  let (w0, w1) := if w0 = 0 ∧ w1 = 0 then (1, 1) else (w0, w1)
  { m with w0 := w0, w1 := w1, c0 := w0, c1 := w1 }

/-- FQ_ENTRY_START (R211, R234): the entry at the head of core [core]'s frame queue starts, or waits for its frames. -/
def execFqEntryStart (s : State) : Res :=
  let c := s.arg 0
  let k := s.core c
  match k.mx.fq with
  | [] => .next s
  | e :: _ =>
    if s.now < k.mx.fqBusy ∨ k.stopped ∨ k.mx.halted.contains 2 then .next s else
    let w := laneOf (some e.a) 0
    let fb := w % 128
    let n := fld w 14 8 + 1
    let ranged := e.op = 0x92 ∨ e.op = 0x96 ∨ e.op = 0x97 ∨ e.op = 0x98 ∨ e.op = 0x99 ∨ e.op = 0x9B
    if ranged ∧ !oneClass (k.framesOf fb n) then .next (fqFault s c e 4 0)
    else .next (match e.op with
      | 0x92 => runZ s c e fb n
      | 0x93 | 0x94 => runRead s c e w
      | 0x95 => runDrain s c e fb
      | 0x96 => runSpill s c e fb n
      | 0x97 => runFill s c e fb n
      | 0x98 => runAdd s c e fb n
      | 0x99 => runCls s c e fb n
      | 0x9A => fqDone s c e 2 1 (Val.vec16 (mxStatus k s.now))
      | 0x9B => if rangeIdle k s.now fb n then fqDone s c e 1 1 e.val else s
      | _ => fqDone (s.modMx c fun m => m.weights w) c e 1 1 e.val)

end Sys2Proof.Machine
end

