-- ==== Sys2Proof/Machine/Fabric.lean ====
section
/-! DEFINITION. The fabric between firings: delivery of results, the acceptance of operands once a cycle, edge ports, seams
and guards, predicate lines, and the switch of contexts (R78-R86, R104, R347, R348, R363-R368). -/

namespace Sys2Proof.Machine

/-- RESULT_DELIVERY (R80, R89): the results of started firing [core, id] reach the entries reserved for them, and sf; an
output that a matching store refuses waits there and tries again in the next cycle (R86, R158): its firing has delivered. -/
def execResultDelivery (s : State) : Res :=
  let c := s.arg 0
  let k := s.core c
  match k.flights.find? fun f => f.id == s.arg 1 with
  | none => .next s
  | some f =>
    let (k, left) := deliverAll k f.outs
    let k := match f.sf with
      | some v => k.putSf (nkey f.cctx f.pe f.slot) v f.sfe
      | none => k
    let rest := k.flights.filter fun x => x.id != f.id
    let k := { k with flights := rest, lastOut := if f.pe < 64 then s.now else k.lastOut }
    if left.isEmpty then .next (s.setCore c k)
    else .next ((s.setCore c { k with flights := rest ++ [{ f with pe := 64, outs := left, sf := none }] }).after 1 .resultDelivery [c, f.id])

/-! ## Edge ports (R83, R84, R363-R368) -/

/-- The core on a side of a core, inside the die (R363). -/
def coreAt (c side : Nat) : Option Nat :=
  match side with
  | 0 => if rowOf c = 0 then none else some (c - 16)
  | 1 => if colOf c = 15 then none else some (c + 1)
  | 2 => if rowOf c = 15 then none else some (c + 16)
  | _ => if colOf c = 0 then none else some (c - 1)

/-- The facing edge port (R363). -/
def facingEp (ep : Nat) : Nat := 16 * ((ep / 16 + 2) % 4) + ep % 16

/-- Whether a seam is shut for tokens that leave now (R374). -/
def seamClosed (k : Core) (now cctx ep : Nat) : Bool :=
  match k.seamShut.find? fun x => x.2.1 == cctx && x.2.2.1 == ep && decide (x.1 ≤ now) with
  | some x => x.2.2.2
  | none => false

/-- The drop of one core-addressed item at the guard (R367): GDROP grows and one record is written. -/
def guardCount (s : State) (c pe cctx ep outside tag : Nat) : State :=
  match s.launchOf c with
  | none => s
  | some (n, l) =>
    let g := l.gdrop + 1
    (s.modLaunch n fun l => { l with gdrop := g }).note
      { cause := 12, origin := 0, core := c, pe := pe, cctx := cctx, addr := ep + outside * 2 ^ 16, tag := tag, detail := g.toNat }

/-- The first entry of an output buffer that its edge port has still to take. -/
def edgeEntry : List OutEntry → Option OutEntry
  | [] => none
  | e :: r => if e.edge then some e else edgeEntry r

/-- Its number and token, when its token is there (R79, R84). -/
def edgeHead (l : List OutEntry) : Option (Nat × Token) := (edgeEntry l).bind fun e => e.tok.map fun t => (e.id, t)

/-- The edge port takes an entry: its bit is cleared (R78). -/
def takeEdge (s : State) (c key id : Nat) : State :=
  s.modCore c fun k => { k with bufs := AMap.put k.bufs key ((AMap.get k.bufs key []).map fun e =>
    if e.id = id then { e with edge := false } else e) }

/-- A token enters an inner seam's buffer and arrives at the facing port 2 cycles later (R364); a full buffer takes
nothing. -/
def crossSeam (s : State) (c key cctx ep id : Nat) (t : Token) (dst : Nat) : State :=
  let k := s.core dst
  let rk := ekey cctx (facingEp ep)
  if 4 ≤ (AMap.get k.bufs rk []).length then s else
  let s := takeEdge s c key id
  let (pe, code) := edgePe (facingEp ep)
  let (eid, s) := reserveIn s dst rk 0 (readers k cctx pe code, false)
  let (fid, s) := s.fresh
  (s.modCore dst fun k => { k with flights := k.flights ++ [⟨fid, cctx, 64, 0, [⟨rk, eid, some t⟩], none, false⟩] }).after 2
    .resultDelivery [dst, fid]

/-- The token at the head of an edge port moves on (R84): across a seam, or to the guard; one bound to a channel waits
for the channel. -/
def pushEdge (s : State) (c key : Nat) : State :=
  let k := s.core c
  let port := key % 16
  let pe := key / 16 % 64
  let cctx := key / 1024
  match edgeHead (AMap.get k.bufs key []) with
  | none => s
  | some (id, t) =>
    let ep := edgePort pe port
    match AMap.find? k.bind (64 * cctx + ep) with
    | some b =>
      if b < 16 then s else
      let inner := match coreAt c (ep / 16), s.launchOf c with
        | some dst, some (_, l) => if l.has dst then some dst else none
        | _, _ => none
      match inner with
      | some dst => if seamClosed k s.now cctx ep then s.after 0 .guardDrop [c, key, id] else crossSeam s c key cctx ep id t dst
      | none => s.after 0 .guardDrop [c, key, id]
    | none => s.after 0 .guardDrop [c, key, id]

/-- The mode of a launch's guard now (R368, R375): the sink word in SINK mode. -/
def Launch.sink (l : Launch) (now : Nat) : Option DWord :=
  match timed now (0, 0) (l.gmode.map fun p => (p.1, p.2.1, p.2.2)) with
  | (2, w) => some w
  | _ => none

/-- A token on its way to a sink node (R368), kept until its event takes it. -/
def sinkOp (c : Nat) (w : DWord) (t : Token) : UnitOp where
  core := c
  launch := 0
  op := 0
  target := 0
  val := w
  reg := 0
  half := 0
  tok := some t
  node := none
  outs := []
  queue := none
  victims := []

/-- GUARD_DROP (R365-R368): the entry [core, buffer, id] is dropped: counted, recorded and, in SINK mode, answered with an
error token of the sending node's origin (R99) 4 + 2d cycles later. -/
def execGuardDrop (s : State) : Res :=
  let c := s.arg 0
  let key := s.arg 1
  match edgeHead (AMap.get (s.core c).bufs key []), s.launchOf c with
  | some (id, t), some (n, l) =>
    if id ≠ s.arg 2 then .next s else
    let port := key % 16
    let pe := key / 16 % 64
    let cctx := key / 1024
    let ep := edgePort pe port
    let slot := ((edgeEntry (AMap.get (s.core c).bufs key [])).map (·.slot)).getD 0
    let s := takeEdge s c key id
    let s := guardCount s c pe cctx ep ((coreAt c (ep / 16)).getD 0x3FF) (t.tag.ctag ++ t.tag.itag).toNat
    match l.sink s.now with
    | none => .next s
    | some w =>
      let dst := l.cores.getD (fld w.toNat 22 15) l.origin
      let v := word (12 + pe * 2 ^ 16 + slot % 64 * 2 ^ 22 + cctx * 2 ^ 28)
      let e : Token := ⟨if t.data.length = 16 then v :: List.replicate 15 0 else [v], t.tag, none, t.m, t.l, true⟩
      let (oid, s) := s.fresh
      .next ({ s with ops := AMap.put s.ops oid (sinkOp dst w e) }.after (4 + 2 * hops c dst) .guardErrorToken [n, oid])
  | _, _ => .next s

/-- Offers a token to the sink node it names, as RET delivers (R152, R368). -/
def offerSink (s : State) (o : UnitOp) : Option State :=
  match o.tok with
  | none => some s
  | some t =>
    let w := o.val.toNat
    (deliverOut (s.core o.core) ⟨8192 + 2 * nkey (fld w 14 13) (fld w 11 6) (fld w 5 0) + fld w 12 12, 0, some t⟩).map
      fun k => s.setCore o.core k

/-- The guard queue of a launch delivers in order what its sink accepts (R368). -/
def serveGuard (s : State) (n : Nat) : State :=
  match AMap.find? s.launches n with
  | none => s
  | some l =>
    match l.guardQ with
    | [] => s
    | id :: r =>
      match AMap.find? s.ops id with
      | none => s.modLaunch n fun l => { l with guardQ := r }
      | some o =>
        match offerSink s o with
        | none => s
        | some s => { s with ops := AMap.del s.ops id }.modLaunch n fun l => { l with guardQ := r }

/-- GUARD_ERROR_TOKEN (R368): the token [launch, id] arrives at the sink: accepted, queued behind others, or discarded when
the queue of 16 is full. -/
def execGuardErrorToken (s : State) : Res :=
  let n := s.arg 0
  match AMap.find? s.ops (s.arg 1), AMap.find? s.launches n with
  | some o, some l =>
    let queue := if l.guardQ.length < 16 then s.modLaunch n fun l => { l with guardQ := l.guardQ ++ [s.arg 1] }
      else { s with ops := AMap.del s.ops (s.arg 1) }
    if l.guardQ.isEmpty then
      match offerSink s o with
      | some s => .next { s with ops := AMap.del s.ops (s.arg 1) }
      | none => .next queue
    else .next queue
  | _, _ => .next { s with ops := AMap.del s.ops (s.arg 1) }

/-! ## Once a cycle -/

/-- The PEs of a context that hold nodes. -/
def pesOf (k : Core) (cctx : Nat) : List Nat :=
  (k.nodes.foldl (fun (l : List Nat) p => if p.1 / 4096 = cctx ∧ l.head? ≠ some (p.1 / 64 % 64) then (p.1 / 64 % 64) :: l else l) []).reverse

/-- The acceptance of operands on a core (R86, R87) and its edge ports (R84), once in a cycle
before anything issues. A stopped core only finishes what has started (R287). -/
def settleCore (s : State) (c : Nat) : State :=
  let k := s.core c
  if k.launch.isNone then s else
  let s := s.setCore c ((pesOf k k.loaded).foldl (fun k pe => settlePe k k.loaded pe) (purge k))
  if k.stopped then s else
  ((s.core c).bufs.filter fun b => decide (b.1 < 4096) && b.2.any (·.edge)).foldl (fun s b => pushEdge s c b.1) s

/-! ## Predicate lines (R348) and context switches (R347) -/

/-- The value of predicate line p at core c in cycle u (R348). -/
def lineAt (s : State) (c p u : Nat) : Bool :=
  match s.launchOf c with
  | none => false
  | some (_, l) => l.cores.any fun k =>
      let d := 2 + 2 * hops k c
      decide (d ≤ u) && bitAt (timed (u - d) 0 (s.core k).pcon) p

/-- Whether a core has started firings or snippets that have not delivered (R104). -/
def firingOut (s : State) (c : Nat) : Bool :=
  let k := s.core c
  k.flights.any (fun f => decide (f.pe < 64)) || !k.snips.isEmpty || k.waits.any (·.op != 0x186) || !k.mx.fq.isEmpty || !k.rows.disp.isEmpty ||
    s.accs.any fun p => p.2.core == c && p.2.outs != [] && (match p.2.src with | .node .. => true | _ => false)

/-- The core with context n loaded afresh: SCNT and BT cleared, firing allowed from this cycle, no firing ready yet (R90, R346, R347); whether a
PRODUCT stage lies behind it, none under way (R321). -/
def Core.switchTo (k : Core) (n now : Nat) : Core :=
  { k with loaded := n, scnt := 0, bt := false, oldUntil := now, since := [], pastProduct := (k.pastProduct || k.loaded == 2) && n != 2 }

/-- STAGE_SWITCH (R347): core [core] switches once everything the old context started has delivered; the sequencer's
instruction completes in that cycle. -/
def execStageSwitch (s : State) : Res :=
  let c := s.arg 0
  let k := s.core c
  match k.seq.wait with
  | .switch n o =>
    if k.stopped then .next s
    else if firingOut s c || decide (s.now < 1 + max o k.lastOut) then .next (s.after 1 .stageSwitch [c])
    else
      let s := match s.launchOf c with
        | some (_, l) => if k.loaded = 2 then s.after 0 .spillPassPlace [l.queue] else s
        | none => s
      let k := k.switchTo n s.now
      .next (s.setCore c { k with seq := { k.seq with wait := .none, pc := k.seq.pc + 4, next := s.now } })
  | _ => .next s

end Sys2Proof.Machine
end

