-- ==== Sys2Proof/Machine/Stream.lean ====
section
/-! DEFINITION. The stream engine: its commands and the elements of its channels' passes (R125, R196-R207, R210). -/

namespace Sys2Proof.Machine

/-! ## Descriptors (R125) -/

/-- Bits hi:lo of doubleword n of a descriptor. -/
def Channel.dw (x : Channel) (n hi lo : Nat) : Nat := fld (x.desc.getD n 0).toNat hi lo

/-- The space, base, attribute word and direction of a channel. -/
def Channel.space (x : Channel) : Nat := x.dw 0 57 56
def Channel.base (x : Channel) : Nat := x.dw 0 55 0
def Channel.att (x : Channel) : Nat := x.dw 1 63 32
def Channel.dir (x : Channel) : Nat := x.dw 1 11 11

/-- Bytes of an element. -/
def Channel.esz (x : Channel) : Nat :=
  match x.dw 1 1 0 with
  | 0 => 4
  | 1 => 64
  | _ => x.dw 1 8 3 + 1

/-- Strides and counts, innermost first. -/
def Channel.dims (x : Channel) : List (Int × Nat) :=
  (List.range (x.dw 1 10 9 + 1)).map fun j => (sext 32 (x.dw (2 + j) 63 32), x.dw (2 + j) 31 0)

/-- Elements of a pass. -/
def Channel.total (x : Channel) : Nat := x.dims.foldl (fun n d => n * d.2) 1

/-- Where element i lies from the origin (R125). -/
def elemOff : List (Int × Nat) → Nat → Int
  | [], _ => 0
  | (st, n) :: r, i => (i % n : Nat) * st + elemOff r (i / n)

/-- Lowest and highest byte of a pass from an origin (R199). -/
def Channel.span (x : Channel) (org : Int) : Int × Int :=
  x.dims.foldl (fun (p : Int × Int) d =>
    let e := d.1 * ((d.2 - 1 : Nat) : Int)
    (p.1 + min e 0, p.2 + max e 0)) (org, org + ((x.esz - 1 : Nat) : Int))

/-- Whether a span lies in a window of a space. -/
def inWin (sp : Nat) (r : Int × Int) (w : Nat × Nat × Nat) : Bool :=
  w.1 == sp && decide ((w.2.1 : Int) ≤ r.1) && decide (r.2 < ((w.2.1 + w.2.2 : Nat) : Int))

/-- Whether a pass from an origin stays in the window that R199 found for the generator: the lowest window that holds it
from BASE (R201). -/
def passOk (s : State) (c : Nat) (x : Channel) (org : Int) : Bool :=
  match (s.launchOf c).bind fun l => s.imageOf l.2 with
  | none => false
  | some im =>
    match List.find? (fun w => inWin x.space (x.span x.base) w) im.windows with
    | some w => inWin x.space (x.span org) w
    | none => false

/-! ## Ports of a channel -/

/-- The edge ports bound to a channel, as (edge port, context), ascending (R84, R200). -/
def portsOf (k : Core) (ch : Nat) : List (Nat × Nat) :=
  let l := (k.bind.filter fun p => p.2 == ch).map fun p => (p.1 % 64, p.1 / 64)
  (List.range 64).flatMap fun e => l.filter fun p => p.1 == e

/-- The tokens that wait at a channel's fabric-bound ports. -/
def queued (k : Core) (ch : Nat) : Nat :=
  ((portsOf k ch).map fun p => (AMap.get k.bufs (ekey p.2 p.1) []).length).foldl (· + ·) 0

/-- The output buffer behind an edge port. -/
def behind (cctx ep : Nat) : Nat :=
  let (pe, code) := edgePe ep
  bkey cctx pe code

/-- The next token a channel may take from its edge ports: those of the loaded context, in turn from port number rr
(R200): the port's number, its buffer, the entry and the token. -/
def nextIn (k : Core) (ch rr : Nat) : Option (Nat × Nat × Nat × Token) :=
  let ps := (portsOf k ch).filter fun p => p.2 == k.loaded
  (List.range ps.length).findSome? fun i =>
    let n := (rr + i) % ps.length
    match ps[n]? with
    | none => none
    | some p => (edgeHead (AMap.get k.bufs (behind p.2 p.1) [])).map fun e => (n, behind p.2 p.1, e.1, e.2)

/-- A channel record (CLOSED unless listed). -/
def Core.chan (k : Core) (ch : Nat) : Channel :=
  AMap.get k.chans ch ⟨.closed, List.replicate 8 0, 0, 0, 0, 0, 0, 0, 0, 0, 0, false, 0, []⟩

/-- The state with a channel changed by f. -/
def State.modChan (s : State) (c ch : Nat) (f : Channel → Channel) : State :=
  s.modCore c fun k => { k with chans := AMap.put k.chans ch (f (k.chan ch)) }

/-! ## Elements -/

/-- A fault of the stream program or of a channel (R197): the record names the program's offset; the group freezes. -/
def strmFault (s : State) (c cause : Nat) : State :=
  s.raise { cause := cause, origin := 3, core := c, offset := (s.core c).strm.pc }

/-- The access of an element (R176, R179, R200): .acq on the first element of a pass, .rel on the last. -/
def chanAccess (s : State) (c ch : Nat) (x : Channel) (kind : AKind) (first last : Bool) (elem : Nat) (space : Space)
    (todo : List Piece) (data : List Byte) (tok : Option Token) (outs : List OutRes) : Access :=
  let ord := fld x.att 12 11
  { core := c
    src := .chan ch elem
    path := .str
    kind := kind
    acq := ord % 2 == 1 && first
    rel := ord / 2 == 1 && last
    scope := fld x.att 10 8
    dom := fld x.att 23 20
    hint := fld x.att 15 14
    own := if s.detOf c then some (BitVec.ofNat 16 (fld x.att 27 24 + (fld x.att 31 28 + 1) * x.count)) else none
    space := space
    todo := todo
    data := data
    got := []
    tok := tok
    outs := outs
    wait := 0
    stage := .sent
    order := 0
    epoch := 0
    vas := []
    home := none }

/-- Where an element of a channel lies: its space and address. -/
def chanPlace (s : State) (c : Nat) (x : Channel) (a : Int) : Except Nat (Space × Nat) :=
  if a < 0 then .error 17 else placeIn s c x.space a.toNat x.esz

/-- The address of element i of the pass. -/
def Channel.addr (x : Channel) (i : Nat) : Int := x.origin + elemOff x.dims i

/-- Reserves the place of token i at the channel's ports (R200). -/
def reservePort (s : State) (c ch i : Nat) : Option (OutRes × State) :=
  let k := s.core c
  let ps := portsOf k ch
  match ps[i % ps.length]? with
  | none => none
  | some (ep, cctx) =>
    let (pe, code) := edgePe ep
    let (id, s) := reserveIn s c (ekey cctx ep) 0 (readers k cctx pe code, false)
    some (⟨ekey cctx ep, id, none⟩, s)

/-- Issues the read of element i of a pass (SLD, SCPY as source, SMC). -/
def readElem (s : State) (c ch : Nat) : State :=
  let x := (s.core c).chan ch
  let i := x.issued
  match chanPlace s c x (x.addr i) with
  | .error e => strmFault s c e
  | .ok (sp, a) =>
    let last := decide (i + 1 = x.total)
    let t : Token := ⟨[], ⟨0, fixItag (BitVec.ofNat 24 i)⟩, none, false, last, false⟩
    let go := fun (s : State) (outs : List OutRes) =>
      issueAccess (s.modChan c ch fun y => { y with issued := i + 1, count := y.count + 1 })
        (chanAccess s c ch x .load (decide (i = 0)) last i sp (eventsOf a x.esz) [] (some t) outs)
    if x.pass = 1 then
      match reservePort s c ch i with
      | none => s
      | some (o, s) => go s [o]
    else go s []

/-- The bytes of a token an element of n bytes stores: a vector element repeats a scalar (R183, R200). -/
def tokBytes (t : Token) (n : Nat) : List Byte :=
  let l := if t.data.length = 16 then t.data
    else if n = 64 then List.replicate 16 (t.data.getD 0 0) else t.data.getD 0 0 :: List.replicate 15 0
  (l.flatMap fun w => toBytes 4 w.toNat).take n

/-- The null access of an element of a DET launch that performs nothing, and its number (R179, R270; DEDUCED, log 36). -/
def nullElem (s : State) (c ch : Nat) : State :=
  let x := (s.core c).chan ch
  let t := s.modChan c ch fun y => { y with count := y.count + 1 }
  if s.detOf c then issueAccess t (chanAccess s c ch x .null false false x.issued .phys [] [] none []) else t

/-- Issues the store of element i of a pass; a copy's stores perform in the generator's order (R203). -/
def writeElem (s : State) (c ch i : Nat) (last : Bool) (bs : List Byte) : State :=
  let x := (s.core c).chan ch
  match chanPlace s c x (x.addr i) with
  | .error e => strmFault s c e
  | .ok (sp, a) =>
    issueAccess (s.modChan c ch fun y => { y with issued := i + 1, count := y.count + 1 })
      { chanAccess s c ch x .store (decide (i = 0)) last i sp (eventsOf a x.esz) bs none [] with inTurn := x.pass == 6 }

/-- The multicast copies of one element of an SMC (R204): a store for each named core of the group. -/
def multicast (s : State) (c ch : Nat) (t : Token) : State :=
  let x := (s.core c).chan ch
  let i := x.paired
  let s := s.modChan c ch fun y => { y with paired := i + 1, index := y.index.drop 1 }
  match s.launchOf c with
  | none => s
  | some (_, l) =>
    (((List.range 16).filter fun b => bitAt x.mask b).map (clusCore c)).foldl (fun s dst =>
      if l.has dst then
        issueAccess s { chanAccess s c ch x .store false (decide (i + 1 = x.total)) i (.scratch dst)
          (eventsOf (x.off + i * x.esz) x.esz) (tokBytes t x.esz) none [] with own := none }
      else s) s

/-- The copies an SMC makes of each element. -/
def copies (s : State) (c : Nat) (x : Channel) : Nat :=
  match s.launchOf c with
  | none => 0
  | some (_, l) => ((List.range 16).filter fun b => bitAt x.mask b && l.has (clusCore c b)).length

/-- STREAM_ELEMENT (R200, R203, R204): channel [core, ch] issues its next element: a read, or the write of one that has
been read. -/
def execStreamElement (s : State) : Res :=
  let c := s.arg 0
  let ch := s.arg 1
  let k := s.core c
  let x := k.chan ch
  if x.state ≠ .active ∨ k.stopped then .next s
  else if x.pass = 6 then
    match x.index with
    | t :: _ => if t.data.isEmpty then .next s else
        .next (writeElem (s.modChan c ch fun y => { y with index := y.index.drop 1 }) c ch x.issued
          (decide (x.issued + 1 = x.total)) (tokBytes t x.esz))
    | [] => .next s
  else if x.pass == 7 && (match x.index with | t :: _ => !t.data.isEmpty | [] => false) then
    .next (match x.index with | t :: _ => multicast s c ch t | [] => s)
  else if k.gated ∨ x.total ≤ x.issued then .next s
  else if x.pass = 1 ∨ x.pass = 5 ∨ x.pass = 7 then .next (readElem s c ch)
  else .next s

/-- The record of an error token that reaches a channel that writes memory (R100). -/
def chanRecord (s : State) (c : Nat) (t : Token) : State :=
  let w := (t.data.getD 0 0).toNat
  s.note { cause := w % 2 ^ 16, origin := 0, core := c, pe := fld w 21 16, slot := fld w 27 22, cctx := fld w 29 28, etk := true,
           tag := (t.tag.ctag ++ t.tag.itag).toNat, detail := w }

/-- CHANNEL_ACCEPT (R100, R200): channel [core, ch] takes one token from its edge ports and stores it at its next element;
an error token leaves its element unwritten and is recorded. -/
def execChannelAccept (s : State) : Res :=
  let c := s.arg 0
  let ch := s.arg 1
  let k := s.core c
  let x := k.chan ch
  if x.state ≠ .active ∨ x.pass ≠ 2 ∨ k.stopped ∨ k.gated ∨ x.last ∨ x.total ≤ x.issued then .next s else
  match nextIn k ch x.rr with
  | none => .next s
  | some (n, key, id, t) =>
    let i := x.issued
    let last := t.l || decide (i + 1 = x.total)
    let s := (takeEdge s c key id).modChan c ch fun y => { y with rr := n + 1, last := last }
    if t.e then
      .next ((nullElem (chanRecord s c t) c ch).modChan c ch fun y => { y with issued := i + 1, done := y.done + 1 })
    else .next (writeElem s c ch i last (tokBytes t x.esz))

/-- The lanes of an index token that name elements: lane 0 of a scalar, the non-empty lanes of a vector (R202). -/
def idxLanes (t : Token) : List Nat :=
  if t.data.length < 16 then [0] else
  match t.side with
  | none => List.range 16
  | some sd => (List.range 16).filter fun l => sd.getD l 0 != 0xFFFFFF

/-- The pieces an index token names; the cause when one lies outside its space (R202). -/
def idxPieces (s : State) (c : Nat) (x : Channel) (t : Token) : List Nat → Except Nat (List Piece × Space)
  | [] => .ok ([], .scratch c)
  | l :: ls =>
    let st := match x.dims with | d :: _ => d.1 | [] => 0
    match chanPlace s c x ((x.base : Int) + ((t.data.getD l 0).toNat : Int) * st), idxPieces s c x t ls with
    | .ok (sp, a), .ok (r, _) => .ok ((eventsOf a x.esz).map (fun p => { p with at_ := p.at_ + 4 * l }) ++ r, sp)
    | .error e, _ => .error e
    | _, .error e => .error e

/-- INDEX_TOKEN (R202): data channel [core, ch] of an indexed pass handles the next index token: a gather sends its token, a
scatter stores the data token paired with it; a rejected token becomes an error token, or a record. -/
def execIndexToken (s : State) : Res :=
  let c := s.arg 0
  let ch := s.arg 1
  let k := s.core c
  let x := k.chan ch
  let ix := k.chan x.partner
  if x.state ≠ .active ∨ (x.pass ≠ 3 ∧ x.pass ≠ 4) ∨ k.stopped ∨ k.gated ∨ x.last then .next s else
  match nextIn k x.partner ix.rr with
  | none => .next s
  | some (n, key, id, t) =>
    let cnt := match x.dims with | d :: _ => d.2 | [] => 0
    let bad := t.e || (idxLanes t).any fun l => decide (cnt ≤ (t.data.getD l 0).toNat)
    if !t.e ∧ t.data.length = 16 ∧ 4 < x.esz then .next (strmFault s c 1) else
    let take := fun (s : State) => ((takeEdge s c key id).modChan c x.partner fun y => { y with rr := n + 1 }).modChan c ch fun y =>
      { y with last := t.l, issued := y.issued + 1 }
    match (if bad then .ok ([], .scratch c) else idxPieces s c x t (idxLanes t)) with
    | .error e => .next (strmFault s c e)
    | .ok (ps, sp) =>
      if x.pass = 3 then
        match reservePort (take s) c ch x.issued with
        | none => .next s
        | some (o, s) =>
          if bad then
            let w : Word := if t.e then t.data.getD 0 0 else 17
            let e : Token := { t with data := if t.data.length = 16 then w :: List.replicate 15 0 else [w], side := none, e := true }
            .next ((nullElem s c ch).modCore c fun k =>
              { (deliverAll k [{ o with tok := some e }]).1 with chans := AMap.put k.chans ch { k.chan ch with done := (k.chan ch).done + 1 } })
          else
            .next (issueAccess (s.modChan c ch fun y => { y with count := y.count + 1 })
              (chanAccess s c ch x .load (decide (x.issued = 0)) t.l x.issued sp ps [] (some t) [o]))
      else
        match nextIn k ch x.rr with
        | none => .next s
        | some (dn, dkey, did, dt) =>
          let s := ((takeEdge (take s) c dkey did).modChan c ch fun y => { y with rr := dn + 1, paired := y.paired + 1 })
          if bad ∨ dt.e then
            let r : Token := if dt.e then dt else if t.e then t else { t with data := [17] }
            .next ((nullElem (chanRecord s c r) c ch).modChan c ch fun y => { y with done := y.done + 1 })
          else
            let bs := if t.data.length = 16 then (dt.data ++ List.replicate (16 - dt.data.length) (dt.data.getD 0 0)).flatMap fun w => toBytes 4 w.toNat
              else tokBytes dt x.esz
            .next (issueAccess (s.modChan c ch fun y => { y with count := y.count + 1 })
              (chanAccess s c ch x .store (decide (x.issued = 0)) t.l x.issued sp ps bs none []))

/-- Whether a channel's pass has ended (R200, R202, R204, R207): every element done and, for reads to the fabric, every
token accepted. -/
def passOver (s : State) (c ch : Nat) : Bool :=
  let k := s.core c
  let x := k.chan ch
  x.state == .active && (match x.pass with
    | 1 => x.done == x.total && queued k ch == 0
    | 2 => (x.last || x.issued == x.total) && x.done == x.issued
    | 3 => x.last && x.done == x.issued && queued k ch == 0
    | 4 => x.last && x.done == x.issued
    | 6 => x.done == x.total
    | 7 => x.done == x.total * (1 + copies s c x)
    | _ => false)

/-- PASS_END (R207): the pass of channel [core, ch] ends; its partner returns to OPEN, an index channel to CLOSED. -/
def execPassEnd (s : State) : Res :=
  let c := s.arg 0
  let ch := s.arg 1
  let x := (s.core c).chan ch
  if !passOver s c ch then .next s else
  let rest := fun (y : Channel) => { y with pass := 0, partner := 0, issued := 0, done := 0, last := false, paired := 0, index := [] }
  let s := s.modChan c ch fun y => { rest y with state := .opened }
  .next (if x.pass = 3 ∨ x.pass = 4 then s.modChan c x.partner fun y => { rest y with state := .closed }
    else if x.pass = 6 then s.modChan c x.partner fun y => { rest y with state := .opened }
    else s)

/-- What a channel would issue now: its event, and whether it reaches beyond the core's own scratch (R210). -/
def chanWants (s : State) (c ch : Nat) : Option (Instr × Bool) :=
  let k := s.core c
  let x := k.chan ch
  if x.state ≠ .active then none else
  let net := x.space != 1
  let ready := match x.index with | t :: _ => !t.data.isEmpty | [] => false
  let more := !k.gated && decide (x.issued < x.total)
  match x.pass with
  | 1 => if more ∧ queued k ch < 16 ∧ !(portsOf k ch).isEmpty then some (.streamElement, net) else none
  | 2 => if more ∧ !x.last ∧ (nextIn k ch x.rr).isSome then some (.channelAccept, net) else none
  | 3 => if !k.gated ∧ !x.last ∧ queued k ch < 16 ∧ (nextIn k x.partner (k.chan x.partner).rr).isSome then some (.indexToken, net) else none
  | 4 => if !k.gated ∧ !x.last ∧ (nextIn k x.partner (k.chan x.partner).rr).isSome ∧ (nextIn k ch x.rr).isSome then
      some (.indexToken, net) else none
  | 5 => if more ∧ x.issued < (k.chan x.partner).issued + 64 then some (.streamElement, net) else none
  | 6 => if ready then some (.streamElement, net) else none
  | 7 => if ready then some (.streamElement, false)
      else if more ∧ x.issued < x.paired + 64 then some (.streamElement, net) else none
  | _ => none

/-- One cycle of a core's stream engine (R210): the ended passes, then round-robin at most one scratch and one network
access, with at most 64 network accesses outstanding. -/
def serveStreams (s : State) (c : Nat) : State :=
  let k := s.core c
  if k.stopped || !(k.chans.any fun p => p.2.state == .active) then s else
  let s := (k.chans.filter fun p => passOver s c p.1).foldl (fun s p => s.after 0 .passEnd [c, p.1]) s
  let out := (s.accs.filter fun p => p.2.core == c && (match p.2.src with | .chan .. => true | _ => false)
    && p.2.space != .scratch c).length
  let pick := fun (r : State × Bool × Bool) (i : Nat) =>
    let (s, n, l) := r
    let ch := (k.strm.rr + 1 + i) % 16
    match chanWants s c ch with
    | none => r
    | some (ev, net) =>
      if (net && (n || decide (64 ≤ out))) || (!net && l) then r
      else ((s.after 0 ev [c, ch]).modCore c fun k => { k with strm := { k.strm with rr := ch } }, n || net, l || !net)
  ((List.range 16).foldl pick (s, false, false)).1

/-! ## Commands (R197-R207) -/

/-- The low 32 bits of register j_n; j0 reads 0 (R197). -/
def jreg (k : Core) (n : Nat) : Word := if n = 0 then 0 else AMap.get k.strm.j n 0

/-- Runs a command of the issuing stream program (R210): one a cycle, not while the core is stopped or gated. -/
def withStrm (s : State) (body : Nat → Core → State) : Res :=
  match s.cur with
  | .strm c =>
    let k := s.core c
    if !k.strm.running || k.stopped || k.gated || decide (s.now < k.strm.next) then .next s else .next (body c k)
  | _ => .next s

/-- The stream program goes on n bytes further after a cycle. -/
def strmNext (s : State) (c n : Nat) : State :=
  s.modCore c fun k => { k with strm := { k.strm with pc := k.strm.pc + n, next := s.now + 1 } }

/-- SOPEN (R199, R207). -/
def execSopen (f : CF) (imm : Word) (s : State) : Res :=
  withStrm s fun c k =>
    let ch := f.d.toNat
    match (k.chan ch).state with
    | .opened | .active => strmFault s c 1
    | .index => strmNext s c 8
    | .closed =>
      match k.table.find? fun t => t.1 == imm.toNat && t.2.1 == ch with
      | none => strmFault s c 1
      | some t => strmNext (s.modChan c ch fun y => { y with state := .opened, desc := t.2.2, count := 0, pass := 0, last := false, rr := 0 }) c 8

/-- SCLOSE (R206): waits as SWAIT, then closes; tokens that wait at its edge ports are discarded, those of firings in flight arrive there
for a later pass. -/
def execSclose (f : CF) (s : State) : Res :=
  withStrm s fun c k =>
    let ch := f.d.toNat
    if (k.chan ch).state = .active then s
    else if (k.chan ch).state ≠ .opened then strmNext s c 4
    else
      let bufs := (portsOf k ch).foldl (fun b p =>
        let b := AMap.put b (ekey p.2 p.1) []
        let o := behind p.2 p.1
        AMap.put b o ((AMap.get b o []).map fun e => if e.tok.isSome then { e with edge := false } else e)) k.bufs
      strmNext ((s.modCore c fun k => { k with bufs := bufs }).modChan c ch fun y => { y with state := .closed, pass := 0 }) c 4

/-- Starts a pass of a channel (R201, R207). -/
def startPass (s : State) (c ch pass partner : Nat) (org : Int) : State :=
  s.modChan c ch fun y =>
    { y with state := .active, pass := pass, partner := partner, origin := org, issued := 0, done := 0, last := false, paired := 0, index := [] }

/-- SLD and SST (R201); a channel claimed as an index channel stays as it is (R11, R207). -/
def passCmd (s : State) (f : CF) (dir : Nat) : Res :=
  withStrm s fun c k =>
    let ch := f.d.toNat
    let x := k.chan ch
    if x.state = .closed ∨ x.dir ≠ dir then strmFault s c 1
    else if x.state = .active then s
    else if x.state = .index then strmNext s c 4
    else
      let org := (x.base : Int) + (jreg k f.a.toNat).toInt
      if !passOk s c x org then strmFault s c 17
      else strmNext (startPass s c ch (1 + dir) 0 org) c 4

/-- SLD (R201). -/
def execSld (f : CF) (s : State) : Res := passCmd s f 0
/-- SST (R201). -/
def execSst (f : CF) (s : State) : Res := passCmd s f 1

/-- SGTH and SSCT (R202). -/
def indexedCmd (s : State) (f : CF) (dir : Nat) : Res :=
  withStrm s fun c k =>
    let ch := f.d.toNat
    let ix := f.a.toNat
    let x := k.chan ch
    if x.state = .closed ∨ x.dir ≠ dir ∨ x.dw 1 10 9 ≠ 0 ∨ ch = ix then strmFault s c 1
    else if x.state = .active then s
    else if x.state = .index then strmNext s c 4
    else if (k.chan ix).state ≠ .closed then strmFault s c 1
    else
      let s := startPass s c ch (3 + dir) ix x.base
      strmNext (s.modChan c ix fun y => { y with state := .index, pass := 8, partner := ch, rr := 0 }) c 4

/-- SGTH (R202). -/
def execSgth (f : CF) (s : State) : Res := indexedCmd s f 0
/-- SSCT (R202). -/
def execSsct (f : CF) (s : State) : Res := indexedCmd s f 1

/-- SCPY (R203). -/
def execScpy (f : CF) (s : State) : Res :=
  withStrm s fun c k =>
    let d := f.d.toNat
    let a := f.a.toNat
    let b := f.b.toNat
    let xd := k.chan d
    let xs := k.chan a
    if b % 2 = 1 ∨ xd.state = .closed ∨ xs.state = .closed ∨ xd.dir ≠ 1 ∨ xs.dir ≠ 0 ∨ xd.esz ≠ xs.esz ∨ xd.total ≠ xs.total then strmFault s c 1
    else if xd.state = .active ∨ xs.state = .active then s
    else if xd.state = .index ∨ xs.state = .index then strmNext s c 4
    else
      let od := (xd.base : Int) + (jreg k b).toInt
      let os := (xs.base : Int) + (jreg k (b + 1)).toInt
      let lent := match s.launchOf c with | some (n, l) => ({ l with ways := s.waysOf n l } : Launch).winSize | none => 0
      if !passOk s c xd od ∨ !passOk s c xs os then strmFault s c 17
      else if xd.space = 3 ∧ (lent : Int) ≤ (xd.span od).2 then strmFault s c 6
      else strmNext (startPass (startPass s c d 6 a od) c a 5 d os) c 4

/-- SMC (R204): a core named outside the group is reported once as GUARD_DROP. -/
def execSmc (f : CF) (s : State) : Res :=
  withStrm s fun c k =>
    let ch := f.d.toNat
    let x := k.chan ch
    let mask := (jreg k f.a.toNat).toNat
    let off := (jreg k f.b.toNat).toNat
    if x.state = .closed ∨ x.dir ≠ 0 then strmFault s c 1
    else if x.state = .active then s
    else if x.state = .index then strmNext s c 4
    else if 2 ^ 16 ≤ mask ∨ 2 ^ 21 ≤ off then strmFault s c 1
    else if 2 ^ 21 < off + x.total * x.esz then strmFault s c 6
    else if !passOk s c x x.base then strmFault s c 17
    else
      let outside := ((List.range 16).filter fun b => bitAt mask b).map (clusCore c) |>.filter fun dst =>
        match s.launchOf c with | some (_, l) => !l.has dst | none => true
      let s := outside.foldl (fun s dst => guardCount s c 0 0 0 dst 0) s
      let s := startPass s c ch 7 0 x.base
      strmNext (s.modChan c ch fun y => { y with mask := mask, off := off }) c 4

/-- Whether anything waits on handle h of core c (R196): a node, a drain's or k-step's advance, or a matrix token, here or with REM on a
core of the cluster, whose next k-step has not its fill count. -/
def handleWaited (s : State) (c h : Nat) : Bool :=
  ((s.core c).waits.any fun w => w.h == h && ((decide (0x85 ≤ w.op) && decide (w.op ≤ 0x88)) || w.op == 0x185 || w.op == 0x186))
  || ((List.range 16).map (clusCore c)).any fun d =>
    let k := s.core d
    (candidates k s.now 0 ++ candidates k s.now 1).any fun t =>
      (d == c && t.ha == h && !fillMet k h (t.fl 40 34)) ||
      (t.owner d == c && t.hb == h && sameLaunch s c d && !fillMet (s.core c) h (t.fl 47 41))

/-- SCB (R196, R205). -/
def execScb (f : CF) (s : State) : Res :=
  withStrm s fun c k =>
    let h := f.d.toNat
    let ja := (jreg k f.a.toNat).toNat
    let jb := (jreg k f.b.toNat).toNat
    let cnt := jb % 2 ^ 12
    let ssz := fld jb 18 12
    let old := k.handle h
    if 2 ^ 21 ≤ ja ∨ ja % 64 ≠ 0 ∨ 2 ^ 19 ≤ jb then strmFault s c 1
    else if 2 ^ 21 < ja + (cnt + 1) * (ssz + 1) * 64 then strmFault s c 6
    else if old.v ∧ (0 < old.fill ∨ handleWaited s c h) then strmFault s c 1
    else strmNext (s.modCore c fun k => k.setHandle h ⟨true, ja, ssz, cnt, 0, 0, 0, 0⟩) c 4

/-- The count of CBPUTS and CBWAITS (R205). -/
def cbCount (k : Core) (f : CF) : Int := (jreg k f.a.toNat).toInt + f.imm.toInt

/-- Whether every pass of the program has ended. -/
def passesOver (k : Core) : Bool := !(k.chans.any fun p => p.2.state == .active)

/-- The stream engine's part in the order of R195: its program has what it asks of a handle once the condition holds, and goes on. -/
def serveAsk (s : State) (c : Nat) (mine : StrmAsk → Bool) : State :=
  let k := s.core c
  match k.strm.ask with
  | none => s
  | some a =>
    if !mine a then s else
    let s := s.modCore c fun k => { k with strm := { k.strm with ask := none } }
    let go := fun (h : Nat) (met : Handle → Bool) (f : Handle → Handle) =>
      if met (k.handle h) then strmNext (s.modCore c fun k => k.setHandle h (f (k.handle h))) c 4 else s
    match a with
    | .get h n => go h (fun x => decide (n ≤ x.fill)) (·.get n)
    | .put h n => go h (fun x => decide (n ≤ x.room)) (·.put n)
    | .filled h n => go h (fun x => decide (n ≤ x.fill)) id
    | .roomy h n => go h (fun x => decide (n ≤ x.room)) id

/-- A stream program asks for an advance of a handle or waits for a count (R205): the end of the cycle answers, in the order of R195;
while the condition does not hold the program asks again in the next cycle. -/
def askStrm (s : State) (c : Nat) (a : StrmAsk) : State := s.modCore c fun k => { k with strm := { k.strm with ask := some a } }

/-- CBPUTS (R194, R205): waits for the passes, then advances: a producer by n > 0, a consumer by n < 0. -/
def execCbputs (f : CF) (s : State) : Res :=
  withStrm s fun c k =>
    let h := f.d.toNat
    let hd := k.handle h
    let n := cbCount k f
    if n = 0 ∨ !hd.v ∨ hd.cnt + 1 < n.natAbs then strmFault s c 18
    else if !passesOver k ∨ !(slotAccesses s c h .str (decide (0 < n))).isEmpty then s
    else askStrm s c (if n < 0 then .get h n.natAbs else .put h n.natAbs)

/-- CBWAITS (R205). -/
def execCbwaits (f : CF) (s : State) : Res :=
  withStrm s fun c k =>
    let h := f.d.toNat
    let hd := k.handle h
    let n := cbCount k f
    if n = 0 ∨ !hd.v ∨ hd.cnt + 1 < n.natAbs then strmFault s c 18
    else askStrm s c (if n < 0 then .roomy h n.natAbs else .filled h n.natAbs)

/-- SWAIT (R206). -/
def execSwait (f : CF) (s : State) : Res :=
  withStrm s fun c k => if (k.chan f.d.toNat).state = .active then s else strmNext s c 4

/-- SEND (R105, R206): the stream end token, when every pass has ended. -/
def execSend (_ : CF) (s : State) : Res :=
  withStrm s fun c k =>
    if !passesOver k then s
    else s.modCore c fun k => { k with strm := { k.strm with running := false, ended := true } }

/-- SLOOP (R206). -/
def execSloop (f : CF) (s : State) : Res :=
  withStrm s fun c k =>
    let v := jreg k f.a.toNat + jreg k f.b.toNat
    strmNext (s.modCore c fun k =>
      { k with strm := { k.strm with j := if f.d = 0 then k.strm.j else AMap.put k.strm.j f.d.toNat v } }) c 4

/-- Whether a control word is the first of a long instruction: LI, LIH, JMP, JAL, SOPEN (R118). -/
def longWord (w : Word) : Bool := [0x0B, 0x0C, 0x16, 0x17, 0xC0].contains (w.toNat / 2 ^ 24)

/-- Whether word n of a program begins an instruction: no padding and no imm32 word (R119, R338); i counts the words passed. -/
def beginsAt (pads : List Nat) (n : Nat) : List Word → Nat → Bool → Bool
  | [], _, _ => false
  | w :: r, i, imm =>
    let first := !imm && !pads.contains i
    if i = n then first else beginsAt pads n r (i + 1) (first && longWord w)

/-- Whether a byte offset is one that a branch may reach (R119, R338). -/
def wordAt (pads : List Nat) (prog : List Word) (t : Int) : Bool :=
  decide (0 ≤ t) && decide (t % 4 = 0) && beginsAt pads (t.toNat / 4) prog 0 false

/-- SBNE (R119, R206): a branch taken takes 2 cycles. -/
def execSbne (f : CF) (s : State) : Res :=
  withStrm s fun c k =>
    if jreg k f.a.toNat = jreg k f.b.toNat then strmNext s c 4
    else
      let t := (k.strm.pc : Int) + 4 * f.imm.toInt
      if !wordAt k.sprogPad k.sprog t then strmFault s c 1
      else s.modCore c fun k => { k with strm := { k.strm with pc := t.toNat, next := s.now + 2 } }

end Sys2Proof.Machine
end

