-- ==== Sys2Proof/Machine/Seq.lean ====
section
/-! DEFINITION. The sequencer's arithmetic, branches and memory instructions (R344, R345, R350-R352). -/

namespace Sys2Proof.Machine

/-! ## Issue -/

/-- Register g_n; g0 reads 0 (R344). -/
def greg (k : Core) (n : Nat) : DWord := if n = 0 then 0 else AMap.get k.seq.g n 0

/-- The core with v written to g_n, readable from cycle t on; a write to g0 is discarded (R344). -/
def Core.setG (k : Core) (n : Nat) (v : DWord) (t : Nat) : Core :=
  if n = 0 then k else { k with seq := { k.seq with g := AMap.put k.seq.g n v, ready := AMap.put k.seq.ready n t } }

/-- Whether an earlier instruction has a write of g_n pending (R344). -/
def gPending (k : Core) (now n : Nat) : Bool := n != 0 && (k.seq.busy.contains n || decide (now < AMap.get k.seq.ready n 0))

/-- Whether a core's sequencer may issue in this cycle (R285, R287, R344). -/
def Core.issues (k : Core) (now : Nat) : Bool :=
  k.launch.isSome && k.seq.running && !k.seq.halted && !k.stopped && !k.gated && decide (k.seq.next ≤ now) && k.seq.wait != .faulted &&
    (match k.seq.wait with | .cut _ _ => false | _ => true)

/-- Runs an instruction of the issuing sequencer when it may issue and no register it names is pending (R344). -/
def withSeq (s : State) (regs : List Nat) (body : Nat → Core → State) : Res :=
  match s.cur with
  | .seq c =>
    let k := s.core c
    if !k.issues s.now || regs.any (gPending k s.now) then .next s else .next (body c k)
  | _ => .next s

/-- The state with core c's sequencer changed by f. -/
def State.modSeq (s : State) (c : Nat) (f : Seq → Seq) : State := s.modCore c fun k => { k with seq := f k.seq }

/-- The sequencer goes on n bytes further, its next instruction not before i cycles from now. -/
def seqNext (s : State) (c n i : Nat) : State := s.modSeq c fun q => { q with pc := q.pc + n, next := s.now + i, wait := .none }

/-- A fault of the instruction that issues (R344, R295): nothing changes but that the group freezes. -/
def seqFault (s : State) (c cause : Nat) : State :=
  (s.raise { cause := cause, origin := 2, core := c, offset := (s.core c).seq.pc }).modSeq c fun q => { q with wait := .faulted }

/-- Writes a result with a latency and goes on (R345). -/
def seqResult (s : State) (c d : Nat) (v : DWord) (lat len int_ : Nat) : State :=
  seqNext (s.modCore c fun k => k.setG d v (s.now + lat)) c len int_

/-! ## Arithmetic (R350) -/

/-- A three-register operation. -/
def seqOp3 (f : CF) (s : State) (lat : Nat) (h : DWord → DWord → DWord) : Res :=
  withSeq s [f.a.toNat, f.b.toNat, f.d.toNat] fun c k =>
    seqResult s c f.d.toNat (h (greg k f.a.toNat) (greg k f.b.toNat)) lat 4 1

/-- An operation of one register and imm9. -/
def seqOpI (f : CF) (s : State) (h : DWord → DWord) : Res :=
  withSeq s [f.a.toNat, f.d.toNat] fun c k => seqResult s c f.d.toNat (h (greg k f.a.toNat)) 1 4 1

/-- ADD (R350). -/
def execSeqAdd (f : CF) (s : State) : Res := seqOp3 f s 1 (· + ·)
/-- SUB (R350). -/
def execSeqSub (f : CF) (s : State) : Res := seqOp3 f s 1 (· - ·)
/-- MUL (R350): 3 cycles. -/
def execSeqMul (f : CF) (s : State) : Res := seqOp3 f s 3 (· * ·)
/-- AND (R350). -/
def execSeqAnd (f : CF) (s : State) : Res := seqOp3 f s 1 (· &&& ·)
/-- OR (R350). -/
def execSeqOr (f : CF) (s : State) : Res := seqOp3 f s 1 (· ||| ·)
/-- XOR (R350). -/
def execSeqXor (f : CF) (s : State) : Res := seqOp3 f s 1 (· ^^^ ·)
/-- SLT (R350). -/
def execSlt (f : CF) (s : State) : Res := seqOp3 f s 1 fun a b => if a.slt b then 1 else 0
/-- SLTN (R350). -/
def execSltn (f : CF) (s : State) : Res := seqOp3 f s 1 fun a b => if a.ult b then 1 else 0
/-- ADDI (R350). -/
def execAddi (f : CF) (s : State) : Res := seqOpI f s fun a => a + f.imm.signExtend 64
/-- SHLI (R350). -/
def execShli (f : CF) (s : State) : Res := seqOpI f s fun a => a <<< f.imm.toNat
/-- SHRI (R350). -/
def execShri (f : CF) (s : State) : Res := seqOpI f s fun a => a >>> f.imm.toNat
/-- SARI (R350). -/
def execSari (f : CF) (s : State) : Res := seqOpI f s fun a => a.sshiftRight f.imm.toNat

/-- LI (R350): two words, the next instruction 2 cycles later. -/
def execLi (f : CF) (imm32 : Word) (s : State) : Res :=
  withSeq s [f.d.toNat] fun c _ => seqResult s c f.d.toNat (imm32.signExtend 64) 1 8 2

/-- LIH (R350): bits 31:0 are kept. -/
def execLih (f : CF) (imm32 : Word) (s : State) : Res :=
  withSeq s [f.d.toNat] fun c k =>
    seqResult s c f.d.toNat (imm32 ++ (greg k f.d.toNat).extractLsb' 0 32) 1 8 2

/-! ## Branches and jumps (R351) -/

/-- Goes to a byte offset i cycles from now; a target that no instruction begins at faults ILLEGAL (R119, R338). -/
def goTo (s : State) (c : Nat) (t : Int) (i : Nat) : State :=
  let k := s.core c
  if wordAt k.progPad k.prog t then s.modSeq c fun q => { q with pc := t.toNat, next := s.now + i, wait := .none }
  else seqFault s c 1

/-- A conditional branch (R345, R351): 1 cycle when not taken, 2 when taken. -/
def seqBranch (f : CF) (s : State) (h : DWord → DWord → Bool) : Res :=
  withSeq s [f.a.toNat, f.b.toNat] fun c k =>
    if h (greg k f.a.toNat) (greg k f.b.toNat) then goTo s c ((k.seq.pc : Int) + 4 * f.imm.toInt) 2 else seqNext s c 4 1

/-- BEQ (R351). -/
def execBeq (f : CF) (s : State) : Res := seqBranch f s (· == ·)
/-- BNE (R351). -/
def execBne (f : CF) (s : State) : Res := seqBranch f s (· != ·)
/-- BLT (R351). -/
def execBlt (f : CF) (s : State) : Res := seqBranch f s fun a b => a.slt b
/-- BGE (R351). -/
def execBge (f : CF) (s : State) : Res := seqBranch f s fun a b => !a.slt b
/-- BLTN (R351). -/
def execBltn (f : CF) (s : State) : Res := seqBranch f s fun a b => a.ult b
/-- BGEN (R351). -/
def execBgen (f : CF) (s : State) : Res := seqBranch f s fun a b => !a.ult b

/-- A jump that writes a link unless its target faults. -/
def linkTo (s : State) (c d : Nat) (link : Nat) (t : Int) (i : Nat) : State :=
  let k := s.core c
  if wordAt k.progPad k.prog t then goTo (s.modCore c fun k => k.setG d (dword link) (s.now + 1)) c t i else seqFault s c 1

/-- JMP (R351). -/
def execJmp (_ : CF) (imm32 : Word) (s : State) : Res :=
  withSeq s [] fun c k => goTo s c ((k.seq.pc : Int) + 4 * imm32.toInt) 2

/-- JAL (R351). -/
def execJal (f : CF) (imm32 : Word) (s : State) : Res :=
  withSeq s [f.d.toNat] fun c k => linkTo s c f.d.toNat (k.seq.pc + 8) ((k.seq.pc : Int) + 4 * imm32.toInt) 2

/-- JR (R351): reads g_a first. -/
def execJr (f : CF) (s : State) : Res :=
  withSeq s [f.a.toNat, f.d.toNat] fun c k => linkTo s c f.d.toNat (k.seq.pc + 4) ((greg k f.a.toNat).toNat : Int) 3

/-! ## Memory (R352) -/

/-- SeqAddr (R352): the cause of the fault, or where the 8 bytes lie. -/
def seqAddr (s : State) (c : Nat) (ea : DWord) : Except Nat (Space × Nat) :=
  let e := ea.toNat
  if e % 8 ≠ 0 then .error 16
  else if e < 2 ^ 63 then .ok (.virt, e)
  else if fld e 62 26 ≠ 0 then .error 6
  else placeScratch s c (e % 2 ^ 26) 8

/-- An access of the sequencer of 8 bytes (R352). -/
def seqAccess (c d : Nat) (kind : AKind) (acq rel : Bool) (scope : Nat) (sp : Space) (a : Nat) (data : List Byte) : Access where
  core := c
  src := .seq d
  path := .seq
  kind := kind
  acq := acq
  rel := rel
  scope := scope
  dom := 0
  hint := 0
  own := none
  space := sp
  todo := [⟨a, 8, 0⟩]
  data := data
  got := []
  tok := none
  outs := []
  wait := 0
  stage := .sent
  order := 0
  epoch := 0
  vas := []
  home := none

/-- A load or atomic to g_d: the register waits for it; at most 16 are outstanding (R344). -/
def seqLoad (s : State) (c d src : Nat) (kind : AKind) (acq : Bool) (scope : Nat) (ea : DWord) (data : List Byte) : State :=
  if 16 ≤ (s.core c).seq.loads then s else
  match seqAddr s c ea with
  | .error e => seqFault s c e
  | .ok (sp, a) =>
    let s := s.modSeq c fun q => { q with busy := if d = 0 then q.busy else d :: q.busy, loads := q.loads + 1 }
    seqNext (issueAccess s (seqAccess c src kind acq false scope sp a data)) c 4 1

/-- A posted store. -/
def seqStore (s : State) (c : Nat) (rel : Bool) (scope : Nat) (ea v : DWord) : State :=
  match seqAddr s c ea with
  | .error e => seqFault s c e
  | .ok (sp, a) => seqNext (issueAccess s (seqAccess c 64 .store false rel scope sp a (toBytes 8 v.toNat))) c 4 1

/-- LDG (R352). -/
def execLdg (f : CF) (s : State) : Res :=
  withSeq s [f.a.toNat, f.d.toNat] fun c k =>
    seqLoad s c f.d.toNat f.d.toNat .load false 0 (greg k f.a.toNat + 8 * f.imm.signExtend 64) []

/-- STG (R352). -/
def execStg (f : CF) (s : State) : Res :=
  withSeq s [f.a.toNat, f.b.toNat] fun c k =>
    seqStore s c false 0 (greg k f.a.toNat + 8 * f.imm.signExtend 64) (greg k f.b.toNat)

/-- LDGA (R352): an acquire at its scope; the next instruction issues with its answer (R345). -/
def execLdga (f : CF) (s : State) : Res :=
  withSeq s [f.a.toNat, f.d.toNat] fun c k =>
    let t := seqLoad s c f.d.toNat (96 + f.d.toNat) .load true f.imm.toNat (greg k f.a.toNat) []
    if (t.core c).seq.loads = k.seq.loads then t else t.modSeq c fun q => { q with wait := .answer, next := s.now + 2 ^ 40 }

/-- STGR (R352): issues once every earlier SEQ access has performed (R345), a release at its scope. -/
def execStgr (f : CF) (s : State) : Res :=
  withSeq s [f.a.toNat, f.b.toNat] fun c k =>
    if (outstanding s c [.seq] f.imm.toNat).isEmpty then seqStore s c true f.imm.toNat (greg k f.a.toNat) (greg k f.b.toNat) else s

/-- AADDG (R352). -/
def execAaddg (f : CF) (s : State) : Res :=
  withSeq s [f.a.toNat, f.b.toNat, f.d.toNat] fun c k =>
    seqLoad s c f.d.toNat f.d.toNat .add64 false 0 (greg k f.a.toNat) (toBytes 8 (greg k f.b.toNat).toNat)

/-- ACASG (R352): g_d is the value compared. -/
def execAcasg (f : CF) (s : State) : Res :=
  withSeq s [f.a.toNat, f.b.toNat, f.d.toNat] fun c k =>
    seqLoad s c f.d.toNat f.d.toNat (.cas64 (greg k f.d.toNat)) false 0 (greg k f.a.toNat) (toBytes 8 (greg k f.b.toNat).toNat)

end Sys2Proof.Machine
end

