-- ==== Sys2Proof/Machine/SeqCtx.lean ====
section
/-! DEFINITION. The sequencer's instructions for stages, predicates, waits and the context: FORK to XFENCE, TRAP, BRK,
SYSRD, SYSWR, MARKER, FLTRD, and their events (R101, R105, R298-R306, R346-R360). -/

namespace Sys2Proof.Machine

/-- A cycle that does not come while a wait stands; what ends the wait sets another. -/
def far : Nat := 2 ^ 62

/-! ## FORK and JOIN (R353) -/

/-- The start token (R101). -/
def startToken : Token := ⟨[1], ⟨0, 0⟩, none, false, false, false⟩

/-- The start token on its way to the consumers of ct ports on a core: each PE with a consumer in the context holds an entry
for it, delivered lat cycles from now. -/
def sendStart (s : State) (c cctx lat : Nat) : State :=
  let k := s.core c
  let pes := (pesOf k cctx).filter fun pe => !(readers k cctx pe 8).isEmpty
  let step := fun (p : List OutRes × State) (pe : Nat) =>
    let (id, s) := reserveIn p.2 c (bkey cctx pe 9) 0 (readers k cctx pe 8, false)
    (p.1 ++ [⟨bkey cctx pe 9, id, some startToken⟩], s)
  let (outs, s) := pes.foldl step ([], s)
  let (fid, s) := s.fresh
  (s.modCore c fun k => { k with flights := k.flights ++ [⟨fid, cctx, 64, 0, outs, none, false⟩] }).after lat .resultDelivery [c, fid]

/-- The core with j0-j31 set from g0-g31 and its stream program started at 0; none counts as ended (R353). -/
def Core.startStream (k : Core) (now : Nat) : Core :=
  let j := (List.range 32).filterMap fun n => if n = 0 then none else some (n, (greg k n).extractLsb' 0 32)
  { k with strm := { k.strm with running := !k.sprog.isEmpty, ended := k.sprog.isEmpty, pc := 0, j := j, next := now + 1 } }

/-- FORK (R353): loads its context, copies the registers, starts the stream program and sends the start token, usable 2
cycles later; a second FORK faults ILLEGAL. -/
def execFork (f : CF) (s : State) : Res :=
  withSeq s (List.range 32) fun c k =>
    if k.forked then seqFault s c 1 else
    let n := f.imm.toNat % 4
    let s := s.setCore c (({ ({ k with forked := true } : Core).switchTo n (s.now + 1) with pastProduct := k.pastProduct } : Core).startStream s.now)
    sendStart (seqNext s c 4 1) c n 2

/-- What JOIN and HALT wait for on core c (R105). -/
def joinHolds (s : State) (c : Nat) : Bool :=
  let k := s.core c
  (match s.launchOf c with | some (_, l) => l.endSent | none => false) && k.strm.ended
    && k.mx.xq0.isEmpty && k.mx.xq1.isEmpty && k.mx.flights.isEmpty

/-- JOIN (R353). -/
def execJoin (_ : CF) (s : State) : Res :=
  withSeq s [] fun c k => if !k.forked then seqFault s c 1 else if joinHolds s c then seqNext s c 4 1 else s

/-- FABRIC_END_TOKEN (R105, R149): the end token of launch [launch] reaches its sequencers. -/
def execFabricEndToken (s : State) : Res := .next (s.modLaunch (s.arg 0) fun l => { l with endSent := true })

/-! ## Switches (R347, R354, R355) -/

/-- The switch to context n is observed in this cycle: no firing starts until it is made (R104, R347). -/
def beginSwitch (s : State) (c n : Nat) : State :=
  (s.modCore c fun k => { k with oldUntil := far, seq := { k.seq with wait := .switch n s.now } }).after 1 .stageSwitch [c]

/-- CTX (R354). -/
def execCtx (f : CF) (s : State) : Res :=
  withSeq s [] fun c k =>
    let n := f.imm.toNat % 4
    match k.seq.wait with
    | .switch _ _ => s
    | _ =>
      if k.loaded = n then seqNext s c 4 1
      else if !k.forked then seqNext (s.setCore c { k with loaded := n }) c 4 1
      else beginSwitch s c n

/-- Whether g_a is a parameter a STAGE kind allows (R355). -/
def stageOk (kind : Nat) (g : DWord) : Bool :=
  match kind with
  | 0 => decide (g.toNat < 2 ^ 32)
  | 1 => g == 0
  | _ => decide (g.toNat < 16)

/-- Whether a STAGE condition was met before this cycle (R355). -/
def stageHolds (s : State) (c kind : Nat) (g : DWord) : Bool :=
  let k := s.core c
  match kind with
  | 0 => decide (g.toNat ≤ k.scnt)
  | 1 => k.bt && decide (k.btAt < s.now)
  | 2 => lineAt s c g.toNat (s.now - 1)
  | _ => !lineAt s c g.toNat (s.now - 1)

/-- STAGE (R355): arms, and switches in the cycle after its condition is met, not before the cycle after it issues. -/
def execStage (f : CF) (s : State) : Res :=
  withSeq s [f.a.toNat] fun c k =>
    let kind := f.imm.toNat / 4 % 4
    let g := greg k f.a.toNat
    match k.seq.wait with
    | .switch _ _ => s
    | .armed _ => if stageHolds s c kind g then beginSwitch s c (f.imm.toNat % 4) else s
    | _ =>
      if !k.forked ∨ !stageOk kind g then seqFault s c 1
      else s.modSeq c fun q => { q with wait := .armed s.now }

/-- A timed history with what is older than 64 cycles and no longer seen dropped. -/
def trimHist {α : Type} (now : Nat) : List (Nat × α) → List (Nat × α)
  | [] => []
  | p :: r => if p.1 + 64 ≤ now then [p] else p :: trimHist now r

/-- PRED (R356). -/
def execPred (f : CF) (s : State) : Res :=
  withSeq s [] fun c k =>
    let i := f.imm.toNat
    let old := timed s.now 0 k.pcon
    let b := 2 ^ (i % 16)
    let v := if bitAt i 4 then old ||| b else old - (old &&& b)
    seqNext (s.setCore c { k with pcon := trimHist s.now ((s.now, v) :: k.pcon) }) c 4 1

/-! ## Waits (R357-R359) -/

/-- WAITEV ends with a value (R357). -/
def endWaitev (s : State) (c d : Nat) (v : DWord) : State := seqResult s c d v 1 4 1

/-- A SEQ-path acquire read at .sys whose value a wait takes (R302, R357). -/
def pollRead (s : State) (c : Nat) (sp : Space) (a : Nat) : State :=
  issueAccess s (seqAccess c 32 .load true false 5 sp a [])

/-- WAITEV (R357). -/
def execWaitev (f : CF) (s : State) : Res :=
  withSeq s [f.a.toNat, f.d.toNat] fun c k =>
    let g := greg k f.a.toNat
    let d := f.d.toNat
    match f.imm.toNat % 4 with
    | 2 =>
      if g.toNat ≤ s.count.toNat then endWaitev s c d s.count
      else match k.seq.wait with
        | .until _ _ => s
        | _ => (s.modSeq c fun q => { q with wait := .until g.toNat d }).after (g.toNat - s.count.toNat) .waitevTimeReached [c]
    | 3 =>
      match k.seq.wait with
      | .poll _ (some v) => if v = 0 then s.modSeq c fun q => { q with wait := .poll g none } else endWaitev s c d v
      | .poll _ none => s
      | _ =>
        match seqAddr s c g with
        | .error e => seqFault s c e
        | .ok (sp, a) =>
          ((pollRead (s.modSeq c fun q => { q with wait := .poll g none }) c sp a).cancelEv .waitevPoll fun l => l == [c]).after 256 .waitevPoll [c]
    | n =>
      if 16 ≤ g.toNat then seqFault s c 1
      else if lineAt s c g.toNat s.now == (n == 0) then endWaitev s c d s.count
      else s

/-- WAITEV_TIME_REACHED (R357): the count that core [core]'s WAITEV waits for has been reached. -/
def execWaitevTimeReached (s : State) : Res :=
  let c := s.arg 0
  let k := s.core c
  match k.seq.wait with
  | .until t d =>
    if k.stopped ∨ k.gated then .next s
    else if t ≤ s.count.toNat then .next (endWaitev s c d s.count)
    else .next (s.after (t - s.count.toNat) .waitevTimeReached [c])
  | _ => .next s

/-- WAITEV_POLL (R357): core [core]'s WAITEV reads its word again, every 256 cycles. -/
def execWaitevPoll (s : State) : Res :=
  let c := s.arg 0
  let k := s.core c
  match k.seq.wait with
  | .poll g _ =>
    if k.stopped ∨ k.gated then .next s
    else match seqAddr s c g with
    | .error _ => .next s
    | .ok (sp, a) => .next ((pollRead s c sp a).after 256 .waitevPoll [c])
  | _ => .next s

/-- TIME (R358). -/
def execTime (f : CF) (s : State) : Res := withSeq s [f.d.toNat] fun c _ => seqResult s c f.d.toNat s.count 2 4 1

/-- XFENCE of the sequencer (R189, R359). -/
def execSeqXfence (f : CF) (s : State) : Res :=
  withSeq s [] fun c _ =>
    match seqRelease s c (pathsOf (f.imm.toNat % 128)) (f.b.toNat / 4) with
    | some t => t
    | none => seqNext (if 4 ≤ f.b.toNat / 4 then acquireFar s c else s) c 4 1

/-! ## System registers (R298-R301) -/

/-- The value SYSRD gives (R299): MODE as last written. -/
def sysReg (s : State) (c n : Nat) : DWord :=
  let k := s.core c
  match s.launchOf c with
  | none => 0
  | some (_, l) =>
    let x := s.ctx l.ctx
    match n with
    | 0 => dword l.ctx
    | 1 => x.statebase
    | 2 => x.fltbase
    | 3 => (k.mode.head?.map (·.2)).getD 0
    | 4 => timed s.now 0 l.wdog
    | 5 => timed s.now 0 l.snapcfg
    | 6 => dword (k.grel * 2 ^ 10 + c)
    | 7 => dword (l.origin * 2 ^ 22 + l.rows * 2 ^ 8 + l.cols)
    | 8 => dword (dieOf c)
    | 9 => dword s.topo.pkg.toNat
    | 10 => dword (s.count.toNat % 2 ^ 32)
    | _ => dword k.latch.toNat

/-- SYSRD (R301, R307): 2 cycles. -/
def execSysrd (f : CF) (s : State) : Res :=
  withSeq s [f.d.toNat] fun c _ =>
    let n := f.imm.toNat
    let v := sysReg s c n
    let s := if n = 10 then s.modCore c fun k => { k with latch := s.count.extractLsb' 32 32 } else s
    seqResult s c f.d.toNat v 2 4 2

/-- Whether SYSWR may write a value to a register (R301). -/
def sysOk (s : State) (c n : Nat) (v : DWord) : Bool :=
  match n with
  | 3 => decide (v.toNat < 32) && !bitAt v.toNat 3 && decide (v.toNat % 8 ≤ 5)
  | 4 => decide (v.toNat < 2 ^ 32)
  | _ => decide (v.toNat < 2 ^ 32) && fld v.toNat 7 2 == 0 && v.toNat % 2 == (sysReg s c 5).toNat % 2

/-- The cycle of a launch's next periodic cut, when it has a period (R289). -/
def Launch.cutDue (l : Launch) (now : Nat) : Option Nat :=
  let p := fld (timed now 0 l.snapcfg).toNat 31 8
  if !l.snapOn now ∨ p = 0 then none else some (max now (l.lastCut + 1024 * p))

/-- SYSWR (R301): MODE applies from 2 cycles later on, WDOG and SNAPCFG to the group from 8 cycles later on. -/
def execSyswr (f : CF) (s : State) : Res :=
  withSeq s [f.a.toNat] fun c k =>
    let n := f.imm.toNat
    let v := greg k f.a.toNat
    if !sysOk s c n v then seqFault s c 1 else
    match s.launchOf c with
    | none => s
    | some (g, _) =>
      let s := match n with
        | 3 => s.setCore c { k with mode := trimHist s.now ((s.now + 2, v) :: k.mode) }
        | 4 => s.modLaunch g fun l => { l with wdog := trimHist s.now ((s.now + 8, v) :: l.wdog) }
        | _ => (s.modLaunch g fun l => { l with snapcfg := trimHist s.now ((s.now + 8, v) :: l.snapcfg) }).after 8 .cutPeriod [g]
      seqNext s c 4 1

/-! ## TRAP, BRK, MARKER, FLTRD (R302-R306) -/

/-- Whether a context's fault ring has room for a record (R293). -/
def ringRoom (s : State) (ctx : Nat) : Bool :=
  let (base, sz) := (s.ctx ctx).ring
  match s.ctxReadDws ctx base 2 with
  | .ok h => decide (((h.getD 0 0).toNat + 2 ^ 32 - (h.getD 1 0).toNat) % 2 ^ 32 < 2 ^ sz)
  | .error _ => false

/-- The virtual address of DW7 of a ring's record (R293). -/
def answerAddr (x : Ctx) (i : Nat) : Nat := x.ring.1 + 64 + 64 * (i % 2 ^ x.ring.2) + 56

/-- TRAP (R302): waits for room, writes its record, then for the answer; a restored TRAP takes up its record again. -/
def execTrap (f : CF) (s : State) : Res :=
  withSeq s [f.a.toNat, f.d.toNat] fun c k =>
    match s.launchOf c with
    | none => s
    | some (_, l) =>
      match k.seq.wait with
      | .trap i (some v) =>
        if v.getLsbD 63 then
          seqResult (s.modSeq c fun q => { q with trapIdx := none }) c f.d.toNat (v &&& 0x7FFFFFFFFFFFFFFF#64) 2 4 2
        else s.modSeq c fun q => { q with wait := .trap i none }
      | .trap _ none => s
      | _ =>
        match k.seq.trapIdx with
        | some i => ((s.modSeq c fun q => { q with wait := .trap i none }).cancelEv .trapPoll fun l => l == [c]).after 256 .trapPoll [c]
        | none =>
          if !ringRoom s l.ctx then s else
          let r : Rec :=
            { cause := 20, origin := 2, core := c, offset := k.seq.pc, queue := l.queue, code := f.imm.toNat
              detail := (greg k f.a.toNat).toNat }
          match s.record l.ctx r with
          | (s, some i) => ((s.modSeq c fun q => { q with wait := .trap i none, trapIdx := some i }).cancelEv .trapPoll fun l => l == [c]).after 256 .trapPoll [c]
          | (_, none) => s

/-- TRAP_POLL (R302): core [core]'s TRAP reads DW7 of its record, every 256 cycles. -/
def execTrapPoll (s : State) : Res :=
  let c := s.arg 0
  let k := s.core c
  match k.seq.wait, s.launchOf c with
  | .trap i _, some (_, l) =>
    if k.stopped ∨ k.gated then .next s
    else .next ((pollRead s c .virt (answerAddr (s.ctx l.ctx) i)).after 256 .trapPoll [c])
  | _, _ => .next s

/-- BRK (R303): a record and a freeze to FROZEN, SEQPC past it; where a freeze has begun and not yet reached the core, a wave starts there. -/
def execBrk (f : CF) (s : State) : Res :=
  withSeq s [] fun c k =>
    match s.launchOf c with
    | none => s
    | some (n, l) =>
      let r : Rec := { cause := 21, origin := 2, core := c, offset := k.seq.pc, frz := true, queue := l.queue, code := f.imm.toNat }
      let s := seqNext (s.record l.ctx r).1 c 4 1
      if l.state = .freezing then s.waveFrom n c l else s.freeze n c .frozen

/-- MARKER (R304): with snapshots on it triggers or joins a cut and waits for its LIVE; g_d is written and the sequencer goes on then. -/
def execMarker (f : CF) (s : State) : Res :=
  withSeq s [f.d.toNat] fun c _ =>
    match s.launchOf c with
    | none => s
    | some (n, l) =>
      if !l.snapOn s.now then seqResult s c f.d.toNat 0 1 4 1
      else
        (s.modSeq c fun q => { q with wait := .cut l.interval f.d.toNat }).after 0 .cut [n, c]

/-- The level latency of a virtual address for the device's own accesses; 60 where it does not translate. -/
def ringLevel (s : State) (c ctx va : Nat) : Nat :=
  match s.walk ctx va .read with
  | .ok t => levelPhys s c t.pa 16 true true
  | .error _ => 60

/-- Waits for the page of an address on the SEQ path, asking for it once (R191, R401). -/
def awaitPage (s : State) (c : Nat) (wr : Bool) (a n : Nat) : State :=
  if probing s c .seq then s else probe s c (.seq 64) .seq wr a n

/-- n bytes at a virtual address read or written on the SEQ path in one step (log 15): body gets where they lie; a page that does not translate
stalls as every access of the path does (R191), a bad address faults; what the sequencer issued earlier there goes first (R260). -/
def seqReach (s : State) (c : Nat) (wr : Bool) (a n : Nat) (body : List (Nat × Nat) → State) : State :=
  match reach s c .virt a n wr with
  | .ok l => if seqBehind s c .virt a n l then s else body l
  | .miss => awaitPage s c wr a n
  | .wait => s
  | .bad x => seqFault s c x

/-- The value read, as a doubleword, of 8 bytes of stretches from byte o on. -/
def dwordAt (b : List Byte) (o : Nat) : Nat := ofBytes ((b.drop o).take 8)

/-- FLTRD (R306): the ring read in one step, with an acquire at .sys, which self-invalidates the far cache first (R245); HEAD is written with a
release at .sys. -/
def execFltrd (f : CF) (s : State) : Res :=
  withSeq s [f.a.toNat, f.d.toNat] fun c k =>
    let ctx := s.ctxOf c
    let (base, sz) := (s.ctx ctx).ring
    match (if f.imm = 9 then seqRelease s c (pathsOf 127) 5 else none) with
    | some t => t
    | none =>
    seqReach s c false base 16 fun l =>
      let s := touchUnit (acquireFar s c) c .seq l false
      let b := takeBytes s c l
      let head := dwordAt b 8
      let u := (dwordAt b 0 + 2 ^ 32 - head) % 2 ^ 32
      let g := (greg k f.a.toNat).toNat
      let lat := ringLevel s c ctx base + 2
      let answer := fun (s : State) (v : Nat) => seqResult s c f.d.toNat (dword v) lat 4 lat
      match f.imm.toNat with
      | 8 => answer s u
      | 9 =>
        let n := (head + min g u) % 2 ^ 32
        seqReach s c true (base + 8) 8 fun w => answer (giveBytes s c .seq w (toBytes 8 n)) n
      | i =>
        if u ≤ g then answer s 0 else
        seqReach s c false (base + 64 + 64 * ((head + g) % 2 ^ sz) + 8 * i) 8 fun r =>
          let s := touchUnit s c .seq r false
          answer s (dwordAt (takeBytes s c r) 0)

end Sys2Proof.Machine
end

