-- ==== Sys2Proof/Machine/SeqGroup.lean ====
section
/-! DEFINITION. The group instructions: SEAM, GUARD, GRPID, GANG (R373-R377). -/

namespace Sys2Proof.Machine

/-- The edge ports of the loaded context that are bound to a seam and open (R374). -/
def openSeams (k : Core) (now : Nat) : Nat :=
  (List.range 64).foldl (fun m e =>
    if AMap.find? k.bind (64 * k.loaded + e) = some 16 ∧ !seamClosed k now k.loaded e then m + 2 ^ e else m) 0

/-- SEAM (R374): 0 query, 1 close, 2 open, for tokens that leave from 2 cycles later on. -/
def execSeam (f : CF) (s : State) : Res :=
  withSeq s [f.a.toNat, f.d.toNat] fun c k =>
    let m := (greg k f.a.toNat).toNat
    let v := dword (openSeams k s.now)
    let named := (List.range 64).filter fun e => bitAt m e && AMap.find? k.bind (64 * k.loaded + e) == some 16
    let new : List (Nat × Nat × Nat × Bool) := named.map fun e => (s.now + 2, k.loaded, e, f.imm == 1)
    let s := if f.imm = 0 then s else s.setCore c { k with seamShut := new ++ k.seamShut }
    seqResult s c f.d.toNat v 2 4 2

/-- Whether a sink word names a side of a node of the group that a token can be returned to (R375). -/
def sinkOk (s : State) (l : Launch) (w : DWord) : Bool :=
  let n := w.toNat
  match l.cores[fld n 22 15]? with
  | none => false
  | some c =>
    let k := s.core c
    let cctx := fld n 14 13
    let pe := fld n 11 6
    let slot := n % 64
    decide (n < 2 ^ 23) && bitAt k.ctxm cctx && (nodeSlots k cctx pe).contains slot &&
      (match AMap.find? k.nodes (nkey cctx pe slot) with
       | some t => decide ((if bitAt n 12 then (nodeFields t.instr).b.toNat else (nodeFields t.instr).a.toNat) ≤ 8)
       | none => false)

/-- GUARD (R375): answers GDROP; a mode set applies to drops from 4 cycles later on. -/
def execGuard (f : CF) (s : State) : Res :=
  withSeq s [f.a.toNat, f.d.toNat] fun c k =>
    match s.launchOf c with
    | none => s
    | some (n, l) =>
      let w := greg k f.a.toNat
      let kind := f.imm.toNat
      let lat := if kind = 2 then 4 else 2
      if kind = 2 ∧ !sinkOk s l w then seqFault s c 1 else
      let s := if kind = 0 then s else s.modLaunch n fun l => { l with gmode := trimHist s.now ((s.now + 4, kind, w) :: l.gmode) }
      seqResult s c f.d.toNat (dword l.gdrop.toNat) lat 4 lat

/-- GRPID (R376). -/
def execGrpid (f : CF) (s : State) : Res :=
  withSeq s [f.d.toNat] fun c k =>
    match s.launchOf c with
    | none => s
    | some (_, l) =>
      let v := match f.imm.toNat with
        | 0 => k.grel + k.grel / l.cols * 2 ^ 8 + k.grel % l.cols * 2 ^ 12
        | 1 => l.gnum
        | _ => l.slices.length + l.ways * 2 ^ 8
      seqResult s c f.d.toNat (dword v) 2 4 2

/-- GANG (R377): ILLEGAL in a launch without a gang. -/
def execGang (f : CF) (s : State) : Res :=
  withSeq s [f.d.toNat] fun c _ =>
    match (s.launchOf c).bind fun l => l.2.gang with
    | none => seqFault s c 1
    | some g => seqResult s c f.d.toNat (dword (if f.imm = 0 then g.gang * 2 ^ 32 + g.round else g.start)) 2 4 2

end Sys2Proof.Machine
end

