-- ==== Sys2Proof/Machine/Queue.lean ====
section
/-! DEFINITION. Queues: launch records, completion counters, the queue registers and states, dependences, the end of a launch
and of an instance; HALT, CANCEL, DONE, ENQ (R106, R107, R305, R308-R317, R325, R328, R497). -/

namespace Sys2Proof.Machine

/-! ## Launch records (R311) -/

/-- Bits hi:lo of doubleword n of a record. -/
def recFld (r : List DWord) (n hi lo : Nat) : Nat := fld (r.getD n 0).toNat hi lo

/-- Kind: 0 launch, 1 graph, 2 marker, 3 barrier. -/
def recKind (r : List DWord) : Nat := recFld r 0 1 0
/-- Priority. -/
def recPrio (r : List DWord) : Nat := recFld r 0 10 8
/-- Group rows and columns. -/
def recRows (r : List DWord) : Nat := recFld r 0 20 16
def recCols (r : List DWord) : Nat := recFld r 0 28 24
/-- Marker level. -/
def recLevel (r : List DWord) : Nat := recFld r 0 37 36
/-- Whether a launch starts by the gang protocol. -/
def recGang (r : List DWord) : Bool := recKind r == 0 && bitAt (r.getD 0 0).toNat 6
/-- Completion counter and image. -/
def recComplete (r : List DWord) : Nat := (r.getD 2 0).toNat
def recImage (r : List DWord) : Nat := (r.getD 1 0).toNat
/-- Records the head takes: a graph's and its NL launches'. -/
def recLen (r : List DWord) : Nat := if recKind r = 1 then 2 + recFld r 3 3 0 else 1

/-- The checks of one record (R313). -/
def recOk (r : List DWord) : Bool :=
  let d0 := (r.getD 0 0).toNat
  let aux := (r.getD 3 0).toNat
  let kind := recKind r
  let auxBits := match kind with | 0 => if recGang r then 16 else 0 | 1 => 4 | 2 => 0 | _ => 14
  fld d0 63 48 == 0 && fld d0 39 38 == 0 && fld d0 35 29 == 0 && fld d0 23 21 == 0 && fld d0 15 11 == 0 && fld d0 3 2 == 0
    && ((List.range 4).all fun i => recFld r (5 + 2 * i) 63 63 == 0 && (r.getD (4 + 2 * i) 0).toNat % 8 == 0)
    && recLevel r != 3 && (kind == 2 || recLevel r == 0) && decide (aux < 2 ^ auxBits)
    && recImage r % 64 == 0 && recComplete r % 8 == 0
    && (if kind = 0 then decide (1 ≤ recRows r) && decide (recRows r ≤ 16) && decide (1 ≤ recCols r) && decide (recCols r ≤ 16)
        else recRows r == 0 && recCols r == 0 && fld d0 7 4 == 0 && recImage r == 0)

/-- A graph's launches: launches with no DEPENDS and no gang (R313). -/
def memberOk (r : List DWord) : Bool := recOk r && recKind r == 0 && recFld r 0 43 40 == 0 && !recGang r

/-! ## The scheduler's own accesses (R497) -/

/-- The physical address of a scheduler access: a failed translation, a leaf that is MIGRATING, as a level past the last (R402), or a reserved
region. -/
def schedAt (s : State) (ctx va : Nat) (acc : Acc) : Except (Option (Nat × Nat)) Nat :=
  match s.walk ctx va acc with
  | .error e => .error (some e)
  | .ok t =>
    if fld t.leaf 61 59 = 5 then .error (some (5, 0))
    else if (memRegion s t.pa).isNone then .error none else .ok t.pa

/-- A failed translation stalls one request of the scheduler or its loader, ask, for queue q, which joins its page's entry in HD0's table (die
4) or enters it with one record (R401); with the table full, or its page MIGRATING (R402, log 35), it tries again as event i. -/
def schedAsk (s : State) (q : Nat) (ask : Nat × Nat × Nat) (wr : Bool) (e : Nat × Nat) (i : Instr) (again : List Nat) : State :=
  let ctx := (s.queue q).ctx
  let va := ask.2.2
  let retry := fun (t : Nat) => if s.agenda.any (fun x => x.2 == (i, .nums again)) then s else s.after t i again
  if e.1 = 5 then retry 64 else
  match (s.die 4).stalls.find? fun t => t.ctx == ctx && t.va == va / 65536 with
  | some _ => s.modDie 4 fun d => { d with stalls := d.stalls.map fun t =>
      if t.ctx == ctx && t.va == va / 65536 && !t.asks.contains ask then { t with asks := t.asks ++ [ask] } else t }
  | none =>
    if 256 ≤ (s.die 4).stalls.length then retry 16 else
    let cause := if e.2 = 1 ∨ e.2 = 2 then 9 else 8
    let r : Rec := { cause := cause, origin := 10, addr := va, queue := q, detail := e.1 + e.2 * 16 + b2n wr * 256 }
    let (s, i) := s.record ctx r
    s.modDie 4 fun d => { d with stalls := d.stalls ++ [⟨ctx, va / 65536, wr, i.getD (2 ^ 32), cause, [], [ask]⟩] }

/-- A failed translation stalls one access of queue q (R497). -/
def schedStall (s : State) (q va : Nat) (wr : Bool) (e : Nat × Nat) : State := schedAsk s q (0, q, va) wr e .headCheck [q, 1]

/-- A queue enters ERROR with a record that freezes nothing (R309, R313, R314, R497); counter writes that are stalled wait on. -/
def queueError (s : State) (q cause addr detail : Nat) : State :=
  let s := (s.record (s.queue q).ctx { cause := cause, origin := 10, addr := addr, queue := q, detail := detail }).1
  s.modQueue q fun k => { k with state := .error, resv := [], victims := [], ending := none }

/-- The outcome of a scheduler read of n doublewords of one page: the queue stalls or errs where it fails. -/
def schedPart (s : State) (q va n : Nat) : Except State (List DWord) :=
  match schedAt s (s.queue q).ctx va .read with
  | .error (some e) => .error (schedStall s q va false e)
  | .error none => .error (queueError s q 7 va 0)
  | .ok pa => .ok ((List.range n).map fun i => dword (s.phys64 (pa + 8 * i)))

/-- A scheduler read of n doublewords, which may go on into a second page. -/
def schedRead (s : State) (q va n : Nat) : Except State (List DWord) :=
  let m := (65536 - va % 65536) / 8
  if n ≤ m then schedPart s q va n else
  match schedPart s q va m, schedPart s q (va + 8 * m) (n - m) with
  | .error t, _ => .error t
  | _, .error t => .error t
  | .ok a, .ok b => .ok (a ++ b)

/-- Queues whose blocked or armed head depends on the counter at a physical address are evaluated in this cycle (R316). -/
def wakeDeps (s : State) (pa : Nat) : State :=
  s.queues.foldl (fun s p =>
    let r := p.2.recs.getD 0 []
    if (p.2.state == .blocked || p.2.state == .armed) && ((List.range 4).any fun i => recFld r 0 (40 + i) (40 + i) == 1 &&
      (match schedAt s p.2.ctx (r.getD (4 + 2 * i) 0).toNat .read with | .ok x => x == pa | .error _ => false))
    then s.after 0 .dependenceEvaluation [p.1] else s) s

/-- A completion counter advances (R317): 1 is added to bits 62:0, and CAN is ORed into bit 63. Answers whether it was made. -/
def countAt (s : State) (q va : Nat) (can : Bool) : State × Bool :=
  if va = 0 then (s, true) else
  match schedAt s (s.queue q).ctx va .atomic with
  | .error (some e) => (schedStall s q va true e, false)
  | .error none => ((queueError s q 7 va 0).modQueue q fun k => { k with pend := k.pend.erase (va, can) }, false)
  | .ok pa =>
    let v := s.phys64 pa
    let n := (v + 1) % 2 ^ 63 + (if can ∨ 2 ^ 63 ≤ v then 2 ^ 63 else 0)
    (wakeDeps (s.putPhys pa (toBytes 8 n)) pa, true)

/-- Makes the counter writes of a queue that are due, in order; one that stalls waits and holds none of the others (R497). -/
def flushPend (q : Nat) (s : State) : State :=
  (s.queue q).pend.foldl (fun s p =>
    match countAt s q p.1 p.2 with
    | (s, true) => s.modQueue q fun k => { k with pend := k.pend.erase p }
    | (s, false) => s) s

/-! ## Heads and endings (R314) -/

/-- Ring address of record i (R308). -/
def Queue.ringAddr (k : Queue) (i : Nat) : Nat :=
  fld k.base.toNat 55 7 * 128 + 128 * (i % 2 ^ fld k.base.toNat 4 0)

/-- Records accepted and not yet completed. -/
def Queue.used (k : Queue) : Nat := (k.tail - k.head).toNat

/-- The queue looks at its next record: EMPTY, BLOCKED until it is read, or SUSPENDED (R314, R318). -/
def toHead (s : State) (q : Nat) : State :=
  let k := s.queue q
  let rest : Queue := { k with recs := [], launches := [], saved := false, resv := [], victims := [], skip := 0, spill := [], spilled := false, spillRec := none, round := 0, deadline := 0 }
  if k.state = .error then s
  else if !k.en then s.modQueue q fun _ => { rest with state := .suspended, deficit := 0, waits := 0 }
  else if k.tail = k.head then s.modQueue q fun _ => { rest with state := .empty, deficit := 0 }
  else (s.modQueue q fun _ => { rest with state := .blocked }).after 0 .headCheck [q]

/-- Job markers that are heads of a context's queues are looked at again (R312). -/
def wakeMarkers (s : State) (ctx : Nat) : State :=
  s.queues.foldl (fun s p =>
    if p.2.ctx == ctx && p.2.state == .blocked && recKind (p.2.recs.getD 0 []) == 2 then s.after 0 .dependenceEvaluation [p.1] else s) s

/-- Records i and on of a queue as they stand in its ring, n of them. -/
def ringRecs (s : State) (q : Nat) (i : Nat) : Nat → Except State (List (List DWord))
  | 0 => .ok []
  | n + 1 =>
    match schedRead s q ((s.queue q).ringAddr i) 16 with
    | .error t => .error t
    | .ok r => (ringRecs s q (i + 1) n).map (r :: ·)

/-- The head record of a queue with a graph's launches: as read, or from the ring. -/
def headRecs (s : State) (q : Nat) : Except State (List (List DWord)) :=
  let k := s.queue q
  if !k.recs.isEmpty then .ok k.recs else
  match ringRecs s q k.head.toNat 1 with
  | .error t => .error t
  | .ok l => ringRecs s q k.head.toNat (min (recLen (l.getD 0 [])) k.used)

/-- Ends the records of a queue up to the index its ending names: each one's counters advance, then HEAD (R314, R317,
R328). -/
def runEnding (q : Nat) : Nat → State → State
  | 0, s => s
  | f + 1, s =>
    let s := flushPend q s
    let k := s.queue q
    if !k.pend.isEmpty ∨ k.state = .error then s else
    match k.ending with
    | none => s
    | some (e, can, inner, n) =>
      if n ≠ 0 then
        runEnding q f (s.modQueue q fun k =>
          { k with head := k.head + BitVec.ofNat 32 n, recs := [], launches := [], saved := false, state := .blocked,
                   accepted := k.accepted.filter fun p => p.1 != k.head.toNat, ending := some (e, can, inner, 0) })
      else if k.head = BitVec.ofNat 32 e ∨ k.tail = k.head then
        wakeMarkers (toHead (s.modQueue q fun k => { k with ending := none }) q) k.ctx
      else
        match headRecs s q with
        | .error t => t
        | .ok rs =>
          let own := (recComplete (rs.getD 0 []), can)
          let begun := k.state = .active ∨ k.saved
          let sub := if inner ∧ !begun then (rs.drop 1).map fun r => (recComplete r, can) else []
          runEnding q f (s.modQueue q fun k => { k with pend := k.pend ++ sub ++ [own], ending := some (e, can, inner, rs.length) })

/-- The scheduler's requests of a queue are made again (R401, R497). -/
def retryQueue (s : State) (q : Nat) : State :=
  let s := runEnding q (8 * ((s.queue q).used + 2) + 64) s
  ((flushPend q s).after 0 .headCheck [q]).after 0 .dependenceEvaluation [q] |>.after 0 .spillPassPlace [q]

/-- Ends a queue's records up to index e. -/
def endTo (s : State) (q e : Nat) (can inner : Bool) : State :=
  let s := s.modQueue q fun k => { k with ending := some (e, can, inner, 0), resv := [], victims := [] }
  runEnding q (8 * ((s.queue q).used + 2) + 64) s

/-! ## The end of a launch (R106, R107, R274, R305, R362) -/

/-- An entry of an interval store buffer in its place among those of rising sector. -/
def insertSector (e : StEnt) : List StEnt → List StEnt
  | [] => [e]
  | x :: r => if e.sector ≤ x.sector then e :: x :: r else x :: insertSector e r

/-- Writes the buffered stores of a launch into memory and the slice caches, by rising sector, and frees the entries (R274). -/
def commit (s : State) (n : Nat) : State :=
  let es := (s.dies.flatMap fun d => d.2.slices.flatMap fun x => x.2.stores.filter (·.launch == n)).foldr insertSector []
  let put := fun (s : State) (e : StEnt) =>
    let s := (List.range 32).foldl (fun (s : State) i =>
      if e.mask.getLsbD i then { s with mem := writeByte s.mem (32 * e.sector + i) (e.bytes.getD i 0) } else s) s
    let s := if e.mask = BitVec.allOnes 32 then { s with poison := clearPoison s.poison (32 * e.sector) 32 } else s
    if 32 * e.sector < 2 ^ 49 then
      touchSlice s (homeDie (32 * e.sector)) .fab 0 (32 * e.sector) (if e.mask = BitVec.allOnes 32 then 32 else 1) false true
    else s
  let s := es.foldl put s
  { s with dies := s.dies.map fun d =>
      (d.1, { d.2 with slices := d.2.slices.map fun x => (x.1, { x.2 with stores := x.2.stores.filter (·.launch != n) }) }) }

/-- The stores that the write-combining buffers of launches still hold drain, before these end: the completion counter is written with a
release at .sys (R265, R317; DEDUCED, log 11). -/
def drainOut (s : State) (ns : List Nat) : State :=
  s.cores.foldl (fun s p =>
    if (match p.2.launch with | some n => ns.contains n | none => false) && !p.2.wc.isEmpty then drainAll s p.1 fun _ => true else s) s

/-- A core that no launch holds: what does not belong to a launch is kept. -/
def Core.vacate (k : Core) : Core := { Core.idle with tlb := k.tlb, acq := k.acq, latch := k.latch }

/-- A core leaves its launch: its engine's balance goes back to the governor (R224, R232). A grant that is asked for or on its way has no
engine to reach any more: it is withdrawn, and its 256 cycles go with it (DESIGN CHOICE, log 17). -/
def freeCore (s : State) (c : Nat) : State :=
  let s := returnBalance s c
  let d := dieOf c
  let asked := (s.die d).waiting.any fun e => e % 1024 == c
  let s := if (s.core c).mx.requested && !asked then
      ((s.cancelEv .grantArrival fun l => l == [c]).modDie d fun x => { x with d := x.d - 256 }).after 0 .governorGrant [d] else s
  let s := s.modDie d fun x => { x with waiting := x.waiting.filter fun e => e % 1024 != c }
  let s := { s with msgs := s.msgs.filter fun p => p.2.left || p.2.src != c }
  s.modCore c Core.vacate

/-- An image entry loses a user (R331). -/
def dropUser (s : State) (e n : Nat) : State :=
  match AMap.find? s.entries e with
  | none => s
  | some x =>
    let u := x.users.filter (· != n)
    let y : Entry := { x with users := u, state := if u.isEmpty ∧ x.state = .inUse then .resident else x.state }
    { s with entries := AMap.put s.entries e y }

/-- The active domains of a launch's order slices, with those that a save has taken from them (R268); nothing is held. -/
def domainsOf (s : State) (n : Nat) (l : Launch) : List Domain :=
  let now := ((s.die l.die).slices.flatMap fun x => x.2.doms.filter (·.launch == n)).map fun d => { d with held := [] }
  now ++ l.doms.filter fun d => !now.any (·.dom == d.dom)

/-- The cores of a launch leave it, with everything they hold (R107): accesses not yet performed, waits at barriers and counters;
its order-slice domains go with the launch (R268). -/
def vacateGroup (s : State) (n : Nat) (l : Launch) : State :=
  let doms := domainsOf s n l
  let s := (releaseWays s n l).modLaunch n fun x => { x with doms := doms }
  let cs := l.cores.filter fun c => (s.core c).launch == some n
  let bars := s.bars.map fun (p : Nat × Bar) => (p.1, { p.2 with waiters := p.2.waiters.filter fun w => !cs.contains w.1 })
  let wcnts := s.wcnts.map fun (p : Nat × Wcnt) => (p.1, { p.2 with waiters := p.2.waiters.filter fun w => !cs.contains w })
  let slices := fun (x : Nat × Slice) => (x.1, { x.2 with doms := x.2.doms.filter (·.launch != n) })
  let dies := s.dies.map fun (d : Nat × Die) => (d.1, { d.2 with slices := d.2.slices.map slices })
  let s := { s with accs := s.accs.filter (fun p => !cs.contains p.2.core), bars := bars, wcnts := wcnts, dies := dies,
                    ops := s.ops.filter fun p => !l.guardQ.contains p.1 }
  let s := s.cancelEv .qtailWrite fun a => decide (a.length = 4) && cs.contains (a.getD 1 0)
  cs.foldl freeCore s

/-- A launch ends: its buffered stores are committed, its cores freed, its image entry loses it (R274, R331, R362). -/
def removeLaunch (s : State) (n : Nat) (l : Launch) : State :=
  let s := commit s n
  let s := dropUser (vacateGroup s n l) l.entry n
  let s := s.cancelEv .coreLoadComplete fun x => x.head? == some n
  let s := s.cancelEv .restore fun x => x.head? == some n
  let s := s.cancelEv .saveComplete fun x => x.head? == some n
  ({ s with launches := AMap.del s.launches n }).refreshCtx l.ctx

/-- The spill descriptors that the bin units of a launch's cores have registered (R440), each with its layer's number of
experts as a ninth doubleword. -/
def launchSpills (s : State) (n : Nat) (l : Launch) : List (List DWord) :=
  let cs := l.cores.filter fun c => (s.core c).launch == some n
  let nexp := fun (layer : Nat) => (cs.flatMap fun c => ((s.core c).rows.layers.filter fun p => p.2.layer == layer).map (·.2.nexp)).foldl max 0
  (cs.flatMap fun c => (s.core c).rows.spills).filterMap fun d =>
    if d.getD 3 0 = 0 then none else some (d ++ [dword (nexp (fld (d.getD 0 0).toNat 63 48))])

/-- A launch of an instance ends with its own counter, when the head's is another (R317); the spill descriptors that its bin
units registered go to the instance (R321, R440). -/
def closeLaunch (s : State) (n : Nat) (can : Bool) : State :=
  match AMap.find? s.launches n with
  | none => s
  | some l =>
    let sp := launchSpills s n l
    let s := removeLaunch s n l
    let k := s.queue l.queue
    if !k.launches.contains n then s else
    let own := if k.recs.head? = some l.recd then [] else [(recComplete l.recd, can)]
    s.modQueue l.queue fun k => { k with launches := k.launches.filter (· != n), pend := k.pend ++ own, spill := k.spill ++ sp }

/-- A launch completes, or is cancelled alone (R106, R328): with the last one the instance completes, after its spill pass
(R321). -/
def finishLaunch (s : State) (n : Nat) (can : Bool) : State :=
  match AMap.find? s.launches n with
  | none => s
  | some l =>
    let q := l.queue
    let s := closeLaunch s n can
    let k := s.queue q
    if !k.launches.isEmpty ∨ k.spillRec.isSome then flushPend q s
    else if !k.spill.isEmpty ∧ !k.spilled ∧ !can then (flushPend q s).after 0 .spillPassPlace [q]
    else
      let r := k.recs.getD 0 []
      endTo s q (k.head.toNat + recLen r) (can && recKind r == 0) false

/-- HALT (R305, R307); with the last core's the launch completes, unless a freeze or a cut has begun (R281). -/
def execHalt (_ : CF) (s : State) : Res :=
  withSeq s [] fun c _ =>
    if !joinHolds s c then s else
    let s := s.modSeq c fun q => { q with halted := true, pc := q.pc + 4, next := s.now + 1, wait := .none }
    match s.launchOf c with
    | none => s
    | some (n, l) =>
      let s := s.after 0 .spillPassPlace [l.queue]
      if (l.state = .running ∨ l.state = .gating) ∧ l.cores.all (fun k => (s.core k).seq.halted) then
        s.modLaunch n fun l => { l with state := .complete, gstate := .quiescent }
      else s

/-! ## CANCEL and DONE (R107, R328) -/

/-- The index up to which the records of a queue that CANCEL or DONE found there go, TAIL having been t then (R328); records accepted
later are not reached. -/
def Queue.presentTo (k : Queue) (t : Nat) : Nat :=
  k.head.toNat + (if (BitVec.ofNat 32 t - k.head).toNat ≤ k.used then (BitVec.ofNat 32 t - k.head).toNat else 0)

/-- The index past the next marker of a queue at or above a level, from index i on and before index e; none when there is none. A read that
fails stalls or errs as every read of the scheduler does (R497). -/
def markerEnd (s : State) (q lvl e : Nat) : Nat → Nat → Except State (Option Nat)
  | 0, _ => .ok none
  | f + 1, i =>
    let k := s.queue q
    if e ≤ i ∨ k.state = .error then .ok none else
    match (if BitVec.ofNat 32 i = k.head ∧ !k.recs.isEmpty then .ok (k.recs.getD 0 []) else schedRead s q (k.ringAddr i) 16) with
    | .error t => .error t
    | .ok r => if recKind r = 2 ∧ lvl ≤ recLevel r then .ok (some (i + 1)) else markerEnd s q lvl e f (i + recLen r)

/-- The launches of a queue's head instance end (R107). -/
def closeHead (s : State) (q : Nat) (can : Bool) : State := (s.queue q).launches.foldl (fun s n => closeLaunch s n can) s

/-- Ends a queue's records up to index e, placed ones among them; a queue in ERROR takes no record further. -/
def endReach (s : State) (q e : Nat) (can : Bool) : State :=
  if (s.queue q).state = .error then closeHead s q can
  else if (s.queue q).head = BitVec.ofNat 32 e then s else endTo (closeHead s q can) q e can true

/-- The next LEVEL 2 marker of a context among the records that were present: its acceptance cycle, queue and the index past it,
earliest first (R312, R317, R328). -/
def jobMarker (s : State) (ctx : Nat) (tails : AMap Nat) : Except State (Option (Nat × Nat × Nat)) :=
  let all : Except State (List (Nat × Nat × Nat)) := (s.queues.filter fun p => p.2.ctx == ctx).foldl (fun r p =>
    match r, markerEnd s p.1 2 (p.2.presentTo (AMap.get tails p.1 p.2.head.toNat)) (p.2.used + 1) p.2.head.toNat with
    | .error t, _ => .error t
    | .ok _, .error t => .error t
    | .ok l, .ok none => .ok l
    | .ok l, .ok (some e) => .ok ((AMap.get p.2.accepted ((e - 1) % 2 ^ 32) 0, p.1, e) :: l)) (.ok [])
  all.map (leastBy fun a b => decide (a.1 < b.1) || (a.1 == b.1 && decide (a.2.1 < b.2.1)))

/-- Records of a queue accepted before a job marker (R312). -/
def acceptedBefore (k : Queue) (q : Nat) (m : Nat × Nat × Nat) : Nat :=
  if q = m.2.1 then m.2.2 else
  k.head.toNat + ((List.range k.used).takeWhile fun i =>
    let t := AMap.get k.accepted ((k.head.toNat + i) % 2 ^ 32) 0
    decide (t < m.1) || (t == m.1 && decide (q < m.2.1))).length

/-- CANCEL and DONE of launch n at a level: 1 launch, 2 graph, 3 phase, 4 job, with the TAILs of its context's queues when it
performed (R328); while the scheduler's search for the level's marker stalls, nothing ends yet (R497). -/
def endLevel (s : State) (n lvl : Nat) (can : Bool) (tails : AMap Nat) : State :=
  match AMap.find? s.launches n with
  | none => s
  | some l =>
    let q := l.queue
    let k := s.queue q
    let hd := k.head.toNat
    match lvl with
    | 1 => finishLaunch s n can
    | 2 => endReach s q (hd + recLen (k.recs.getD 0 [])) can
    | 3 =>
      let e := k.presentTo (AMap.get tails q hd)
      match markerEnd s q 1 e (k.used + 1) hd with
      | .error t => t
      | .ok m => endReach s q (m.getD e) can
    | _ => match jobMarker s l.ctx tails with
      | .error t => t
      | .ok m => (s.queues.filter fun p => p.2.ctx == l.ctx).foldl (fun s p =>
          endReach s p.1 (match m with | some m => acceptedBefore p.2 p.1 m | none => p.2.presentTo (AMap.get tails p.1 p.2.head.toNat)) can) s

/-- The placed launches that the end of a level reaches (R328). -/
def reached (s : State) (n : Nat) (l : Launch) (lvl : Nat) : List Nat :=
  match lvl with
  | 1 => [n]
  | 2 | 3 => (s.queue l.queue).launches
  | _ => (s.queues.filter fun p => p.2.ctx == l.ctx).flatMap fun p => p.2.launches

/-- Whether launches have accesses that have still to perform. -/
def owing (s : State) (ns : List Nat) : Bool :=
  s.accs.any fun p => p.2.stage != .performed && (match (s.core p.2.core).launch with | some n => ns.contains n | none => false)

/-- TAIL of each queue of a context. -/
def tailsOf (s : State) (ctx : Nat) : AMap Nat := (s.queues.filter fun p => p.2.ctx == ctx).map fun p => (p.1, p.2.tail.toNat)

/-- CANCEL and DONE stop the issuing core at once, and the launches they reach at the end of the cycle, after its completions (R315). -/
def beginEnd (s : State) (c lvl : Nat) (can : Bool) : State :=
  match s.launchOf c with
  | none => s
  | some (n, l) =>
    (s.modCore c fun k => { k with stopped := true }).modLaunch n fun x => { x with ending := some (lvl, can, tailsOf s l.ctx) }

/-- The cores of launches stop for good, what their matrix engines have queued or selected is discarded (R232), and their buffered stores
drain. -/
def stopReached (s : State) (ns : List Nat) : State :=
  drainOut (ns.foldl (fun s m => match AMap.find? s.launches m with
    | some x => (x.cores.filter fun k => (s.core k).launch == some m).foldl (fun s k => s.modCore k fun y =>
        { y with stopped := true, mx := { y.mx with xq0 := [], xq1 := [], fq := [], sel := none } }) s
    | none => s) s) ns

/-- The placed launches that a CANCEL or DONE has reached and that have still to end (R328). -/
def endingReach (s : State) : List Nat :=
  s.launches.flatMap fun p => match p.2.ending with | some (lvl, _, _) => reached s p.1 p.2 lvl | none => []

/-- Whether a CANCEL or DONE that has still to end its instances reaches the records of a queue (R328). -/
def queueEnds (s : State) (q : Nat) : Bool :=
  s.launches.any fun p => match p.2.ending with
    | some (lvl, _, _) => (decide (2 ≤ lvl) && p.2.queue == q) || (decide (4 ≤ lvl) && (s.queue q).ctx == p.2.ctx)
    | none => false

/-- The level of a CANCEL or DONE that core c's sequencer issues in this cycle (R328). -/
def issuesEnd (s : State) (c : Nat) : Option Nat :=
  let k := s.core c
  if !k.issues s.now then none else
  match k.prog[k.seq.pc / 4]? with
  | none => none
  | some w => match decodeSeq w (k.prog.getD (k.seq.pc / 4 + 1) 0) with
    | some (.cancel f) => some f.imm.toNat
    | some (.seqDone f) => some f.imm.toNat
    | _ => none

/-- Whether a CANCEL or DONE of this cycle, or one that has still to end its instances, reaches core c: no wait of it completes (R360). -/
def endsNow (s : State) (c : Nat) : Bool :=
  match (s.core c).launch with
  | none => false
  | some n => (endingReach s).contains n || s.cores.any fun p => match issuesEnd s p.1, s.launchOf p.1 with
    | some lvl, some (m, l) => (reached s m l lvl).contains n
    | _, _ => false

/-- The part of a cycle's end that a launch needs whose last core has halted: it completes once the accesses it issued have performed, its
buffered stores among them, since its counter is written with a release at .sys (R305, R317); one that halted while it was stopped or cut
completes when it runs again (R281). -/
def serveHalted (s : State) (n : Nat) : State :=
  match AMap.find? s.launches n with
  | some l =>
    let s := if (l.state = .running ∨ l.state = .gating) ∧ !l.cores.isEmpty ∧ l.cores.all (fun k => (s.core k).seq.halted) then
        s.modLaunch n fun l => { l with state := .complete, gstate := .quiescent }
      else s
    if ((AMap.find? s.launches n).map (·.state)) = some .complete then
      let s := drainOut s [n]
      if s.accs.any fun p => l.cores.contains p.2.core && p.2.stage != .performed then s else finishLaunch s n false
    else s
  | none => s

/-- The part of a cycle's end that a launch needs which has executed DONE or CANCEL (R317, R328): what it reaches stops, and the instances end
in the cycle in which the accesses these have issued have performed, since each counter is written with a release at .sys (DEDUCED, log 26). -/
def serveEnded (s : State) (n : Nat) : State :=
  match AMap.find? s.launches n with
  | some l => match l.ending with
    | some (lvl, can, tails) =>
      let ns := reached s n l lvl
      let s := stopReached s ns
      if (l.state = .running ∨ l.state = .gating) && !owing s ns then endLevel s n lvl can tails else s
    | none => s
  | none => s

/-- CANCEL (R107, R328). -/
def execCancel (f : CF) (s : State) : Res := withSeq s [] fun c _ => beginEnd s c f.imm.toNat true

/-- DONE of the control map (R328): the same reach, every counter with CAN clear. -/
def execSeqDone (f : CF) (s : State) : Res := withSeq s [] fun c _ => beginEnd s c f.imm.toNat false

/-! ## Gating (R285) -/

/-- An instruction that waits is abandoned with SEQPC left at it (R285, R355, R394): its waits at barriers and counters end, the wait at a
barrier also where its trip is on its way; a BARAW keeps the generation it returned, a release keeps what it waits for, an answer on its way is
still taken, and a switch already observed goes on where the core is only gated. -/
def abandonWait (s : State) (c : Nat) (stop : Bool) : State :=
  let trip := s.agenda.findSome? fun e => match e.2 with
    | (.barrierTrip, .nums (d :: l)) => if d = c then some (BitVec.ofNat 16 (l.getD 3 0)) else none
    | _ => none
  let s := match trip with
    | some g => (s.cancelEv .barrierTrip fun l => l.head? == some c).modCore c fun k => { k with seq := { k.seq with wait := .arrived (some g) } }
    | none => s
  let bars := s.bars.map fun (p : Nat × Bar) => (p.1, { p.2 with waiters := p.2.waiters.filter fun w => w.1 != c })
  let wcnts := s.wcnts.map fun (p : Nat × Wcnt) => (p.1, { p.2 with waiters := p.2.waiters.filter (· != c) })
  ({ s with bars := bars, wcnts := wcnts }).modCore c fun k =>
    match k.seq.wait with
    | .trap _ _ | .armed _ | .until _ _ | .poll _ _ => { k with seq := { k.seq with wait := .none } }
    | .switch _ _ => if stop then { k with oldUntil := s.now, seq := { k.seq with wait := .none } } else k
    | _ => k

/-- Source gating of a launch begins; one that is cutting gates when its cut has thawed it (R281, R285). -/
def gateLaunch (s : State) (n : Nat) : State :=
  match AMap.find? s.launches n with
  | none => s
  | some l =>
    if l.state = .running ∨ l.state = .cutting then
      let s := l.cores.foldl (fun s c => (abandonWait s c false).modCore c fun k => { k with gated := true }) s
      let s := s.modLaunch n fun l => { l with state := if l.state = .cutting then .cutting else .gating, gstate := .gated, kind := 0 }
      s.refreshCtx l.ctx
    else s

/-- A load is abandoned (R314): the group is released and the image entry loses the user. A launch that has never run goes, but with its
head's other launches when some of these have run: its load then begins afresh with their restores. -/
def abandonLoad (s : State) (n : Nat) (alone : Bool) : State :=
  match AMap.find? s.launches n with
  | none => s
  | some l =>
    if l.state ≠ .loading then s
    else if !l.started ∧ alone then removeLaunch s n l
    else
      let s := (s.cancelEv .coreLoadComplete fun x => x.head? == some n).cancelEv .restore fun x => x.head? == some n
      let s := dropUser (vacateGroup s n l) l.entry n
      (s.modLaunch n fun l => { l with state := .saved, gstate := .released }).refreshCtx l.ctx

/-! ## Register writes (R308, R309, R314) -/

/-- EN of a queue is cleared (R314). -/
def suspendQueue (s : State) (q : Nat) : State :=
  let k := s.queue q
  match k.state with
  | .empty | .blocked | .armed =>
    k.launches.foldl gateLaunch (s.modQueue q fun k =>
      { k with state := .suspended, deficit := 0, waits := 0, resv := [], victims := [], recs := if k.saved then k.recs else [] })
  | .active =>
    let of := fun (f : Launch → Bool) => fun (s : State) (n : Nat) => match AMap.find? s.launches n with | some l => f l | none => true
    let loading := k.launches.any fun n => !of (fun l => l.state != .loading) s n
    let fresh := k.launches.all (of (!·.started) s)
    let s := k.launches.foldl (fun s n => gateLaunch (abandonLoad s n fresh) n) s
    if loading ∧ fresh then s.modQueue q fun k => { k with state := .suspended, launches := [], saved := false, recs := [] }
    else if loading ∧ k.launches.all (of (·.state == .saved) s) then s.modQueue q fun k => { k with state := .suspended, saved := true }
    else s
  | _ => s

/-- QCFG_WRITE (R309, R314): [q] with the value written. -/
def execQcfgWrite (s : State) : Res :=
  let q := s.arg 0
  let v := s.argVal.toNat
  let k := s.queue q
  let en := bitAt v 31
  let free := !k.en && (k.state == .suspended || k.state == .error)
  let s := s.modQueue q fun k => { k with en := en, weight := fld v 23 16, ctx := if free then v % 4096 else k.ctx }
  if k.en ∧ !en then .next (suspendQueue s q)
  else if !k.en ∧ en ∧ k.state = .suspended then
    .next (if k.saved then (s.modQueue q fun k => { k with state := .armed }).watchDeps q else toHead s q)
  else .next s

/-- QBASE_WRITE (R309, R314): taken while EN = 0 and the queue is SUSPENDED or ERROR; an ERROR queue becomes SUSPENDED. -/
def execQbaseWrite (s : State) : Res :=
  let q := s.arg 0
  let k := s.queue q
  if k.en ∨ (k.state ≠ .suspended ∧ k.state ≠ .error) then .next s else
  let b := s.argVal &&& dword 0x00FFFFFFFFFFFF9F
  .next (wakeMarkers (s.modQueue q fun k =>
    if k.state = .error then
      { k with base := b, state := .suspended, head := 0, tail := 0, en := false, recs := [], launches := [], saved := false,
               resv := [], victims := [], accepted := [], skip := 0, spill := [], spilled := false, spillRec := none, round := 0,
               deadline := 0, pend := [], ending := none }
    else { k with base := b }) k.ctx)

/-- TAIL moves: the records it takes in are accepted in this cycle, and an EMPTY queue looks at its head (R312, R314). -/
def advanceTail (s : State) (q : Nat) (t : BitVec 32) : State :=
  let k := s.queue q
  let n := (t - k.head).toNat
  let kept := k.accepted.filter fun p => decide ((BitVec.ofNat 32 p.1 - k.head).toNat < n)
  let acc := ((List.range n).drop k.used).foldl (fun (m : AMap Nat) i => AMap.put m ((k.head.toNat + i) % 2 ^ 32) s.now) kept
  let s := s.modQueue q fun k => { k with tail := t, accepted := acc }
  if k.state = .empty then toHead s q
  else if k.state = .blocked ∧ k.recs.isEmpty then s.after 0 .headCheck [q]
  else s

/-- Whether an ENQ of core c has still to copy a part of its record (R325). -/
def enqCopying (s : State) (c : Nat) : Bool :=
  s.accs.any fun p => p.2.core == c && (p.2.src == .seq 65 || p.2.src == .seq 66) && p.2.stage != .performed

/-- QTAIL_WRITE (R309, R325): a host's write of TAIL [q] with the value, or the end of an ENQ [q, core, record address, register]: the advance
of TAIL, once the record has been copied. -/
def execQtailWrite (s : State) : Res :=
  let q := s.arg 0
  let k := s.queue q
  let cap := 2 ^ fld k.base.toNat 4 0
  match s.args with
  | [_, c, p, d] =>
    let res := fun (s : State) (v : DWord) => s.modCore c fun k =>
      { k with seq := { k.seq with g := if d = 0 then k.seq.g else AMap.put k.seq.g d v, wait := .none, next := s.now + 1, pc := k.seq.pc + 4 } }
    if (s.core c).seq.wait ≠ .answer then .next s
    else if (s.core c).stopped then .next (s.modSeq c fun w => { w with wait := .none, next := s.now })
    else if enqCopying s c then .next (s.after 1 .qtailWrite [q, c, p, d])
    else if k.state = .error ∨ k.used = cap then .next (res s (BitVec.allOnes 64))
    else .next (advanceTail (res s (dword k.tail.toNat)) q (k.tail + 1))
  | _ =>
    let t := s.argVal.extractLsb' 0 32
    if cap < (t - k.head).toNat then
      .next (if k.state = .error then s else queueError s q 1 (0x4000001100010 + 32 * q) s.argVal.toNat)
    else .next (advanceTail s q t)

/-! ## ENQ (R325, R329) -/

/-- Whether another ENQ's record is being copied into a queue: one follows the other (DESIGN CHOICE, log 30). -/
def enqUnder (s : State) (q : Nat) : Bool := s.agenda.any fun e => e.2.1 == .qtailWrite && (match e.2.2 with | .nums [p, _, _, _] => p == q | _ => false)

/-- ENQ (R325): waits for every earlier access, then reads the record, whose parts are written to the ring as they come; TAIL advances in the
last cycle of its latency, or when the copy is done where a translation stalls. -/
def execEnq (f : CF) (s : State) : Res :=
  withSeq s [f.a.toNat, f.b.toNat, f.d.toNat] fun c k =>
    let q := (greg k f.a.toNat).toNat
    let p := (greg k f.b.toNat).toNat
    let ctx := s.ctxOf c
    if 16384 ≤ q ∨ (s.queue q).ctx ≠ ctx then seqFault s c 1
    else if p % 64 ≠ 0 then seqFault s c 16
    else
    match seqRelease s c (pathsOf 127) 5 with
    | some t => t
    | none =>
    let x := s.queue q
    let full := !x.en || x.state == .error || x.used == 2 ^ fld x.base.toNat 4 0
    let ring := x.ringAddr x.tail.toNat
    let lat := ringLevel s c ctx ring + ringLevel s c ctx p + 4
    if enqUnder s q then s
    else if full then seqResult s c f.d.toNat (BitVec.allOnes 64) lat 4 lat
    else
      let n := min 128 (65536 - p % 65536)
      enqRead ((s.modSeq c fun w => { w with wait := .answer, next := far }).after (lat - 1) .qtailWrite [q, c, p, f.d.toNat]) c p n ring (128 - n)

end Sys2Proof.Machine
end

