-- ==== Sys2Proof/Machine/Place.lean ====
section
/-! DEFINITION. The scheduler: head checks, dependences, selection, placement, pre-emption, YIELD and the spill pass
(R305, R309, R312-R321, R330, R331, R342, R361, R369). -/

namespace Sys2Proof.Machine

/-! ## Gang descriptors (R369) -/

/-- Where descriptor g of the gang table lies. -/
def gangAddr (s : State) (g : Nat) : Nat := fld s.gangbase.toNat 51 22 * 2 ^ 22 + 64 * g

/-- Descriptor g as the gang table holds it. -/
def gangTable (s : State) (g : Nat) : List DWord := (List.range 8).map fun i => dword (s.phys64 (gangAddr s g + 8 * i))

/-- Descriptor g as it was read when a record that names it was checked (R369); the table's where no queue's head names it. -/
def gangDesc (s : State) (g : Nat) : List DWord :=
  match List.find? (fun (p : Nat × Queue) =>
      recGang (p.2.recs.getD 0 []) && recFld (p.2.recs.getD 0 []) 3 15 0 == g && !p.2.gdesc.isEmpty) s.queues with
  | some p => p.2.gdesc
  | none => gangTable s g

/-- The member packages of a descriptor, ascending. -/
def members (d : List DWord) : List Nat :=
  (List.range 256).filter fun i => bitAt (d.getD (i / 64) 0).toNat (i % 64)

/-- SLICE, GRACE, LB and PRE of a descriptor, with the values of 0 (R369). -/
def gangSlice (d : List DWord) : Nat := recFld d 4 47 0
def gangGrace (d : List DWord) : Nat := if recFld d 5 63 32 = 0 then 30000 else recFld d 5 63 32
def gangLb (d : List DWord) : Nat := if recFld d 5 31 16 = 0 then 2048 else recFld d 5 31 16
def gangPre (d : List DWord) : Nat := recFld d 6 63 32

/-- The coordinator: the member of lowest package ID. -/
def coordinator (d : List DWord) : Nat := (members d).headD 0

/-- The filler queue, when the descriptor names one. -/
def gangFiller (d : List DWord) : Option Nat := if recFld d 6 31 31 = 1 then some (recFld d 6 13 0) else none

/-- The record at the head of a queue: as it was read, or as it stands in the ring; none in a queue that holds none. -/
def headOf (s : State) (q : Nat) : Option (List DWord) :=
  let k := s.queue q
  if !k.recs.isEmpty then k.recs.head?
  else if k.tail = k.head then none
  else match schedAt s k.ctx (k.ringAddr k.head.toNat) .read with
    | .ok pa => some ((List.range 16).map fun i => dword (s.phys64 (pa + 8 * i)))
    | .error _ => none

/-- The checks of a gang record's descriptor (R369): the filler's head may not have a priority above the gang's less 2. -/
def gangOk (s : State) (ctx : Nat) (r d : List DWord) : Bool :=
  let lb := recFld d 5 31 16
  s.gangbase.msb && (members d).contains s.topo.pkg.toNat && decide (2 ≤ (members d).length)
    && recFld d 4 63 48 == 0 && decide (2 ^ 16 ≤ gangSlice d) && (lb == 0 || decide (512 ≤ lb)) && recFld d 5 15 0 == 0
    && recFld d 6 30 14 == 0 && recFld d 7 63 0 == 0
    && (match gangFiller d with
      | none => true
      | some q =>
        (s.queue q).ctx == ctx && (match headOf s q with | none => true | some x => decide (recPrio x + 2 ≤ recPrio r)))

/-! ## Head check and dependences (R309, R313, R316) -/

/-- HEAD_CHECK (R309, R313, R314, R497): the head of queue [q] is read and checked, with a gang record's descriptor; [q, 1] makes requests
again for which the stall table had no room (R401). A graph whose launches have not all been
accepted is looked at again when TAIL moves (DEDUCED, log 19). -/
def execHeadCheck (s : State) : Res :=
  let q := s.arg 0
  let k := s.queue q
  if s.arg 1 = 1 then .next (retryQueue s q) else
  if k.state ≠ .blocked ∨ !k.recs.isEmpty ∨ k.tail = k.head then .next s else
  match ringRecs s q k.head.toNat 1 with
  | .error t => .next t
  | .ok l =>
    let r := l.getD 0 []
    let bad := fun (s : State) => queueError s q 1 (k.ringAddr k.head.toNat) 0
    let gd := gangAddr s (recFld r 3 15 0)
    let desc := if recGang r then gangTable s (recFld r 3 15 0) else []
    if !recOk r then .next (bad s)
    else if recGang r ∧ s.gangbase.msb ∧ (memRegion s gd).isNone then .next (queueError s q 7 gd 0)
    else if recGang r ∧ !gangOk s k.ctx r desc then .next (bad s)
    else if k.used < recLen r then .next s
    else match ringRecs s q k.head.toNat (recLen r) with
    | .error t => .next t
    | .ok rs =>
      if !((rs.drop 1).all memberOk) then .next (bad s)
      else .next ((s.modQueue q fun k => { k with recs := rs, gdesc := desc }).after 0 .dependenceEvaluation [q, 1, k.head.toNat])

/-- The dependences of a record from number i on (R316): whether all are met, and whether a met one cancels. -/
def evalDeps (s : State) (q : Nat) (r : List DWord) : Nat → Except State (Bool × Bool)
  | 0 => .ok (true, false)
  | n + 1 =>
    let i := 3 - n
    if recFld r 0 (40 + i) (40 + i) = 0 then evalDeps s q r n else
    match schedRead s q (r.getD (4 + 2 * i) 0).toNat 1 with
    | .error t => .error t
    | .ok l =>
      let v := (l.getD 0 0).toNat
      let met := decide (recFld r (5 + 2 * i) 62 0 ≤ v % 2 ^ 63)
      match evalDeps s q r n with
      | .error t => .error t
      | .ok (m, c) => .ok (met && m, (met && decide (2 ^ 63 ≤ v) && recFld r 0 (44 + i) (44 + i) == 1) || c)

/-- Whether every record of the context accepted before queue q's head has completed (R312). -/
def jobReady (s : State) (q : Nat) : Bool :=
  let k := s.queue q
  let m := (AMap.get k.accepted k.head.toNat 0, q, k.head.toNat)
  !(s.queues.any fun p => p.2.ctx == k.ctx && p.1 != q && acceptedBefore p.2 p.1 m != p.2.head.toNat)

/-- A barrier record's arrival leaves for its entry (R312, R383, R384): HD0 to CD0 or CD1, then the ring. -/
def schedArrive (s : State) (q : Nat) (r : List DWord) : State :=
  let w := recFld r 3 13 0
  let (id, s) := s.fresh
  let o : UnitOp :=
    { core := 1024, launch := 0, op := 1, target := w, val := 1, reg := 0, half := s.now + 2 + 12 * crossings 4 (w / 4096),
      tok := none, node := none, outs := [], queue := some q, victims := [(s.queue q).head.toNat] }
  ({ s with ops := AMap.put s.ops id o }.modQueue q fun k => { k with state := .armed, saved := true }).at o.half .barrierArrival [id]

/-- DEPENDENCE_EVALUATION (R312, R314, R316): the dependences of queue [q]'s head; [q, 1, head] looks again every 4,096
cycles. A met one that cancels skips an ARMED head too, a saved one with what is saved of it. -/
def execDependenceEvaluation (s : State) : Res :=
  let q := s.arg 0
  let k := s.queue q
  let open_ := !k.recs.isEmpty && (k.state == .blocked || k.state == .armed) && !(k.saved && recKind (k.recs.getD 0 []) == 3) && k.ending.isNone
  if !open_ then .next s else
  let s := if s.arg 1 = 1 ∧ k.head.toNat = s.arg 2 then s.after 4096 .dependenceEvaluation [q, 1, s.arg 2] else s
  let r := k.recs.getD 0 []
  match evalDeps s q r 4 with
  | .error t => .next t
  | .ok (met, can) =>
    if can then .next (endTo (closeHead s q true) q (k.head.toNat + recLen r) true false)
    else if !met ∨ k.state = .armed then .next s
    else match recKind r with
    | 2 => .next (if recLevel r = 2 ∧ !jobReady s q then s else endTo s q (k.head.toNat + 1) false false)
    | 3 =>
      let b := AMap.find? s.bars (recFld r 3 13 0)
      match b with
      | some b => .next (if b.state = .idle ∨ b.owner ≠ k.ctx ∨ b.scope = 0 then queueError s q 1 (k.ringAddr k.head.toNat) 0 else schedArrive s q r)
      | none => .next (queueError s q 1 (k.ringAddr k.head.toNat) 0)
    | _ => .next (s.modQueue q fun k => { k with state := .armed })

/-! ## Free cores and image entries (R319, R330, R331) -/

/-- The cores of a rectangle. -/
def rectCores (origin rows cols : Nat) : List Nat :=
  (List.range (rows * cols)).map fun n => origin + 16 * (n / cols) + n % cols

/-- Cores that no launch may be placed on (R319): retired ones, those of placed launches but the named, and reserved ones. -/
def busyCores (s : State) (but : List Nat) (q : Nat) : List Nat :=
  s.topo.retired
    ++ (s.launches.filter fun p => p.2.gstate != .released && !but.contains p.1).flatMap (·.2.cores)
    ++ (s.queues.filter (·.1 != q)).flatMap fun p => p.2.resv.flatMap fun r => rectCores r.2.1 r.2.2.1 r.2.2.2.1

/-- The first origin on a die whose rectangle is free, in raster order (R319). -/
def freeOrigin (occ : List Nat) (die rows cols : Nat) : Option Nat :=
  (List.range 256).findSome? fun i =>
    if i / 16 + rows ≤ 16 ∧ i % 16 + cols ≤ 16 ∧ (rectCores (die * 256 + i) rows cols).all (fun c => !occ.contains c)
    then some (die * 256 + i) else none

/-- GEN of the image at an address, 0 where it cannot be read (R330, R332). -/
def imageGen (s : State) (ctx image : Nat) : Nat := match s.ctxRead64 ctx image with | .ok v => fld v 63 48 | .error _ => 0

/-- The entry of a die's image cache that can serve a key (R330, R331): its own, a free one, or the RESIDENT one placed
least recently. -/
def entryFor (s : State) (die ctx image gen : Nat) : Option Nat :=
  let at_ := fun i => AMap.find? s.entries (64 * die + i)
  let ix := List.range 64
  match ix.find? fun i => match at_ i with | some e => e.state != .absent && e.ctx == ctx && e.image == image && e.gen == gen | none => false with
  | some i => some (64 * die + i)
  | none =>
    match ix.find? fun i => match at_ i with | some e => e.state == .absent | none => true with
    | some i => some (64 * die + i)
    | none =>
      (leastBy (fun (a b : Nat × Nat) => decide (a.1 < b.1) || (a.1 == b.1 && decide (a.2 < b.2)))
        (ix.filterMap fun i => match at_ i with | some e => if e.state = .resident then some (e.placed, 64 * die + i) else none | none => none)).map (·.2)

/-- Cycles that a die takes to decode an image (R342), by the extent of its sections. -/
def decodeTime (s : State) (ctx image : Nat) : Nat :=
  match s.ctxReadDws ctx image 12 with
  | .error _ => 2001
  | .ok h =>
    let b := (List.range 10).foldl (fun m i => let d := (h.getD (2 + i) 0).toNat; max m (d % 2 ^ 32 + d / 2 ^ 32)) 128
    2000 + ceilDiv b 128

/-- RESIDENT entries of an image whose GEN is another than the one now placed become ABSENT (R331). -/
def retireStale (s : State) (ctx image gen : Nat) : State :=
  { s with entries := s.entries.map fun (p : Nat × Entry) =>
      if p.2.state = EState.resident ∧ p.2.ctx = ctx ∧ p.2.image = image ∧ p.2.gen ≠ gen then (p.1, { p.2 with state := .absent, img := none }) else p }

/-- A launch takes an entry (R331): a key the die does not hold is decoded, one image at a time. -/
def joinEntry (s : State) (key ctx image gen n : Nat) : State :=
  let s := retireStale s ctx image gen
  let d := key / 64
  let has : Option Entry := match AMap.find? s.entries key with
    | some e => if e.state != EState.absent && e.ctx == ctx && e.image == image && e.gen == gen then some e else none
    | none => none
  match has with
  | some e =>
    let x : Entry := { e with users := e.users ++ [n], placed := s.now, state := if e.state = EState.resident then .inUse else e.state }
    { s with entries := AMap.put s.entries key x }
  | none =>
    let s := { s with entries := AMap.put s.entries key ⟨.decoding, ctx, image, gen, [n], s.now, none⟩ }
    let busy := !(s.die d).decoding.isEmpty
    let s := s.modDie d fun x => { x with decoding := x.decoding ++ [key] }
    if busy then s else s.after (decodeTime s ctx image) .imageDecode [key]

/-! ## Loading (R283, R342) -/

/-- Contexts set in a mask. -/
def ctxCount (m : Nat) : Nat := ((List.range 4).filter fun i => bitAt m i).length

/-- Cycles of step 2 of R342: every core loads its contexts one after another, and its programs with the first. -/
def loadTime (im : Image) : Nat :=
  let prog := 60 + ceilDiv (4 * (im.seqProg.length + im.strmProg.length)) 128
  if ctxCount im.ctxm = 0 then prog else 4096 * ctxCount im.ctxm + (prog - 4096)

/-- Cycles of a save or restore (R283): the cores in parallel, and the group window by its slices. -/
def saveTime (kind ways : Nat) : Nat := max (60 + (if kind = 0 then 49152 else 98304)) (256 * ways)

/-- Whether a launch record agrees with an image's shape and flags (R313, R341). -/
def fitsRec (r : List DWord) (rows cols : Nat) (det snap : Bool) : Bool :=
  recRows r == rows && recCols r == cols && (recFld r 0 4 4 == 1) == det && (recFld r 0 5 5 == 1) == snap

/-- Whether a launch agrees with its decoded image (R313). -/
def Launch.fits (l : Launch) (im : Image) : Bool := fitsRec l.recd im.rows im.cols im.det im.snap

/-- A placed launch begins to load in the next cycle, once its image is decoded (R329, R342); a record that does not agree
with the image ends it. -/
def beginLoad (s : State) (n : Nat) : State :=
  match AMap.find? s.launches n with
  | none => s
  | some l =>
    match s.imageOf l with
    | none => s
    | some im =>
      let t := loadTime im
      if !l.fits im then s.after 1 .imageDecode [l.entry, n]
      else if l.started then s.after (t + saveTime l.kind l.ways + 1) .restore [n] else s.after (t + 1) .coreLoadComplete [n]

/-- The lowest number of a range that a list does not hold. -/
def lowestFree (n : Nat) (used : List Nat) : Option Nat := (List.range n).find? fun i => !used.contains i

/-- The group numbers held (R361). -/
def groupNums (s : State) : List Nat :=
  (s.launches.filter fun p => p.2.gstate != .released).map (·.2.gnum) ++ s.queues.flatMap fun p => p.2.resv.map (·.2.2.2.2)

/-- A launch placed on a rectangle (R282, R319, R361): a new one, or a saved one with its launch slot; none when no launch slot,
group number or entry is left. -/
def placeAt (s : State) (q : Nat) (r : List DWord) (old : Option Nat) (die origin : Nat) (gnum : Option Nat) : Option (Nat × State) :=
  let ctx := (s.queue q).ctx
  let gen := imageGen s ctx (recImage r)
  let gnum := match gnum with | some g => some g | none => lowestFree 1024 (groupNums s)
  match old.bind fun n => (AMap.find? s.launches n).map fun l => (n, l) with
  | some (n, l) =>
    let x : Launch :=
      { l with die := die, origin := origin, gnum := gnum.getD 0, state := .loading, gstate := .reserved, placedAt := s.now, ways := 0
               gang := l.gang.map fun g => ⟨g.gang, (s.queue q).round, (s.queue q).deadline, 0, 0⟩ }
    if gnum.isNone then none
    else if l.entry / 64 = die ∧ ((AMap.find? s.entries l.entry).map fun e => e.users.contains n).getD false then
      some (n, (beginLoad { s with launches := AMap.put s.launches n { x with ways := l.ways } } n).refreshCtx ctx)
    else
      let gen := ((AMap.find? s.entries l.entry).map (·.gen)).getD gen
      (entryFor s die ctx (recImage r) gen).map fun e =>
      let s := joinEntry (dropUser s l.entry n) e ctx (recImage r) gen n
      (n, (beginLoad { s with launches := AMap.put s.launches n { x with entry := e, ways := l.ways } } n).refreshCtx ctx)
  | none =>
    let ls := lowestFree 64 ((s.launches.filter fun p => p.2.ctx == ctx).map (·.2.ls))
    match ls, gnum, entryFor s die ctx (recImage r) gen with
    | some ls, some g, some e =>
      let (n, s) := s.fresh
      let c := s.ctx ctx
      let snap := (c.snapcfg &&& dword (2 ^ 64 - 2)) ||| (if bitAt (r.getD 0 0).toNat 5 then 1 else 0)
      let gang : Option Gang := if recGang r then some ⟨recFld r 3 15 0, (s.queue q).round, (s.queue q).deadline, 0, 0⟩ else none
      let l : Launch :=
        { ctx := ctx, queue := q, recd := r, die := die, origin := origin, rows := recRows r, cols := recCols r, gnum := g, ls := ls,
          entry := e, state := .loading, gstate := .reserved, after := .running, kind := 0, placedAt := s.now, started := false,
          resume := false, toStop := [], gdrop := 0, gmode := [], guardQ := [], wdog := [(0, c.wdog)], snapcfg := [(0, snap)],
          stalled := 0, cuta := 0, cutb := 0, live := 0, interval := 0, rollbacks := 0, lastCut := 0, cutWait := [], ways := 0,
          window := none, sweeps := 0, lastQuiet := false, endSent := false, priv := Kept.none,
          gang := gang, cut := Kept.none, doms := [], frozeAt := 0, ending := none }
      let s := joinEntry s e ctx (recImage r) gen n
      some (n, (beginLoad { s with launches := AMap.put s.launches n l } n).refreshCtx ctx)
    | _, _, _ => none

/-- A launch placed on the first rectangle and die that take it (R319). -/
def placeRec (s : State) (q : Nat) (occ : List Nat) (r : List DWord) (old : Option Nat) : Option (Nat × State) :=
  (List.range 4).findSome? fun d =>
    match freeOrigin occ d (recRows r) (recCols r) with
    | none => none
    | some o => placeAt s q r old d o none

/-- The launches a head needs: its own or its members' records, or those of its instance that are saved or to be rolled back (R314, R496). -/
def headLaunches (s : State) (q : Nat) : List (List DWord × Option Nat) :=
  let k := s.queue q
  if k.saved then k.launches.filterMap fun n => ((AMap.find? s.launches n).filter fun l =>
    l.gstate == .released && (l.state == .saved || l.state == .rollingBack)).map fun l => (l.recd, some n)
  else if recKind (k.recs.getD 0 []) = 1 then (k.recs.drop 1).map fun r => (r, none)
  else (k.recs.take 1).map fun r => (r, none)

/-- Places a list of launches, all or none (R319). -/
def placeList (q : Nat) : List (List DWord × Option Nat) → List Nat → State → Option (List Nat × State)
  | [], _, s => some ([], s)
  | (r, old) :: t, occ, s =>
    match placeRec s q occ r old with
    | none => none
    | some (n, s) =>
      let own := match AMap.find? s.launches n with | some l => l.cores | none => []
      (placeList q t (own ++ occ) s).map fun p => (n :: p.1, p.2)

/-- A head is ACTIVE with its launches, those placed and those it still has (R314). -/
def activate (s : State) (q : Nat) (ids : List Nat) : State :=
  s.modQueue q fun k => { k with state := .active, launches := ids ++ k.launches.filter (!ids.contains ·), saved := false, resv := [], victims := [] }

/-- A head placed beside busy cores, when it fits. -/
def placeHead (s : State) (q : Nat) (occ : List Nat) : Option State :=
  (placeList q (headLaunches s q) occ s).map fun p => activate p.2 q p.1

/-! ## Pre-emption (R320) -/

/-- Running instances of priority at most p - 2, by queue: lowest priority first, then latest placement, then highest queue
number. -/
def preemptable (s : State) (p : Nat) : List Nat :=
  let cand := s.queues.filterMap fun k =>
    let ls := k.2.launches.filterMap fun n => AMap.find? s.launches n
    let pr := recPrio (k.2.recs.getD 0 [])
    if k.2.state = .active ∧ !ls.isEmpty ∧ ls.all (·.state == .running) ∧ pr + 2 ≤ p then
      some (pr, (ls.map (·.placedAt)).foldl max 0, k.1)
    else none
  let before := fun (a b : Nat × Nat × Nat) =>
    decide (a.1 < b.1) || (a.1 == b.1 && (decide (b.2.1 < a.2.1) || (a.2.1 == b.2.1 && decide (b.2.2 < a.2.2))))
  (cand.foldl (fun l x => (l.filter fun y => before y x) ++ [x] ++ l.filter fun y => !before y x) []).map (·.2.2)

/-- The victims on a die and the rectangles they make room for: (queues, rectangles). -/
def preemptOn (s : State) (q p die : Nat) : Option (List Nat × List (Nat × Nat × Nat × Nat × Nat)) :=
  let onDie := fun (v : Nat) => (s.queue v).launches.any fun n => match AMap.find? s.launches n with | some l => l.die == die | none => false
  let cand := (preemptable s p).filter onDie
  (List.range cand.length).findSome? fun i =>
    let take := cand.take (i + 1)
    match placeHead s q (busyCores s (take.flatMap fun v => (s.queue v).launches) q) with
    | none => none
    | some t =>
      let rects := (t.queue q).launches.filterMap fun n =>
        (AMap.find? t.launches n).map fun l => (l.die, l.origin, l.rows, l.cols, l.gnum)
      let cores := rects.flatMap fun r => rectCores r.2.1 r.2.2.1 r.2.2.2.1
      let hit := take.filter fun v => (s.queue v).launches.any fun n =>
        match AMap.find? s.launches n with | some l => l.cores.any cores.contains | none => false
      some (hit, rects)

/-- Whether the package's count has been set from the time master's, or is the master's (R456). -/
def timeKept (s : State) : Bool := s.timeSet || s.topo.master == s.topo.pkg.toNat

/-- Whether a head can be placed now, or after pre-emption (R318); a gang's only once the count has been set (R456). -/
def placeable (s : State) (q p : Nat) : Bool :=
  if recGang ((s.queue q).recs.getD 0 []) && !timeKept s then false else
  (placeHead s q (busyCores s [] q)).isSome || (List.range 4).any fun d => (preemptOn s q p d).isSome

/-- Places a chosen head, or begins its pre-emption: the victims are gated and the rectangles reserved (R320). -/
def placeOrPreempt (s : State) (q p : Nat) : State :=
  match placeHead s q (busyCores s [] q) with
  | some t => t
  | none =>
    match (List.range 4).findSome? fun d => preemptOn s q p d with
    | none => s
    | some (hit, rects) =>
      let ids := hit.flatMap fun v => (s.queue v).launches
      ids.foldl gateLaunch (s.modQueue q fun k => { k with resv := rects, victims := ids })

/-- Places a head on the rectangles reserved for it, once its victims have left them (R320). -/
def placeReserved (s : State) (q : Nat) : Option State :=
  let k := s.queue q
  let go := fun (acc : Option (List Nat × State)) (p : (List DWord × Option Nat) × (Nat × Nat × Nat × Nat × Nat)) =>
    match acc with
    | none => none
    | some (ids, s) => (placeAt s q p.1.1 p.1.2 p.2.1 p.2.2.1 (some p.2.2.2.2.2)).map fun r => (ids ++ [r.1], r.2)
  (((headLaunches s q).zip k.resv).foldl go (some ([], s))).map fun p => activate p.2 q p.1

/-- Whether a launch holds cores. -/
def holdsCores (s : State) (n : Nat) : Bool := match AMap.find? s.launches n with | some l => l.gstate != .released | none => false

/-! ## The decision (R318) -/

/-- Whether a context may run launches (R280). -/
def ctxPlaces (s : State) (x : Nat) : Bool :=
  [CtxState.loading, .ready, .running, .gating, .saved].contains (s.ctx x).state

/-- Whether a queue is ARMED with EN = 1 and a launch or graph at its head, in a context that runs launches, or with a region to be restored after an
error (R280, R291, R318). -/
def armedHead (s : State) (p : Nat × Queue) : Bool :=
  let rolls := p.2.saved && p.2.launches.any fun n => match AMap.find? s.launches n with | some l => l.state == .rollingBack | none => false
  p.2.state == .armed && p.2.en && (ctxPlaces s p.2.ctx || ((s.ctx p.2.ctx).state == .rollingBack && rolls)) && decide (recKind (p.2.recs.getD 0 []) ≤ 1)

/-- The queues a decision chooses among: those of an armed head, not waiting, and that no CANCEL or DONE is about to end (R318, R328, R372). -/
def armedQueues (s : State) : List (Nat × Queue) :=
  s.queues.filter fun p => armedHead s p && p.2.resv.isEmpty && decide (p.2.skip ≤ s.now) && !queueEnds s p.1

/-- Priority and cost of a queue's head (R318). -/
def headPrio (k : Queue) : Nat := recPrio (k.recs.getD 0 [])
def headCost (s : State) (q : Nat) : Nat := ((headLaunches s q).map fun p => recRows p.1 * recCols p.1).foldl (· + ·) 0

/-- WEIGHT, 0 acting as 1 (R308). -/
def Queue.quantum (k : Queue) : Nat := max 1 k.weight

/-- The least number of quanta that lets some queue of a set pay its cost (R318). -/
def quanta (s : State) (e : List (Nat × Queue)) : Nat :=
  let need := e.map fun p => ceilDiv (headCost s p.1 - p.2.deficit) p.2.quantum
  need.foldl min (need.headD 0)

/-- The decision at priority p among the armed queues w: the state after a choice, none to go on with the next priority. -/
def decideAt (s : State) (w : List (Nat × Queue)) (p : Nat) : Option State :=
  let e := w.filter fun x => headPrio x.2 == p && placeable s x.1 p
  let others := w.filter fun x => decide (p ≤ headPrio x.2) && !(e.any (·.1 == x.1))
  if others.any (·.2.waits == 64) then some s
  else if e.isEmpty then none
  else
    let n := quanta s e
    let s := e.foldl (fun s x => s.modQueue x.1 fun k => { k with deficit := min (k.deficit + n * k.quantum) 65535 }) s
    let pays := e.filterMap fun x =>
      let d := (s.queue x.1).deficit
      if headCost s x.1 ≤ d then some (d - headCost s x.1, x.1) else none
    match leastBy (fun (a b : Nat × Nat) => decide (b.1 < a.1) || (a.1 == b.1 && decide (a.2 < b.2))) pays with
    | none => some s
    | some (left, q) =>
      let s := s.modQueue q fun k => { k with deficit := left, waits := 0 }
      let s := others.foldl (fun s x => s.modQueue x.1 fun k => { k with waits := min (k.waits + 1) 64 }) s
      some (placeOrPreempt s q p)

/-- A spill pass of priority p that can be placed now, ahead of every other record of its priority (R321). -/
def placeSpill (s : State) (p : Nat) : Option State :=
  s.queues.findSome? fun x =>
    match x.2.spillRec with
    | none => none
    | some r =>
      if headPrio x.2 ≠ p ∨ !x.2.en ∨ x.2.state ≠ .active ∨ !ctxPlaces s x.2.ctx ∨ queueEnds s x.1 then none
      else (placeRec s x.1 (busyCores s [] x.1) r none).map fun t =>
        t.2.modQueue x.1 fun k => { k with spillRec := none, launches := k.launches ++ [t.1] }

/-- PLACEMENT_DECISION (R318-R320): a head whose victims have all been saved is placed; otherwise the priorities are tried from
7 down. -/
def execPlacementDecision (s : State) : Res :=
  let waiting := List.find? (fun p => !p.2.resv.isEmpty && !(p.2.victims.any (holdsCores s))) s.queues
  match waiting with
  | some p =>
    .next (match placeReserved s p.1 with
      | some t => t
      | none => s.modQueue p.1 fun k => { k with resv := [], victims := [] })
  | none =>
    let w := armedQueues s
    let try_ := fun (r : Option State) (i : Nat) => match r with
      | some t => some t
      | none => match placeSpill s (7 - i) with
        | some t => some t
        | none => decideAt s w (7 - i)
    .next (((List.range 8).foldl try_ none).getD s)

/-! ## YIELD (R305) -/

/-- Whether another queue's armed head of at least this priority could be placed were a launch's cores free. -/
def yieldsTo (s : State) (n : Nat) (l : Launch) : Bool :=
  let pr := headPrio (s.queue l.queue)
  s.queues.any fun p => armedHead s p && p.1 != l.queue && decide (pr ≤ headPrio p.2) && (placeHead s p.1 (busyCores s [n] p.1)).isSome

/-- YIELD (R305, R307): gates its instance, at the end of the cycle, with g_d = 1 and SEQPC past it, or answers 0. -/
def execYield (f : CF) (s : State) : Res :=
  withSeq s [f.d.toNat] fun c _ =>
    match s.launchOf c with
    | none => s
    | some (n, l) =>
      if yieldsTo s n l then
        (s.queue l.queue).launches.foldl (fun s m => s.modLaunch m fun x => { x with yields := true }) (seqResult s c f.d.toNat 1 1 4 1)
      else seqResult s c f.d.toNat 0 4 4 4

/-- The gating that a YIELD of this cycle asks for, after the cycle's faults, stops and cuts (R281). -/
def serveYield (s : State) (n : Nat) : State :=
  match AMap.find? s.launches n with
  | some l => if l.yields then gateLaunch (s.modLaunch n fun x => { x with yields := false }) n else s
  | none => s

/-! ## The spill pass (R321) -/

/-- Whether the PRODUCT stage has ended on every core of an instance: each has left context 2, has halted, or has none. -/
def productOver (s : State) (k : Queue) : Bool :=
  k.launches.all fun n => match AMap.find? s.launches n with
    | none => true
    | some l => l.cores.all fun c =>
        let x := s.core c
        x.pastProduct || x.seq.halted || !bitAt x.ctxm 2

/-- Whether a spill ring of a descriptor holds rows (R440), from expert e on; a read that fails stalls or errs (R497). -/
def ringsHold (s : State) (q : Nat) (d : List DWord) (e : Nat) : Nat → Except State Bool
  | 0 => .ok false
  | n + 1 =>
    match schedRead s q ((d.getD 1 0).toNat + e * (64 + recFld d 2 63 32 * recFld d 2 31 0)) 1 with
    | .error t => .error t
    | .ok r => if (r.getD 0 0) ≠ 0 then .ok true else ringsHold s q d (e + 1) n

/-- Whether a ring of any of some descriptors holds rows. -/
def anyHold (s : State) (q : Nat) : List (List DWord) → Except State Bool
  | [] => .ok false
  | d :: r =>
    match ringsHold s q d 0 (d.getD 8 0).toNat with
    | .ok false => anyHold s q r
    | x => x

/-- SPILL_PASS_PLACE (R321): when the PRODUCT stage of queue [q]'s instance has ended everywhere, its spill rings are looked at
once; if any holds rows, the spill-pass record is read, checked and placed as one more launch. -/
def execSpillPassPlace (s : State) : Res :=
  let q := s.arg 0
  let k := s.queue q
  if k.state ≠ .active ∨ k.spilled ∨ !productOver s k then .next s else
  let live := k.launches.flatMap fun n => match AMap.find? s.launches n with | some l => launchSpills s n l | none => []
  let all := k.spill ++ live
  let go := s.modQueue q fun k => { k with spilled := true }
  let done := if k.launches.isEmpty then endTo go q (k.head.toNat + recLen (k.recs.getD 0 [])) false false else go
  match all.head? with
  | none => .next (if k.launches.isEmpty then done else s)
  | some d =>
    let rec_ := (d.getD 3 0).toNat
    match anyHold s q (all.filter fun x => (x.getD 3 0).toNat == rec_) with
    | .error t => .next t
    | .ok false => .next (if k.launches.isEmpty then done else s)
    | .ok true =>
    match schedRead s q rec_ 16 with
    | .error t => .next t
    | .ok r =>
      if !memberOk r then .next (queueError s q 1 rec_ 0)
      else .next (go.modQueue q fun k => { k with spillRec := some r })

end Sys2Proof.Machine
end

