-- ==== Sys2Proof/Machine/Save.lean ====
section
/-! DEFINITION. Launch state: start, save and restore, stop waves and freezes, cuts and rollbacks, the quiescence tree and the
watchdog (R274, R275, R282-R297, R342, R343, R362, R388, R496). -/

namespace Sys2Proof.Machine

/-! ## The launch area (R282) -/

/-- Bytes laid out at rising offsets, zero between and up to n. -/
def layOut (n : Nat) (l : List (Nat × List Byte)) : List Byte :=
  ((layFrom 0 l) ++ List.replicate n 0).take n
where
  /-- The bytes from offset o on. -/
  layFrom (o : Nat) : List (Nat × List Byte) → List Byte
    | [] => []
    | p :: r => List.replicate (p.1 - o) 0 ++ p.2 ++ layFrom (max o p.1 + p.2.length) r

/-- The core area of group-relative core n in a half of a launch's area. -/
def areaBase (s : State) (l : Launch) (half n : Nat) : Nat :=
  fld (s.ctx l.ctx).statebase.toNat 55 16 * 65536 + l.ls * 2 ^ 34 + half * 2 ^ 33 + n * 2 ^ 24

/-- Bytes written into the launch area, page by page. -/
def putArea (s : State) (ctx va : Nat) (bs : List Byte) : State :=
  ((cutAt 65536 (bs.length / 65536 + 2) va bs.length).foldl (fun (r : State × List Byte) p =>
    (r.1.ctxPut ctx p.1 (r.2.take p.2), r.2.drop p.2)) (s, bs)).1

/-- Bytes read from the launch area; 0 where a page does not translate (UNVERIFIED, log 20). -/
def getArea (s : State) (ctx va n : Nat) : List Byte :=
  (cutAt 65536 (n / 65536 + 2) va n).flatMap fun p =>
    match s.ctxRead ctx p.1 p.2 with
    | .ok b => b
    | .error _ => List.replicate p.2 0

/-- A handle record (R192). -/
def Handle.bytes (h : Handle) : List Byte :=
  toBytes 8 (h.base + h.ssz * 2 ^ 21 + h.cnt * 2 ^ 28 + h.head * 2 ^ 40 + h.tail * 2 ^ 52)
    ++ toBytes 8 (h.fill + b2n h.v * 2 ^ 31 + h.arrv * 2 ^ 32)

/-- The handle of a record; none where R284's check fails. -/
def readHandle (b : List Byte) : Option Handle :=
  let lo := ofBytes (b.take 8)
  let hi := ofBytes ((b.drop 8).take 8)
  let h : Handle := ⟨bitAt hi 31, fld lo 20 0, fld lo 27 21, fld lo 39 28, fld lo 51 40, fld lo 63 52, fld hi 12 0, fld hi 63 32⟩
  if fld hi 30 13 ≠ 0 ∨ (h.v ∧ h.cnt + 1 < h.fill) then none else some h

/-- The first byte of a handle record that R284's check fails (R196, R496): an RSV bit, else FILL. -/
def handleBad (b : List Byte) : Nat :=
  let hi := ofBytes ((b.drop 8).take 8)
  if (readHandle (toBytes 8 (ofBytes (b.take 8)) ++ toBytes 8 (hi % 2 ^ 13 + fld hi 63 31 * 2 ^ 31))).isNone then 8
  else if fld hi 15 13 ≠ 0 then 9 else if fld hi 23 16 ≠ 0 then 10 else 11

/-- The codes of a channel's state. -/
def ChState.code : ChState → Nat
  | .closed => 0
  | .opened => 1
  | .active => 2
  | .index => 3

/-- The copies an SMC of core c makes of each element in its launch (R204). -/
def copiesIn (l : Launch) (c mask : Nat) : Nat := ((List.range 16).filter fun b => bitAt mask b && l.has (clusCore c b)).length

/-- The elements of the current pass that are done (R282): of an SMC those whose copies have all performed. -/
def Channel.doneElems (x : Channel) (n : Nat) : Nat :=
  let got := x.paired + (x.index.filter fun t => !t.data.isEmpty).length
  if x.pass = 7 then (if n = 0 then x.paired else (x.done - got) / n) else x.done

/-- A channel record (R282). -/
def Channel.bytes (x : Channel) (n : Nat) : List Byte :=
  let param := if x.pass = 7 then x.mask + x.off * 2 ^ 32 else if x.pass = 4 then x.paired % 2 ^ 32 else 0
  layOut 256 [(0, dwBytes x.desc), (64, toBytes 1 x.state.code), (65, toBytes 1 x.pass), (66, toBytes 1 x.partner),
    (72, toBytes 8 x.count), (80, toBytes 8 (wrap 64 x.origin)), (88, toBytes 8 (x.doneElems n)), (96, toBytes 8 param)]

/-- A channel as its record gives it, the rest as saved, with n copies of each element: an ACTIVE pass goes on at its first element not
done (R283); what it has read and not yet written, and what the launch still has outstanding (log 20), are kept with the record. -/
def Channel.restore (x : Channel) (b : List Byte) (n : Nat) : Channel :=
  let at_ := fun (o n : Nat) => ofBytes ((b.drop o).take n)
  let st := match at_ 64 1 with | 0 => ChState.closed | 1 => .opened | 2 => .active | _ => .index
  let param := at_ 96 8
  let d := at_ 88 8
  let x : Channel := if d = x.doneElems n ∧ at_ 65 1 = x.pass then x
    else { x with issued := d, done := if at_ 65 1 = 7 then d * (1 + n) else d, paired := d, index := [] }
  { x with
           state := st, desc := (List.range 8).map fun i => dword (at_ (8 * i) 8), pass := at_ 65 1, partner := at_ 66 1,
           count := at_ 72 8, origin := sext 64 (at_ 80 8),
           mask := if at_ 65 1 = 7 then param % 2 ^ 16 else x.mask, off := if at_ 65 1 = 7 then fld param 52 32 else x.off,
           paired := if at_ 65 1 = 4 then param % 2 ^ 32 else x.paired }

/-- The first 64 KiB of a core area; a cut image has a MARKER that waits for its cut behind it, with the cut's number (R304). -/
def headerBytes (s : State) (l : Launch) (kind half c n : Nat) : List Byte :=
  let k := s.core c
  let q := k.seq
  let past : Option (Nat × Nat) := match q.wait with | .cut m d => if kind = 2 then some (m, d) else none | _ => none
  let pc := if past.isSome then q.pc + 4 else q.pc
  let regs := (List.range 31).flatMap fun i => toBytes 8 (match past with
    | some (m, d) => if d = i + 1 then m else (greg k (i + 1)).toNat
    | none => (greg k (i + 1)).toNat)
  let js := (List.range 31).flatMap fun i => toBytes 4 (jreg k (i + 1)).toNat
  let mode := [((k.mode.head?.map (·.2)).getD 0), ((l.wdog.head?.map (·.2)).getD 0), ((l.snapcfg.head?.map (·.2)).getD 0)]
  let trap := match q.trapIdx with | some i => 2 ^ 63 + i | none => 0
  let xq := fun (l : List XTok) => layOut 128 (((List.range 8).zip l).map fun p => (16 * p.1, toBytes 8 p.2.tok.toNat ++ toBytes 8 p.2.next))
  let tag := fun (i : Nat) => match AMap.find? k.tags i with
    | some (t, w, x) => toBytes 8 ((t.ctag ++ t.itag).toNat + w.toNat * 2 ^ 32) ++ toBytes 8 (x + 2 ^ 63)
    | none => List.replicate 16 0
  layOut 65536
    [(0, toBytes 8 pc), (8, regs), (0x100, toBytes 4 k.strm.pc), (0x104, js), (0x180, dwBytes mode), (0x198, toBytes 8 trap),
     (0x1A0, toBytes 8 kind), (0x1C0, (mxStatus k s.now).flatMap fun w => toBytes 4 w.toNat),
     (0x200, if n = 0 ∧ half = 0 then dwBytes [l.cuta, l.cutb, dword l.live] else []),
     (0x1000, (List.range 16).flatMap fun i => (k.chan i).bytes (copiesIn l c (k.chan i).mask)), (0x2000, (List.range 16).flatMap fun i => (k.handle i).bytes),
     (0x3000, (List.range 64).flatMap fun i => (s.shaker c i).flatMap fun w => toBytes 4 w.toNat),
     (0x4000, (List.range 256).flatMap tag), (0x5000, xq k.mx.xq0 ++ xq k.mx.xq1)]

/-- The address in memory of line i of a launch's window and its place in the window's image (R283). -/
def windowLines (l : Launch) : List (Nat × Nat) := (List.range (l.winSize / 128)).map fun i => (winAddr l (128 * i), 128 * i)

/-- The bytes of its fabric area that a save of a kind moves for core n, the last eight its integrity word (R282-R284): contents of the
device's own, free values under a seed (log 20). -/
def fabricBytes (seed kind n : Nat) : List Byte :=
  (List.range ((if kind = 0 then 2 ^ 21 else 2 ^ 23) / 8)).flatMap fun i => toBytes 8 (Config.freeDWord (seed + n * 2 ^ 20 + i)).toNat

/-- The half that a freeze or gated save takes (R282, R291): with snapshots on, the one that holds no committed cut (DEDUCED, log 20). -/
def Launch.saveHalf (l : Launch) (now : Nat) : Nat := if l.snapOn now then (l.live + 1) % 2 else 0

/-- A save writes the launch area (R282, R283): core areas with their fabric areas, frames in every state, scratch and the group
window. -/
def saveArea (s : State) (l : Launch) (kind half seed : Nat) : State :=
  let one := fun (s : State) (p : Nat × Nat) =>
    let base := areaBase s l half p.1
    let s := putArea s l.ctx base (headerBytes s l kind half p.2 p.1)
    let s := (List.range 128).foldl (fun s f => putArea s l.ctx (base + 0x10000 + 0x1100 * f) (layOut 0x1100 [(0, ((s.core p.2).frame f).image)])) s
    let s := putArea s l.ctx (base + 0x200000) (s.scratch p.2 0 (2 ^ 21))
    putArea s l.ctx (base + 0x400000) (fabricBytes seed kind p.1)
  let s := ((List.range l.cores.length).zip l.cores).foldl one s
  (windowLines l).foldl (fun s p => putArea s l.ctx (areaBase s l half 0 + 2 ^ 32 + p.2) (readBytes s.mem p.1 128)) s

/-- What the device keeps privately of a launch that is saved or cut, cores by group-relative number: marks made before a cut do not
count after it (R289). -/
def keptOf (s : State) (n : Nat) (l : Launch) (seed : Nat) : Kept where
  cores := ((List.range l.cores.length).zip l.cores).map fun p => (p.1, { s.core p.2 with markSet := [] })
  doms := domainsOf s n l
  accs := (s.accs.filter fun p => l.cores.contains p.2.core && p.2.stage != .performed).map fun p =>
    (p.1, { p.2 with core := l.cores.idxOf p.2.core, space := match p.2.space with | .scratch k => .scratch (l.cores.idxOf k) | x => x })
  seed := seed
  endSent := l.endSent
  gdrop := l.gdrop
  gmode := l.gmode
  guard := l.guardQ.filterMap fun i => (AMap.find? s.ops i).map fun o => (i, { o with core := l.cores.idxOf o.core })
  ways := l.ways

/-- The seed of a save's fabric areas, and the state that has taken its free values. -/
def takeSeed (s : State) (l : Launch) : Nat × State := (s.freeCtr, { s with freeCtr := s.freeCtr + l.cores.length * 2 ^ 20 })

/-- The bits of single bytes of a core area's first 64 KiB that are RSV, as masks: of MODE, SNAPCFG, TRAPIDX, KIND and the tag allocator's
entries (R282, R299). -/
def rsvBits : List (Nat × Nat) :=
  [(0x180, 0xE8), (0x190, 0xFC), (0x19F, 0x7F), (0x1A0, 0xFC)] ++ (List.range 256).flatMap fun i => [(0x4008 + 16 * i, 0xFC), (0x400F + 16 * i, 0x7F)]

/-- The first offset of a core area at which a restore's checks fail (R196, R284, R496): RSV bytes and bits, handles, frames. The bytes of KIND
above its codes are RSV (DEDUCED, log 20). -/
def areaBad (b : List Byte) (frames : List (List Byte)) (first : Bool) : Option Nat :=
  let zero := fun (lo hi : Nat) => (List.range (hi - lo)).findSome? fun i => if b.getD (lo + i) 0 ≠ 0 then some (lo + i) else none
  let rsv := [(0x181, 0x188), (0x18C, 0x190), (0x194, 0x198), (0x19C, 0x19F), (0x1A1, 0x1C0), (if first then 0x218 else 0x200, 0x1000)]
    ++ (List.range 16).flatMap (fun i => [(0x1000 + 256 * i + 67, 0x1000 + 256 * i + 72), (0x1000 + 256 * i + 104, 0x1000 + 256 * (i + 1))])
    ++ [(0x2100, 0x3000)] ++ (List.range 256).map (fun i => (0x4009 + 16 * i, 0x400F + 16 * i))
    ++ (List.range 16).map (fun i => (0x5009 + 16 * i, 0x5010 + 16 * i)) ++ [(0x5300, 0x10000)]
  let hs := (List.range 16).filterMap fun i => if (readHandle ((b.drop (0x2000 + 16 * i)).take 16)).isNone then some (0x2000 + 16 * i + handleBad ((b.drop (0x2000 + 16 * i)).take 16)) else none
  let fs := ((List.range frames.length).zip frames).filterMap fun p => if (readImage p.2).isNone then some (0x10000 + 0x1100 * p.1 + imageBad p.2) else none
  let bits := rsvBits.filterMap fun p => if (b.getD p.1 0).toNat &&& p.2 ≠ 0 then some p.1 else none
  leastBy (fun a b => decide (a < b)) (rsv.filterMap (fun r => zero r.1 r.2) ++ bits ++ hs ++ fs)

/-! ## Start (R342, R343) -/

/-- The lowest context of a mask. -/
def lowCtx (m : Nat) : Nat := ((List.range 4).find? fun i => bitAt m i).getD 0

/-- A core as step 2 of R342 loads it for a launch. -/
def loadedCore (s : State) (n : Nat) (l : Launch) (im : Image) (c g : Nat) : Core :=
  let old := s.core c
  let t := AMap.get im.cores g Core.idle
  let args := (List.range 4).map fun i => (i + 1, l.recd.getD (12 + i) 0)
  { t with
           launch := some n, grel := g, ctxm := im.ctxm, loaded := lowCtx im.ctxm, mode := [(0, (s.ctx l.ctx).mode)],
           prog := im.seqProg, progPad := im.seqPad, sprog := im.strmProg, sprogPad := im.strmPad, table := im.streams,
           seq := { t.seq with g := args }, tlb := old.tlb, acq := old.acq, wc := old.wc, latch := old.latch }

/-- The cycles between sweeps of the quiescence tree (R388). -/
def Launch.sweepTime (l : Launch) : Nat := 2 * (l.rows + l.cols) + 4

/-- Restarts the sweeps and the cut timer of a launch that runs from now on (R289, R388). -/
def startTimers (s : State) (n : Nat) : State :=
  match AMap.find? s.launches n with
  | none => s
  | some l =>
    let s := s.cancelEv .quiescenceSweep fun a => a.head? == some n
    let s := s.after l.sweepTime .quiescenceSweep [n]
    match l.cutDue s.now with
    | some t => s.at t .cutPeriod [n]
    | none => s

/-- A launch takes back its accesses, at their old numbers, and its domains as a save or a cut kept them (R268, R287): a DET access
arrives at its order slice again, the others perform, and one that has faulted is translated and attempted again (R288). Registers that loads of the sequencer will write wait for them. -/
def putKept (s : State) (n : Nat) (l : Launch) (p : Kept) : State :=
  let slices := fun (x : Nat × Slice) => (x.1, { x.2 with doms := x.2.doms.filter (·.launch != n) })
  let s := s.cancelEv .guardErrorToken fun a => a.head? == some n
  let ops := (s.ops.filter fun o => !(o.2.op == 0 && l.cores.contains o.2.core))
    ++ p.guard.map fun o => (o.1, { o.2 with core := l.cores.getD o.2.core 0 })
  let s := { s with accs := s.accs.filter (fun a => !l.cores.contains a.2.core), ops := ops,
                    dies := s.dies.map fun (d : Nat × Die) => (d.1, { d.2 with slices := d.2.slices.map slices }) }
  let s := s.modLaunch n fun x => { x with doms := p.doms, cutWait := [], endSent := p.endSent, gdrop := p.gdrop, gmode := p.gmode, guardQ := p.guard.map (·.1) }
  p.accs.foldl (fun s e =>
    let c := l.cores.getD e.2.core 0
    let a : Access := { e.2 with core := c, space := match e.2.space with | .scratch g => .scratch (l.cores.getD g 0) | x => x }
    let s := { s with accs := AMap.put s.accs e.1 a }
    let s := match a.src with
      | .seq d => if d = 64 ∨ d = 67 ∨ d = 32 then s else
          s.modSeq c fun q => { q with busy := if d % 32 = 0 then q.busy else d % 32 :: q.busy, loads := q.loads + 1 }
      | _ => s
    let s := s.cancelEv .perform fun x => x == [e.1]
    if a.stage = .ordering then s.after 20 .orderSliceArrival [e.1]
    else if a.stage ≠ .faulted then s.after 1 .perform [e.1]
    else
      let again := a.own.isNone && !a.vas.isEmpty
      let a : Access := { a with stage := .sent, space := if again then Space.virt else a.space, todo := if again then a.vas.drop (a.vas.length - a.todo.length) else a.todo }
      { s with accs := AMap.put s.accs e.1 a }.after 1 (if a.space = Space.virt then .pageWalk else .perform) [e.1]) s

/-- A region runs again from its committed cut (R280, R291): the next interval opens again, and the record names LIVE. -/
def rolledBack (s : State) (n : Nat) (l : Launch) : State :=
  let s := s.modLaunch n fun x => { x with kind := 0, interval := l.live + 1, rollbacks := l.rollbacks + 1 }
  (s.record l.ctx { cause := 10, origin := 14, core := l.origin, frz := true, rb := true, queue := l.queue, detail := l.live }).1

/-- What a restored launch takes up as it runs again: what its save or cut has kept, and, after an error, its next interval (R283, R286, R291). -/
def takeUp (s : State) (n : Nat) (l : Launch) : State :=
  if !l.started then s else
  let s := (putKept s n l l.priv).modLaunch n fun x => { x with priv := Kept.none, endSent := if l.kind = 0 then false else x.endSent }
  if l.kind = 2 then rolledBack s n l else s

/-- The cores of a stitched group run: its sequencers start, at what a restore has given them (R283, R342, R362); none does that CANCEL or DONE is
about to end (R328). -/
def startRun (s : State) (n : Nat) : State :=
  match AMap.find? s.launches n with
  | none => s
  | some l =>
    if (endingReach s).contains n then s else
    let s := takeUp s n l
    let s := l.cores.foldl (fun s c => s.modCore c fun k => { k with stopped := false, seq := { k.seq with running := true, next := s.now } }) s
    (startTimers (s.modLaunch n fun l => { l with state := .running, gstate := .running, started := true }) n).refreshCtx l.ctx

/-- Cut 0 of a region, in half A (R289). -/
def firstCut (s : State) (n : Nat) (l : Launch) : State :=
  let (seed, s) := takeSeed s l
  let s := saveArea s l 2 0 seed
  s.modLaunch n fun l => { l with cut := keptOf s n l seed, cuta := 0, live := 0, interval := 1, lastCut := s.now }

/-- A launch's group becomes STITCHED in this cycle (R362), from which the deadline of its gang's round 0 is taken (R370). -/
def stitched (s : State) (n : Nat) : State :=
  let due := fun (g : Gang) =>
    let sl := gangSlice (gangDesc s g.gang)
    if g.deadline = 0 ∧ g.st = 0 then { g with deadline := (s.count.toNat + sl - 1) / sl * sl } else g
  s.modLaunch n fun l => { l with gstate := .stitched, gang := l.gang.map due }

/-- A stitched group is READY for its gang's round (R370): READY goes to the coordinator. -/
def gangReady (s : State) (n : Nat) (g : Gang) : State :=
  let d := gangDesc s g.gang
  let now := s.count.toNat
  let dl := g.deadline
  let s := s.modLaunch n fun l => { l with gang := some { g with st := 1 } }
  if coordinator d = s.topo.pkg.toNat then
    let s := s.after 0 .ready [g.gang, g.round, s.topo.pkg.toNat]
    let s := s.after (dl - now) .sliceBoundary [g.gang, g.round, n]
    s.after (dl + gangGrace d - now) .gangDeadline [g.gang, g.round, n]
  else sendLink s (coordinator d) (1024 + schedulerDie) 0 0 0 [3, g.gang, g.round, s.topo.pkg.toNat] []

/-- A stitched group starts, or waits for its gang (R342, R370); one whose round has started it already, resumed on the group it held, goes on. -/
def goStitched (s : State) (n : Nat) : State :=
  match (AMap.find? s.launches n).bind (·.gang) with
  | some g => if g.st = 0 then gangReady s n g else startRun s n
  | none => startRun s n

/-- CORE_LOAD_COMPLETE (R101, R289, R342, R343, R362, R370): the contexts and programs of launch [n] are on its cores; the group is
stitched and its sequencers start, or it waits for its gang. A region first writes its cut 0, which takes an image's time; at its end
[n, 1] it goes on. -/
def execCoreLoadComplete (s : State) : Res :=
  let n := s.arg 0
  match AMap.find? s.launches n with
  | none => .next s
  | some l =>
    if l.state ≠ .loading ∨ l.started then .next s else
    match s.imageOf l with
    | none => .next s
    | some im =>
      if s.arg 1 = 1 then .next (goStitched (firstCut s n l) n) else
      let s := ((List.range l.cores.length).zip l.cores).foldl (fun s p => s.setCore p.2 (loadedCore s n l im p.2 p.1)) s
      let s := if bitAt (l.recd.getD 0 0).toNat 7 then l.cores.foldl (fun s c => s.putScratch c 0x1FDFF0 (List.replicate 16 0)) s else s
      let s := stitched s n
      .next (if l.snapOn s.now then s.after (saveTime 2 l.ways) .coreLoadComplete [n, 1] else goStitched s n)

/-! ## Saves -/

/-- The queue of a saved launch: ARMED with its head saved once every launch of the instance is, SUSPENDED with EN clear (R314); its dependences are looked at
again (R316). -/
def headSaved (s : State) (q : Nat) : State :=
  let k := s.queue q
  let all := k.launches.all fun n => match AMap.find? s.launches n with | some l => l.state == .saved | none => true
  if k.state ≠ .active ∨ !all then s
  else (s.modQueue q fun k => { k with state := if k.en then .armed else .suspended, saved := true }).watchDeps q

/-- The window of a group is unregistered and its ways are returned when the group is released (R410, R415). -/
def Launch.unlend (l : Launch) : Launch := { l with window := none, guardQ := [] }

/-- SAVE_COMPLETE (R283, R287, R362): the save of launch [n] is written; the cores are released, or the launch is restored at once
when the host has resumed it already. -/
def execSaveComplete (s : State) : Res :=
  let n := s.arg 0
  match AMap.find? s.launches n with
  | none => .next s
  | some l =>
    if l.state ≠ .saving ∧ l.state ≠ .freezing then .next s else
    let (seed, s) := takeSeed s l
    let s := saveArea s l l.kind (l.saveHalf s.now) seed
    let s := s.modLaunch n fun x => { x with priv := keptOf s n l seed }
    if l.resume then
      .next ((beginLoad (s.modLaunch n fun x => { x with state := .loading, gstate := .reserved, resume := false }) n).refreshCtx l.ctx)
    else
      let s := vacateGroup s n l
      let st := if l.state = .saving then LState.saved else l.after
      let s := s.modLaunch n fun x => { x.unlend with state := st, gstate := .released }
      .next ((if st = .saved then headSaved s l.queue else s).refreshCtx l.ctx)

/-- The core of a gated save: the image's, with what KIND 0 keeps (R285, R286, R346). -/
def gatedCore (t p : Core) : Core :=
  { t with
           loaded := p.loaded, forked := p.forked, scnt := p.scnt, pastProduct := p.pastProduct, bt := p.bt, btAt := p.btAt,
           pcon := p.pcon, sf := p.sf, sfE := p.sfE, seamShut := p.seamShut, rows := p.rows, colls := p.colls, collCnt := p.collCnt,
           seq := p.seq, strm := p.strm, chans := p.chans, handles := p.handles, tags := p.tags, shaker := p.shaker,
           mx := { p.mx with fq := [], sel := none, flights := [] }, frameCls := p.frameCls }

/-- The matrix engine's weights, shares and counters as the MXST vector of a core area gives them (R231, R282). -/
def Mx.restored (m : Mx) (lane : Nat → Nat) : Mx :=
  { m with cnt := [0, 1, 2, 3, 4, 9].map fun i => (i, lane i), w0 := fld (lane 8) 3 0, w1 := fld (lane 8) 7 4,
           c0 := fld (lane 8) 11 8, c1 := fld (lane 8) 15 12 }

/-- A core restored from its area and its private part (R283, R284), to run when its group starts. R284 names no check of MODE: a value that the host has put there is
taken as it is, RND 6 and 7 too (DESIGN CHOICE, log 20). -/
def restoreCore (s : State) (n : Nat) (l : Launch) (im : Image) (c g half : Nat) (prv : AMap Core) : Core :=
  let base := areaBase s l half g
  let b := getArea s l.ctx base 65536
  let at_ := fun (o k : Nat) => ofBytes ((b.drop o).take k)
  let old := s.core c
  let p := AMap.get prv g Core.idle
  let k := if l.kind = 0 then gatedCore (loadedCore s n l im c g) p else p
  let frames := (List.range 128).filterMap fun f =>
    (readImage (getArea s l.ctx (base + 0x10000 + 0x1100 * f) 0x1100)).map fun x => (f, { x with lst := (p.frame f).lst })
  let regs := (List.range 31).map fun i => (i + 1, dword (at_ (8 + 8 * i) 8))
  let js := (List.range 31).map fun i => (i + 1, word (at_ (0x104 + 4 * i) 4))
  let tags := (List.range 256).filterMap fun i =>
    let lo := at_ (0x4000 + 16 * i) 8
    let hi := at_ (0x4008 + 16 * i) 8
    if bitAt hi 63 then some (i, (⟨BitVec.ofNat 8 (fld lo 31 24), BitVec.ofNat 24 lo⟩ : Tag), word (lo / 2 ^ 32), hi % 4) else none
  let xq := fun (o : Nat) (q : List XTok) => ((List.range q.length).zip q).map fun (x : Nat × XTok) =>
    { x.2 with tok := dword (at_ (o + 16 * x.1) 8), next := at_ (o + 16 * x.1 + 8) 1 }
  let wait := match k.seq.wait with | .arrived v => SeqWait.arrived v | _ => .none
  let trap := at_ 0x198 8
  { k with
           launch := some n, grel := g, stopped := true, gated := false, oldUntil := s.now,
           mode := [(0, dword (at_ 0x180 8))], handles := (List.range 16).map fun i => (i, (readHandle ((b.drop (0x2000 + 16 * i)).take 16)).getD (k.handle i)),
           chans := (List.range 16).map fun i => (i, (k.chan i).restore ((b.drop (0x1000 + 256 * i)).take 256) (copiesIn l c (k.chan i).mask)),
           shaker := (List.range 64).map fun i => (i, (List.range 16).map fun j => word (at_ (0x3000 + 64 * i + 4 * j) 4)), tags := tags,
           seq := { k.seq with
                               running := false, pc := at_ 0 8, g := regs, ready := [], busy := [], loads := 0, next := s.now, wait := wait,
                               trapIdx := if bitAt trap 63 then some (trap % 2 ^ 32) else none },
           strm := { k.strm with
           pc := at_ 0x100 4, j := js, next := s.now },
           mx := { k.mx.restored fun i => at_ (0x1C0 + 4 * i) 4 with
                             xq0 := xq 0x5000 k.mx.xq0, xq1 := xq 0x5080 k.mx.xq1, frames := frames, sel := none, flights := [],
                             balance := 0, requested := false, halted := [], arrayFree := s.now, fqBusy := s.now },
           tlb := old.tlb, acq := old.acq, wc := [], latch := k.latch }

/-- Fills the cores and the window of a group from a half of its launch area, and has what was kept beside it taken up when the group runs; the start token goes to the loaded context of a core
saved by gating after its FORK (R283, R286). The cores acquire, so that no far-cache copy older than the save is read (DEDUCED,
log 20). -/
def restoreArea (s : State) (n : Nat) (l : Launch) (im : Image) (half : Nat) (kept : Kept) : State :=
  let one := fun (s : State) (p : Nat × Nat) =>
    let base := areaBase s l half p.1
    let k := restoreCore s n l im p.2 p.1 half kept.cores
    let s := (s.setCore p.2 k).putScratch p.2 0 (getArea s l.ctx (base + 0x200000) (2 ^ 21))
    let s := acquireFar s p.2
    if l.kind = 0 ∧ k.forked then sendStart s p.2 k.loaded 2 else s
  let s := ((List.range l.cores.length).zip l.cores).foldl one s
  let s := (windowLines l).foldl (fun (s : State) p =>
    { s with mem := writeBytes s.mem p.1 (getArea s l.ctx (areaBase s l half 0 + 2 ^ 32 + p.2) 128) }) s
  s.modLaunch n fun x => { x with priv := kept, stalled := 0 }

/-- The first byte of a launch area at which a restore fails (R284, R496): a check of the documented areas, else the integrity word of a
fabric area that does not hold what the save put there. -/
def restoreBad (s : State) (l : Launch) (half seed : Nat) : Option Nat :=
  (List.range l.cores.length).findSome? fun g =>
    let base := areaBase s l half g
    let frames := (List.range 128).map fun f => getArea s l.ctx (base + 0x10000 + 0x1100 * f) 0x1100
    let fabric := fabricBytes seed l.kind g
    match areaBad (getArea s l.ctx base 65536) frames (g == 0 && half == 0) with
    | some o => some (base + o)
    | none => if getArea s l.ctx (base + 0x400000) fabric.length = fabric then none else some (base + 0x400000 + fabric.length - 8)

/-- Where the state lies that a launch restores from: the half of a freeze or gated save with what it kept, or, after a rollback, the
half of the committed cut (R280, R291). -/
def Launch.source (l : Launch) (now : Nat) : Nat × Kept := if l.kind = 2 then (l.live % 2, l.cut) else (l.saveHalf now, l.priv)

/-- WDOG and SNAPCFG of a launch as a half holds them (R282). -/
def groupRegs (s : State) (l : Launch) (half : Nat) : DWord × DWord :=
  let b := getArea s l.ctx (areaBase s l half 0 + 0x188) 16
  (dword (ofBytes (b.take 8)), dword (ofBytes (b.drop 8)))

/-- RESTORE (R283, R284, R286, R288, R362, R370, R496): launch [n] is restored on its group, which is then stitched, and runs on, or waits for its
gang's round; a failed check leaves it FAULTED, its
group released and its area as it was. -/
def execRestore (s : State) : Res :=
  let n := s.arg 0
  match AMap.find? s.launches n with
  | none => .next s
  | some l =>
    if l.state ≠ .loading ∨ !l.started then .next s else
    let (half, kept) := l.source s.now
    match s.imageOf l, restoreBad s l half kept.seed with
    | none, _ => .next s
    | _, some va =>
      let r : Rec := if l.kind = 2 then { cause := 10, origin := 14, detail := l.live } else { cause := 3, origin := 10 }
      let s := (s.record l.ctx { r with frz := true, queue := l.queue, addr := va, core := l.origin }).1
      let s := vacateGroup s n l
      .next ((s.modLaunch n fun x => { x.unlend with state := .faulted, after := .faulted, gstate := .released }).refreshCtx l.ctx)
    | some im, none =>
      let (wdog, snap) := groupRegs s l half
      let s := turnWays s l (16 - l.ways) 16
      let s := restoreArea s n l im half kept
      let s := s.modLaunch n fun x => { x with wdog := [(0, wdog)], snapcfg := [(0, snap)] }
      .next (goStitched (stitched s n) n)

/-! ## Stop waves (R287) -/

/-- STOP_WAVE_ARRIVAL (R287, R360, R394): the stop wave of launch [n] reaches core [c]: nothing new starts there. -/
def execStopWaveArrival (s : State) : Res :=
  let n := s.arg 0
  let c := s.arg 1
  if (s.core c).launch ≠ some n then .next s
  else .next ((abandonWait s c true).modCore c fun k => { k with stopped := true })

/-- Whether a node that waits keeps a core from having stopped, where some accesses cannot perform before the launch runs again: a fence
does, unless it waits for such accesses or for a cut; a circular-buffer, bin or combine wait rests in the saved fabric (DEDUCED, log 20). -/
def Wait.holdsStop (w : Wait) (l : Launch) (stuck : List Nat) : Bool :=
  w.op == 0x8B || ((w.op == 0x81 || w.op == 0x82 || w.op == 0x89) && !l.cutWait.contains w.id && !w.ids.any stuck.contains)

/-- The number that a domain of a launch expects at its order slice (R268); none where the slice's table has no entry left for it. -/
def nextOwn (s : State) (n : Nat) (l : Launch) (dom : Nat) : Option (BitVec 16) :=
  let (d, i) := orderSlice l dom
  match (s.slice d i).doms.find? fun x => x.launch == n && x.dom == dom with
  | some x => some x.nx
  | none =>
    if 32 ≤ (s.slice d i).doms.length then none
    else some (((l.doms.find? (·.dom == dom)).map (·.nx)).getD (BitVec.ofNat 16 (lowBase (domBases s l dom).2)))

/-- The accesses of a launch that cannot perform while nothing new starts there: those that wait for a cut or for room in an interval
store buffer (R248, R273), those that have faulted (R288), those whose domain expects a number not yet sent (R270), and what must follow one of these. -/
def stuckAccs (s : State) (n : Nat) (l : Launch) : List Nat :=
  let own := s.accs.filter fun p => l.cores.contains p.2.core
  let held := fun (a : Access) => a.stage == .ordering && (match nextOwn s n l a.dom with
    | none => true
    | some x => !own.any fun p => p.2.dom == a.dom && p.2.own == some x && p.2.stage != .performed)
  let seeds := own.filter fun p => p.2.stage == .faulted || l.cutWait.contains p.1 || held p.2 || (p.2.stage == .sent && (lacksRoom s p.2).isSome)
  grow own own.length (seeds.map (·.1))
where
  /-- With the accesses that must follow those of a list, and so on. -/
  grow (own : AMap Access) : Nat → List Nat → List Nat
    | 0, l => l
    | f + 1, l =>
      let more := own.filter fun p => !l.contains p.1 && p.2.stage == .sent &&
        own.any fun q => l.contains q.1 && (mustFollow q.2 p.2 || afterLower s q.2 p.2)
      if more.isEmpty then l else grow own f (l ++ more.map (·.1))

/-- Whether a core has still to join a multicast k-step that another core of its launch has selected (R220, R232). -/
def awaitedBy (s : State) (l : Launch) (c : Nat) : Bool :=
  l.cores.any fun d => match (s.core d).chosen with
    | some g => g.2.2.2.contains c && (s.core c).chosen != some g
    | none => false

/-- Whether a core that the wave has reached has stopped (R287): firings and snippets delivered, k-steps completed, accesses performed
and answered, buffered stores too (R265), but for those that cannot perform until the launch runs again. -/
def hasStopped (s : State) (l : Launch) (stuck : List Nat) (c : Nat) : Bool :=
  let k := s.core c
  let mine := s.accs.filter fun p => p.2.core == c && p.2.src != .chan 18 0 && p.2.src != .chan 19 0
  let regs := mine.filterMap fun p => match p.2.src with | .seq d => if stuck.contains p.1 then some (d % 32) else none | _ => none
  k.stopped && k.flights.isEmpty && k.snips.isEmpty && k.mx.flights.isEmpty && k.mx.sel.isNone && !awaitedBy s l c && !(k.waits.any fun w => w.holdsStop l stuck)
    && k.wc.isEmpty && k.seq.busy.all regs.contains && (k.seq.wait != .answer || !regs.isEmpty)
    && mine.all (fun p => stuck.contains p.1) && !(s.ops.any fun p => p.2.core == c && p.2.op != 0)

/-- The part of a cycle's end in which a launch that a wave stops counts its cores: the group is frozen 2 × (rows + cols) cycles
after the last has stopped (R287). -/
def serveStop (s : State) (n : Nat) : State :=
  match AMap.find? s.launches n with
  | none => s
  | some l =>
    if l.toStop.isEmpty then s else
    let stuck := stuckAccs s n l
    let left := l.cores.filter fun c => !hasStopped s l stuck c
    let s := s.modLaunch n fun x => { x with toStop := left }
    if left.isEmpty then s.after (2 * (l.rows + l.cols)) .groupFrozen [n] else s

/-- A stop wave over one launch from a core, raising nothing (R290, R291). -/
def stopWave (s : State) (n : Nat) (l : Launch) (c : Nat) (st : LState) : State :=
  let s := l.cores.foldl (fun s k => s.after (2 * hops c k) .stopWaveArrival [n, k]) s
  (s.modLaunch n fun x => { x with state := st, toStop := x.cores, frozeAt := s.now }).refreshCtx l.ctx

/-- GROUP_FROZEN (R287, R290, R291): the group of launch [n] is frozen: its freeze save, its cut image or its rollback begins. -/
def execGroupFrozen (s : State) : Res :=
  let n := s.arg 0
  match AMap.find? s.launches n with
  | none => .next s
  | some l =>
    if !l.toStop.isEmpty then .next s else
    match l.state with
    | .freezing => .next ((s.modLaunch n fun x => { x with gstate := .quiescent, kind := 1 }).after (saveTime 1 l.ways) .saveComplete [n])
    | .cutting => .next (s.after (saveTime 2 l.ways) .cut [n, l.origin, 1])
    | .rollingBack => .next (s.after (saveTime 2 l.ways) .rollback [n])
    | _ => .next s

/-! ## Cuts (R289, R290, R304) -/

/-- The cores of a launch go on after a cut, past the MARKERs that waited for it, with its number (R304). -/
def thaw (s : State) (l : Launch) : State :=
  l.cores.foldl (fun s c => s.modCore c fun k =>
    { k with
             stopped := false, markSet := [],
             seq := match k.seq.wait with
               | .cut m d => { k.seq with g := if d = 0 then k.seq.g else AMap.put k.seq.g d (dword m), pc := k.seq.pc + 4, wait := .none, next := s.now + 1 }
               | _ => k.seq }) s

/-- The accesses and the waits that forced a launch's cut may go on (R273). -/
def cutMade (s : State) (l : Launch) : State :=
  let s := { s with accs := s.accs.map fun p => if l.cutWait.contains p.1 then (p.1, { p.2 with epoch := 1 }) else p }
  l.cores.foldl (fun s c => s.modCore c fun k =>
    { k with waits := k.waits.map fun w => if l.cutWait.contains w.id then { w with cut := true } else w }) s

/-- CUT (R273, R289, R290): a trigger [n, core] starts the cut of a region's open interval, or joins the one in progress; its end
[n, core, 1] writes the image into half N mod 2, commits the interval, advances LIVE and thaws the cores. -/
def execCut (s : State) : Res :=
  let n := s.arg 0
  match AMap.find? s.launches n with
  | none => .next s
  | some l =>
    if s.arg 2 = 0 then
      if (l.state ≠ .running ∧ l.state ≠ .gating) ∨ !l.snapOn s.now then .next s
      else .next (stopWave s n l (s.args.getD 1 l.origin) .cutting)
    else if l.state ≠ .cutting then .next s
    else
      let k := l.interval
      let (seed, s) := takeSeed s l
      let s := commit (saveArea s l 2 (k % 2) seed) n
      let l' : Launch := { l with cuta := if k % 2 = 0 then dword k else l.cuta, cutb := if k % 2 = 1 then dword k else l.cutb, live := k }
      let s := putArea s l.ctx (areaBase s l 0 0 + 0x200) (dwBytes [l'.cuta, l'.cutb, dword k])
      let gated := l.gstate = .gated
      let s := cutMade s l
      let s := s.modLaunch n fun _ =>
        { l' with
                  cut := keptOf s n l seed, interval := k + 1, rollbacks := 0, lastCut := s.now, cutWait := [],
                  state := if gated then .gating else .running }
      let s := l.cutWait.foldl (fun s id => s.after 0 .perform [id]) (thaw s l)
      let s := match l'.cutDue s.now with
        | some _ => s.at (s.now + 1024 * fld (timed s.now 0 l.snapcfg).toNat 31 8) .cutPeriod [n]
        | none => s
      .next (s.refreshCtx l.ctx)

/-- CUT_PERIOD (R289): the period of launch [n]'s cuts has passed since its last one. -/
def execCutPeriod (s : State) : Res :=
  let n := s.arg 0
  match AMap.find? s.launches n with
  | none => .next s
  | some l =>
    match l.cutDue s.now with
    | none => .next s
    | some t => if t ≤ s.now then .next (s.after 0 .cut [n, l.origin]) else .next (s.at t .cutPeriod [n])

/-! ## Uncorrectable errors and rollback (R275, R280, R291, R292) -/

/-- The entries of a launch's open interval leave the interval store buffers (R275, R291). -/
def discardStores (s : State) (n : Nat) : State :=
  let slices := fun (x : Nat × Slice) => (x.1, { x.2 with stores := x.2.stores.filter (·.launch != n) })
  { s with dies := s.dies.map fun (d : Nat × Die) => (d.1, { d.2 with slices := d.2.slices.map slices }) }

/-- An error leaves a launch FAULTED, with a POISON record of a detail (R292): it freezes, its freeze ends so, or it is held saved. -/
def faultLaunch (s : State) (n : Nat) (l : Launch) (c detail : Nat) : State :=
  let s := (s.record l.ctx { cause := 10, origin := 14, core := c, frz := true, queue := l.queue, detail := detail }).1
  if l.live? then s.freeze n c .faulted
  else if l.state = .freezing then (s.modLaunch n fun x => { x with after := .faulted }).refreshCtx l.ctx
  else if l.state = .rollingBack ∧ l.gstate ≠ .released then
    (s.modLaunch n fun x => { x with state := .freezing, after := .faulted, kind := 1 }).refreshCtx l.ctx
  else (s.modLaunch n fun x => { x with state := .faulted }).refreshCtx l.ctx

/-- A region rolls back, or its third rollback to one cut faults (R280, R291): a group that is held stops first; one that has been
released goes back to its queue, to be placed and restored from the committed half. -/
def strikeRegion (s : State) (n : Nat) (l : Launch) (c : Nat) : State :=
  if 2 ≤ l.rollbacks then faultLaunch s n l c l.live
  else if l.gstate ≠ .released then stopWave s n l c .rollingBack
  else
    let s := (discardStores s n).modLaunch n fun x => { x with state := .saved, kind := 2 }
    ((s.modQueue l.queue fun q => q.resumed).modLaunch n fun x => { x with state := .rollingBack }).refreshCtx l.ctx

/-- An error in a launch's own state (R280, R292): rollback with snapshots on, unless the launch is FAULTED already; else FAULTED with
POISON. -/
def strikeLaunch (s : State) (n : Nat) (l : Launch) (c : Nat) : State :=
  if l.state = .rollingBack then s
  else if l.snapOn s.now && l.counts != .faulted then strikeRegion s n l c
  else faultLaunch s n l c 0

/-- The leaves of the page table t of a level that map the frame of a physical address (R398). -/
def leavesOf (s : State) (pa : Nat) : Nat → Nat → Nat → List Nat
  | 0, _, _ => []
  | f + 1, lvl, t => (List.range 1024).flatMap fun i =>
    let e := s.phys64 (t + 8 * i)
    let z := 16 + 10 * (4 - lvl)
    if !bitAt e 63 then []
    else if !bitAt e 62 then leavesOf s pa f (lvl + 1) (fld e 51 13 * 2 ^ 13)
    else if fld e 51 13 * 2 ^ 13 / 2 ^ z = pa / 2 ^ z then [t + 8 * i] else []

/-- The page of a memory line becomes POISONED in every context that maps it, by compare-and-swap, and leaves every TLB (R292, R402). -/
def poisonPage (s : State) (pa : Nat) : State :=
  let leaves := (s.ctxs.filter fun x => x.2.state != .free).flatMap fun x => leavesOf s pa 4 1 x.2.root
  leaves.foldl (fun s at_ =>
    let e := dword (s.phys64 at_)
    (casLeaf s at_ e (withState e 6)).1) s

/-- UNCORRECTABLE_ERROR (R292): an error strikes a site: core state, an interval store entry, a committed half, a memory line. -/
def execUncorrectableError (s : State) : Res :=
  match s.cur with
  | .ev (.site (.coreState c)) =>
    (match s.launchOf c with
     | some (n, l) => .next (strikeLaunch s n l c)
     | none => .next s)
  | .ev (.site (.storeEntry d i)) =>
    (match (s.slice d i).stores with
     | e :: _ =>
       (match AMap.find? s.launches e.launch with
        | some l => .next (strikeLaunch s e.launch l l.origin)
        | none => .next s)
     | [] => .next s)
  | .ev (.site (.committedHalf n)) =>
    (match AMap.find? s.launches n with
     | some l => .next (faultLaunch s n l l.origin l.live)
     | none => .next s)
  | .ev (.site (.memLine pa)) =>
    let a := pa / 128 * 128
    let new := [a, a + 32, a + 64, a + 96].filter fun x => !s.poison.contains x
    .next (poisonPage { s with poison := s.poison ++ new } pa)
  | _ => .next s

/-- ROLLBACK (R275, R291): region [n] discards the entries of its open interval and is restored from half LIVE mod 2; it runs again
from cut LIVE. -/
def execRollback (s : State) : Res :=
  let n := s.arg 0
  match AMap.find? s.launches n with
  | none => .next s
  | some l =>
    if l.state ≠ .rollingBack then .next s else
    match s.imageOf l with
    | none => .next s
    | some im =>
      let s := discardStores s n
      match restoreBad s { l with kind := 2 } (l.live % 2) l.cut.seed with
      | some va =>
        let s := (s.record l.ctx { cause := 10, origin := 14, core := l.origin, frz := true, queue := l.queue, detail := l.live, addr := va }).1
        .next ((s.modLaunch n fun x => { x with state := .freezing, after := .faulted, toStop := x.cores }).refreshCtx l.ctx)
      | none =>
        let (wdog, snap) := groupRegs s l (l.live % 2)
        let s := if l.ways = l.cut.ways then s else applyWays s n l l.cut.ways
        let s := restoreArea s n { l with kind := 2, ways := l.cut.ways } im (l.live % 2) l.cut
        .next (startRun (s.modLaunch n fun x => { x with kind := 2, wdog := [(0, wdog)], snapcfg := [(0, snap)] }) n)

/-! ## The quiescence tree (R285, R388) -/

/-- The flits of this package's messages that have not reached the package they go to: queued, on a link or held for a replay (R464). -/
def State.sending (s : State) : List Flit := (s.outbox ++ s.ports.flatMap fun p => p.2.replay).filter fun f => f.spkg == s.topo.pkg.toNat

/-- Whether a core holds nothing of its launch (R388): a pass of its stream engine that is under way counts unless gating has stopped it (R285), queued
row headers count (DEDUCED, log 20). -/
def coreEmpty (s : State) (c : Nat) : Bool :=
  let k := s.core c
  let r := k.rows
  k.wc.isEmpty && k.bufs.all (·.2.isEmpty) && k.matchSt.all (·.2.isEmpty) && k.flights.isEmpty && k.snips.isEmpty && k.waits.isEmpty
    && k.mx.xq0.isEmpty && k.mx.xq1.isEmpty && k.mx.fq.isEmpty && k.mx.flights.isEmpty && k.mx.sel.isNone
    && k.seq.busy.isEmpty && k.seq.wait != .answer && !(s.accs.any fun p => p.2.core == c) && !(s.ops.any fun p => p.2.core == c)
    && r.disp.isEmpty && r.resend.isEmpty && r.retry.isEmpty && r.accepted.isEmpty && r.bins.all (fun b => b.2.groups.isEmpty && b.2.state != .firing)
    && (match r.cmb with | some x => x.writing.isNone | none => true)
    && !(s.msgs.any fun m => m.2.src == c) && !(s.sending.any fun f => f.src == c)
    && r.hdrs.isEmpty && (k.gated || !(k.chans.any fun p => p.2.state == .active))

/-- Whether a core has sent, accepted or issued anything since a cycle (R388). -/
def activeSince (k : Core) (t : Nat) : Bool :=
  k.issued.any (fun p => decide (t < p.2)) || decide (t ≤ k.lastOut ∧ 0 < k.lastOut) || decide (t ≤ k.mx.lastIssue ∧ 0 < k.mx.lastIssue)
    || (decide (t < k.seq.next) && decide (k.seq.next < 2 ^ 61)) || (k.strm.running && decide (t < k.strm.next))

/-- QUIESCENCE_SWEEP (R285, R388, R393): the tree sweeps the group of launch [n]; a gated group that is quiescent is saved, and
sequencers that wait for quiescence go on. -/
def execQuiescenceSweep (s : State) : Res :=
  let n := s.arg 0
  match AMap.find? s.launches n with
  | none => .next s
  | some l =>
    if l.gstate = .released ∨ l.gstate = .reserved then .next s else
    let quiet := l.cores.all fun c => coreEmpty s c && !activeSince (s.core c) (s.now - l.sweepTime)
    let s := (s.modLaunch n fun x => { x with sweeps := l.sweeps + 1, lastQuiet := quiet }).after l.sweepTime .quiescenceSweep [n]
    let v := dword (1 + (l.sweeps + 1) % 2 ^ 32 * 2 ^ 32)
    let wake := fun (s : State) (c : Nat) =>
      match (s.core c).seq.wait with
      | .until t d => if t = 2 ^ 64 then seqResult s c d v 2 4 2 else s
      | _ => s
    let s := if quiet then l.cores.foldl wake s else s
    if quiet ∧ l.state = .gating then
      .next ((s.modLaunch n fun x => { x with state := .saving, gstate := .quiescent, kind := 0 }).after (saveTime 0 l.ways) .saveComplete [n])
    else .next s

/-! ## The watchdog (R296, R297) -/

/-- The opcode at a byte offset of a program. -/
def opAt (prog : List Word) (pc : Nat) : Nat := (prog.getD (pc / 4) 0).toNat / 2 ^ 24

/-- The lowest kind of wait that a core holds and R296 counts (R297). -/
def countedWait (s : State) (c : Nat) : Option Nat :=
  let k := s.core c
  let cands := candidates k s.now 0 ++ candidates k s.now 1
  let cb := fun (op : Nat) => (decide (0x85 ≤ op) && decide (op ≤ 0x88)) || op == 0x185
  let strmOp := opAt k.sprog k.strm.pc
  let seqOp := opAt k.prog k.seq.pc
  if k.matchSt.any (fun p => p.2.any fun e => e.a.isNone != e.b.isNone) then some 1
  else if k.bufs.any (fun p => decide (p.1 < 4096) && decide (4 ≤ p.2.length)) then some 2
  else if k.waits.any (fun w => cb w.op) || (k.strm.running && (strmOp == 0xC8 || strmOp == 0xC9)) then some 3
  else if cands.any fun t => !fillsMet s c t then some 4
  else if cands.any fun t => t.mcst && readyAlone s c t && !readyTok s c t then some 5
  else if s.accs.any fun p => p.2.core == c && p.2.stage == .ordering then some 6
  else if k.seq.running && !k.seq.halted && (seqOp == 0x21 || seqOp == 0x56) then some 7
  else none

/-- Whether something of a core proceeds in this cycle (R296): a firing, a k-step, stream or sequencer work. -/
def proceeds (s : State) (c : Nat) : Bool :=
  let k := s.core c
  k.issued.any (fun p => p.2 == s.now + 1) || (k.mx.lastIssue == s.now && !k.mx.flights.isEmpty)
    || (k.seq.running && !k.seq.halted && decide (s.now < k.seq.next) && decide (k.seq.next < 2 ^ 61)) || (k.strm.running && decide (s.now < k.strm.next))

/-- Whether a group has an access, an answer or a message outstanding (R296); a DET access that its domain holds waits (R270), and so does an error
token in a guard queue (R367, R368). -/
def groupBusy (s : State) (l : Launch) : Bool :=
  s.accs.any (fun p => l.cores.contains p.2.core && p.2.stage != .ordering) || s.msgs.any (fun m => l.cores.contains m.2.src)
    || s.ops.any (fun o => l.cores.contains o.2.core && !l.guardQ.contains o.1) || s.sending.any fun f => l.cores.contains f.src

/-- The watchdog's limit (R299): 1 to 1,023 act as 1,024. -/
def Launch.limit (l : Launch) (now : Nat) : Nat :=
  let v := (timed now 0 l.wdog).toNat % 2 ^ 32
  if v = 0 then 0 else max v 1024

/-- The part of a cycle's end in which the watchdog counts a group's stalled cycles (R296, R297). -/
def serveWatch (s : State) (n : Nat) : State :=
  match AMap.find? s.launches n with
  | none => s
  | some l =>
    let lim := l.limit s.now
    if (l.state ≠ .running ∧ l.state ≠ .gating) ∨ lim = 0 then s
    else if l.cores.any (proceeds s) || groupBusy s l || !(l.cores.any fun c => (countedWait s c).isSome) then
      if l.stalled = 0 then s else s.modLaunch n fun x => { x with stalled := 0 }
    else
      let s := s.modLaunch n fun x => { x with stalled := l.stalled + 1 }
      if lim ≤ l.stalled + 1 then s.after 0 .watchdogExpiry [n] else s

/-- WATCHDOG_EXPIRY (R285, R297): launch [n] has stalled for its limit: it freezes with STALL; a gating becomes a freeze save and
raises nothing. -/
def execWatchdogExpiry (s : State) : Res :=
  let n := s.arg 0
  match AMap.find? s.launches n with
  | none => .next s
  | some l =>
    let s := s.modLaunch n fun x => { x with stalled := 0 }
    match l.state with
    | .gating => .next ((stopWave s n l l.origin .freezing).modLaunch n fun x => { x with after := .saved, kind := 1 })
    | .running =>
      let c := (l.cores.find? fun c => (countedWait s c).isSome).getD l.origin
      .next (s.raise { cause := 11, origin := 13, core := c, detail := (countedWait s c).getD 0 })
    | _ => .next s

end Sys2Proof.Machine
end

