-- ==== Sys2Proof/Machine/Unit.lean ====
section
/-! DEFINITION. Die priority queues, deques and writes to register blocks (R308, R322, R323, R326, R327, R329, R457). -/

namespace Sys2Proof.Machine

/-! ## Operations on their way to a unit -/

/-- An operation that a core's sequencer sends. -/
def seqOp (s : State) (c op target : Nat) (val : DWord) (reg half : Nat) (victims : List Nat) : UnitOp where
  core := c
  launch := ((s.core c).launch).getD 0
  op := op
  target := target
  val := val
  reg := reg
  half := half
  tok := none
  node := none
  outs := []
  queue := none
  victims := victims

/-- The context that an operation at a barrier or a counter was sent for, which stands where a steal has its victims. -/
def UnitOp.ctx (o : UnitOp) : Nat := o.victims.headD 0

/-- Operation id is on its way until cycle o.half, in which event i happens. -/
def goOn (s : State) (id : Nat) (o : UnitOp) (i : Instr) : State := { s with ops := AMap.put s.ops id o }.at o.half i [id]

/-- Sends an operation to its unit, where it arrives in cycle o.half as event i. -/
def sendOp (s : State) (o : UnitOp) (i : Instr) : State :=
  let (id, s) := s.fresh
  goOn s id o i

/-- The answer of an acquire of the sequencer is on its way until cycle t, in which operation id is over (R326). -/
def answerOn (s : State) (id : Nat) (o : UnitOp) (t : Nat) (i : Instr) : State :=
  goOn s id { o with op := 0x13A, half := t } i

/-- The sequencer waits for a unit's answer, at its instruction. -/
def awaitAnswer (s : State) (c : Nat) : State := s.modSeq c fun q => { q with wait := .answer, next := far }

/-- A unit's answer to the sequencer that sent o: written to its register in cycle t, in which the next instruction may issue. -/
def seqReply (s : State) (o : UnitOp) (v : DWord) (t : Nat) : State :=
  if (s.core o.core).launch = some o.launch ∧ (s.core o.core).seq.wait = .answer then
    (s.modCore o.core fun k => k.setG o.reg v t).modSeq o.core fun q => { q with pc := q.pc + 4, next := t, wait := .none }
  else s

/-- A fault of an operation when it takes effect: the instruction that waits faults (R344). -/
def seqOpFault (s : State) (o : UnitOp) (cause : Nat) : State :=
  if (s.core o.core).launch = some o.launch ∧ (s.core o.core).seq.wait = .answer then
    (seqFault s o.core cause).modSeq o.core fun q => { q with next := s.now }
  else s

/-! ## Priority queues (R322) -/

/-- Whether item a is smaller than item b: by key, then value, both unsigned. -/
def itemLt (a b : DWord) : Bool := a.ult b

/-- The front slots that hold no item, ascending. -/
def Pq.free (p : Pq) : List Nat := (List.range 64).filter fun i => (AMap.find? p.front i).isNone

/-- The smallest of a list of items. -/
def leastItem (l : List DWord) : Option DWord := leastBy itemLt l

/-- The front slot that holds the largest item, the highest on ties. -/
def Pq.largest (p : Pq) : Option (Nat × DWord) :=
  p.front.foldl (fun (r : Option (Nat × DWord)) x => match r with
    | none => some x
    | some y => if itemLt x.2 y.2 then some y else some x) none

/-- A push (R322, R326): the queue after it, and whether the item was pushed. -/
def Pq.push (p : Pq) (x : DWord) : Pq × Bool :=
  let back : Pq := { p with back := p.back ++ [x] }
  if 2 ^ 20 ≤ p.back.length then (p, false)
  else if p.back.any fun y => itemLt y x then (back, true)
  else match p.free[p.transit.length]? with
    | some i => ({ p with front := AMap.put p.front i x }, true)
    | none => match p.largest with
      | some (i, y) => if itemLt x y then ({ p with front := AMap.put p.front i x, back := p.back ++ [y] }, true) else (back, true)
      | none => (back, true)

/-- The smallest item of the first non-empty lane from lane n on (R322). -/
def Pq.laneLeast (p : Pq) (n : Nat) : Option (Nat × DWord) :=
  (List.range 4).findSome? fun i =>
    leastBy (fun (a b : Nat × DWord) => itemLt a.2 b.2) (p.front.filter fun x => x.1 / 16 == (n + i) % 4)

/-- A pop (R322): the item, the queue after it, and where it came from: 0 the front, a landing cycle of a refill in transit, 1 the
backing store. -/
def Pq.pop (p : Pq) (n : Nat) : DWord × Pq × Nat :=
  match p.laneLeast n with
  | some (i, x) => (x, { p with front := AMap.del p.front i }, 0)
  | none => match leastBy (fun (a b : Nat × DWord) => itemLt a.2 b.2) p.transit with
    | some t => (t.2, { p with transit := p.transit.erase t }, t.1)
    | none => match leastItem p.back with
      | some x => (x, { p with back := p.back.erase x }, 1)
      | none => (BitVec.allOnes 64, p, 0)

/-- A refill starts as soon as the front has a slot that none awaits and one may start (R322). -/
def pqRefill (s : State) (n : Nat) : State :=
  let p := s.pq n
  if p.transit.length < p.free.length ∧ !p.back.isEmpty then s.at (max s.now p.nextStart) .pqRefillStart [n] else s

/-- PQ_REFILL_START (R322): the smallest backing item of queue [n] leaves the backing store; the next refill starts 4 cycles later. -/
def execPqRefillStart (s : State) : Res :=
  let n := s.arg 0
  let p := s.pq n
  if s.now < p.nextStart ∨ p.free.length ≤ p.transit.length then .next s else
  match leastItem p.back with
  | none => .next s
  | some x =>
    let s := s.modPq n fun p => { p with back := p.back.erase x, transit := p.transit ++ [(s.now + 210, x)], nextStart := s.now + 4 }
    .next (pqRefill (s.after 210 .pqRefillLand [n]) n)

/-- PQ_REFILL_LAND (R322): the refill of queue [n] that is due takes the lowest free slot. -/
def execPqRefillLand (s : State) : Res :=
  let n := s.arg 0
  let p := s.pq n
  match p.transit.find? fun t => decide (t.1 ≤ s.now), p.free with
  | some t, i :: _ => .next (s.modPq n fun p => { p with front := AMap.put p.front i t.2, transit := p.transit.erase t })
  | _, _ => .next s

/-- The operations of a kind that have arrived at a unit, first come first; those of one cycle by core (R322). -/
def arrivedOps (s : State) (ops : List Nat) (target : Nat) : AMap UnitOp :=
  s.ops.filter fun p => ops.contains p.2.op && p.2.target == target && decide (p.2.half ≤ s.now)

/-- PQ_ARRIVAL (R322, R326, R329): operation [id] has arrived at its priority queue, which serves one a cycle. -/
def execPqArrival (s : State) : Res :=
  let id := s.arg 0
  match AMap.find? s.ops id with
  | none => .next s
  | some o =>
    let n := o.target
    if o.op = 0x13A then .next { s with ops := AMap.del s.ops id } else
    let first := leastBy (fun (a b : Nat × UnitOp) => decide (a.2.half < b.2.half) || (a.2.half == b.2.half && decide (a.2.core < b.2.core)))
      (arrivedOps s [0x39, 0x3A] n)
    if (s.pq n).served = s.now + 1 ∨ first.map (·.1) ≠ some id then .next (s.after 1 .pqArrival [id]) else
    let rest := 64 + 24 * crossings (dieOf o.core) (n / 64)
    let rest := rest - rest / 2
    let s := { s with ops := AMap.del s.ops id }
    if o.op = 0x39 then
      let (p, ok) := (s.pq n).push o.val
      .next (pqRefill (seqReply (s.modPq n fun _ => { p with served := s.now + 1 }) o (if ok then 1 else 0) (s.now + rest)) n)
    else
      let (x, p, src) := (s.pq n).pop (o.core % 4)
      let t := if src = 0 then s.now + rest else if src = 1 then s.now + rest + 210 else max s.now src + rest
      .next (pqRefill (answerOn (acquireFar (seqReply (s.modPq n fun _ => { p with served := s.now + 1 }) o x t) o.core) id o t .pqArrival) n)

/-- Whether a register names an enabled priority queue of the core's context (R326). -/
def pqNamed (s : State) (c : Nat) (g : DWord) : Bool :=
  decide (g.toNat < 256) && (s.pq g.toNat).en && (s.pq g.toNat).ctx == s.ctxOf c

/-- PQPUSH (R326): waits for every earlier access of its core, then sends its item. -/
def execPqpush (f : CF) (s : State) : Res :=
  withSeq s [f.a.toNat, f.b.toNat, f.d.toNat] fun c k =>
    let g := greg k f.a.toNat
    let x := greg k f.b.toNat
    if !pqNamed s c g ∨ x = BitVec.allOnes 64 then seqFault s c 1 else
    match seqRelease s c (pathsOf 127) 4 with
    | some t => t
    | none =>
    let lat := 64 + 24 * crossings (dieOf c) (g.toNat / 64)
    sendOp (awaitAnswer s c) (seqOp s c 0x39 g.toNat x f.d.toNat (s.now + lat / 2) []) .pqArrival

/-- PQPOP (R326). -/
def execPqpop (f : CF) (s : State) : Res :=
  withSeq s [f.a.toNat, f.d.toNat] fun c k =>
    let g := greg k f.a.toNat
    if !pqNamed s c g then seqFault s c 1 else
    let lat := 64 + 24 * crossings (dieOf c) (g.toNat / 64)
    sendOp (awaitAnswer s c) (seqOp s c 0x3A g.toNat 0 f.d.toNat (s.now + lat / 2) []) .pqArrival

/-! ## Deques (R323, R327) -/

/-- TOP and BOTTOM of a core's deque (R323). -/
def deque (s : State) (c : Nat) : Nat × Nat := (ofBytes (s.scratch c 0x1FDFF0 4), ofBytes (s.scratch c 0x1FDFF4 4))

/-- Items a deque holds. -/
def dequeLen (s : State) (c : Nat) : Nat := ((deque s c).2 + 2 ^ 32 - (deque s c).1) % 2 ^ 32

/-- Where item i of a deque lies in its core's scratch. -/
def itemOff (i : Nat) : Nat := 0x1FE000 + 8 * (i % 1024)

/-- The victims of a thief in steal order (R323). -/
def stealOrder (l : Launch) (c : Nat) : List Nat :=
  let own := ((List.range 15).map fun i => clusCore c ((clusIdx c + 1 + i) % 16)).filter l.has
  let others := (List.range 64).flatMap fun cl =>
    if cl = clusterOf c then [] else (List.range 16).filterMap fun i => (l.cores.find? fun v => clusterOf v == cl && clusIdx v == i)
  own ++ others

/-- Cycles of a probe (R329). -/
def probeTime (c v : Nat) : Nat := if clusterOf c = clusterOf v then 30 else 60

/-- A DQSTEAL goes on to its next victim, or answers all ones when none is left (R327). -/
def nextProbe (s : State) (id : Nat) (o : UnitOp) : State :=
  match o.victims with
  | [] => seqReply s o (BitVec.allOnes 64) s.now
  | v :: r => goOn s id { o with target := v, half := s.now + probeTime o.core v / 2, victims := r } .dequeArrival

/-- The effect of an operation on the deque it has reached (R327). -/
def serveDeque (s : State) (id : Nat) (o : UnitOp) : State :=
  let answer := fun (s : State) (v : DWord) (t : Nat) => answerOn (seqReply s o v t) id o t .dequeArrival
  let v := o.target
  let (top, bottom) := deque s v
  let n := dequeLen s v
  if 1024 < n then seqOpFault s o 6
  else if o.op = 0x3B then
    if n = 1024 then seqReply s o 0 (s.now + 4)
    else
      let s := s.putScratch v (itemOff bottom) (toBytes 8 o.val.toNat)
      seqReply (s.putScratch v 0x1FDFF4 (toBytes 4 ((bottom + 1) % 2 ^ 32))) o 1 (s.now + 4)
  else if o.op = 0x3C then
    if n = 0 then seqReply s o (BitVec.allOnes 64) (s.now + 4)
    else
      let b := (bottom + 2 ^ 32 - 1) % 2 ^ 32
      let x := dword (ofBytes (s.scratch v (itemOff b) 8))
      seqReply (s.putScratch v 0x1FDFF4 (toBytes 4 b)) o x (s.now + 4)
  else
    let rest := probeTime o.core v - probeTime o.core v / 2
    if n = 0 then
      (if o.victims.isEmpty then answer s (BitVec.allOnes 64) (s.now + rest)
       else goOn s id { o with half := s.now + rest, op := 0x13D } .dequeArrival)
    else
      let x := dword (ofBytes (s.scratch v (itemOff top) 8))
      answer (s.putScratch v 0x1FDFF0 (toBytes 4 ((top + 1) % 2 ^ 32))) x (s.now + rest)

/-- DEQUE_ARRIVAL (R323, R327): operation [id] has reached its deque, which serves one a cycle, the owner's first, then steals by
thief; a probe that has come back empty goes on to the next victim. -/
def execDequeArrival (s : State) : Res :=
  let id := s.arg 0
  match AMap.find? s.ops id with
  | none => .next s
  | some o =>
    let s1 := { s with ops := AMap.del s.ops id }
    if o.op = 0x13A then .next s1 else
    if o.op = 0x13D then .next (nextProbe s1 id { o with op := 0x3D }) else
    let first := leastBy (fun (a b : Nat × UnitOp) =>
        let key := fun (x : UnitOp) => if x.op = 0x3D then 1 + x.core else 0
        decide (key a.2 < key b.2)) (arrivedOps s [0x3B, 0x3C, 0x3D] o.target)
    if (s.core o.target).dqServed = s.now + 1 ∨ first.map (·.1) ≠ some id then .next (s.after 1 .dequeArrival [id])
    else .next (serveDeque (s1.modCore o.target fun k => { k with dqServed := s.now + 1 }) id o)

/-- Whether a core's launch uses the deques (R311, R327). -/
def hasDeques (s : State) (c : Nat) : Bool :=
  match s.launchOf c with
  | some (_, l) => recFld l.recd 0 7 7 == 1
  | none => false

/-- DQPUSH (R327): a release at .grp. -/
def execDqpush (f : CF) (s : State) : Res :=
  withSeq s [f.a.toNat, f.d.toNat] fun c k =>
    let x := greg k f.a.toNat
    if !hasDeques s c ∨ x = BitVec.allOnes 64 then seqFault s c 1 else
    match seqRelease s c (pathsOf 127) 2 with
    | some t => t
    | none => sendOp (awaitAnswer s c) (seqOp s c 0x3B c x f.d.toNat (s.now + 4) []) .dequeArrival

/-- DQPOP (R327). -/
def execDqpop (f : CF) (s : State) : Res :=
  withSeq s [f.d.toNat] fun c _ =>
    if !hasDeques s c then seqFault s c 1
    else sendOp (awaitAnswer s c) (seqOp s c 0x3C c 0 f.d.toNat (s.now + 4) []) .dequeArrival

/-- DQSTEAL (R327): probes its victims one after another, at most imm9 of them; without a victim it answers in the next cycle. -/
def execDqsteal (f : CF) (s : State) : Res :=
  withSeq s [f.d.toNat] fun c _ =>
    match s.launchOf c with
    | none => s
    | some (_, l) =>
      if !hasDeques s c then seqFault s c 1 else
      let vs := stealOrder l c
      let vs := if f.imm = 0 then vs else vs.take f.imm.toNat
      if vs.isEmpty then seqResult s c f.d.toNat (BitVec.allOnes 64) 1 4 1
      else
        let (id, s) := s.fresh
        nextProbe (awaitAnswer s c) id (seqOp s c 0x3D c 0 f.d.toNat s.now vs)

/-! ## Register blocks (R308, R457) -/

/-- REGISTER_WRITE (R308, R457): a write by a master to a register block; one that its access table denies performs nothing. -/
def execRegisterWrite (s : State) : Res :=
  match s.cur with
  | .ev (.reg master pa v) =>
    if !accessOk s master.toNat pa true then .next s else
    match regAt pa with
    | none => .next s
    | some r => .next (regWrite s r v)
  | _ => .next s

end Sys2Proof.Machine
end

