-- ==== Sys2Proof/Machine/Barrier.lean ====
section
/-! DEFINITION. Barrier entries, trips, work counters and QUIES (R378-R396). -/

namespace Sys2Proof.Machine

/-! ## Entries (R378) -/

/-- An entry after die reset. -/
def Bar.reset : Bar := ⟨.idle, 0, 0, 0, 0, 0, 0, 0, 0, [], [], [], 0⟩

/-- The entry that a barrier word names. -/
def State.bar (s : State) (key : Nat) : Bar := AMap.get s.bars key Bar.reset

/-- The state with an entry changed by f. -/
def State.modBar (s : State) (key : Nat) (f : Bar → Bar) : State := { s with bars := AMap.put s.bars key (f (s.bar key)) }

/-- Cycles of a barrier signal between core c and the root of die d (R378, R384). -/
def barTime (c d : Nat) : Nat := 2 + 2 * (rowOf c + colOf c) + 12 * crossings (dieOf c) d

/-- Whether an entry releases a wait on generation g (R391). -/
def Bar.releases (b : Bar) (g : BitVec 16) : Bool :=
  let n := (b.gen - g).toNat
  (decide (1 ≤ n) && decide (n ≤ 32767)) || b.state == .broken || b.state == .idle

/-- Bit 63 of a status or answer. -/
def Bar.down (b : Bar) : Bool := b.state == .broken || b.state == .idle

/-- A status: GEN, and bit 63 when the entry is BROKEN or IDLE (R391). -/
def barStatus (g : BitVec 16) (down : Bool) : DWord := dword (g.toNat + b2n down * 2 ^ 63)

/-! ## Releases and trips (R380, R383, R384) -/

/-- The release of a core that waits on generation g leaves the entry: it reaches the core after the signal's time. -/
def releaseTo (s : State) (key c : Nat) (g : BitVec 16) (at_ : Nat) (b : Bar) : State :=
  let s := s.modSeq c fun q => { q with wait := .answer }
  s.at (max s.now (at_ + barTime c (key / 4096))) .barrierTrip [c, key, b.gen.toNat, b2n b.down, g.toNat]

/-- The waiters of an entry that its state releases go (R382). -/
def wakeWaiters (s : State) (key : Nat) : State :=
  let b := s.bar key
  let go := b.waiters.filter fun w => b.releases w.2
  let s := s.modBar key fun b => { b with waiters := b.waiters.filter fun w => !b.releases w.2 }
  go.foldl (fun s w => releaseTo s key w.1 w.2 s.now b) s

/-- Whether a queue's head is a barrier record that has gone to an entry and waits for its trip (R312), with EN set or not (R314). -/
def Queue.waitsAt (k : Queue) (key : Nat) : Bool :=
  let r := k.recs.getD 0 []
  (k.state == .armed || k.state == .suspended) && k.saved && k.ending.isNone && recKind r == 3 && recFld r 3 13 0 == key

/-- The barrier records that an entry holds complete (R312, R383); one that CANCEL or DONE has ended meanwhile has left its queue. -/
def endRecords (s : State) (key : Nat) (can : Bool) : State :=
  let qs := (s.bar key).queue.eraseDups
  let s := s.modBar key fun b => { b with queue := [] }
  qs.foldl (fun s q => if (s.queue q).waitsAt key then endTo s q ((s.queue q).head.toNat + 1) can false else s) s

/-- An entry becomes BROKEN or IDLE (R380): its waiters are released with the broken status. -/
def dropBar (s : State) (key : Nat) (st : BarState) : State :=
  let s := s.modBar key fun b => { b with state := st, count := 0, arrives := [], tripAt := s.now }
  endRecords (wakeWaiters s key) key true

/-- An entry trips (R380). -/
def tripBar (s : State) (key : Nat) : State :=
  endRecords (s.modBar key fun b => { b with state := .tripped, gen := b.gen + 1, count := 0, arrives := [], tripAt := s.now }) key false

/-- The members of an entry's gang (R379, R381). -/
def barMembers (s : State) (b : Bar) : List Nat := members (gangDesc s b.gang)

/-- A member's COUNT has reached EXPECT at a system barrier (R381): ARRIVE goes to the coordinator. -/
def sendArrive (s : State) (key : Nat) : State :=
  let b := s.bar key
  let co := (barMembers s b).headD s.topo.pkg.toNat
  if co = s.topo.pkg.toNat then s.after 0 .arrive [co, key, b.gang, b.gen.toNat]
  else sendLink s co (1024 + key / 4096) 0 0 0 [6, s.topo.pkg.toNat, key, b.gang, b.gen.toNat] []

/-- An arrival of n at an entry (R380); answers whether it was counted. -/
def arriveAt (s : State) (key n : Nat) : State × Bool :=
  let b := s.bar key
  if b.state = .idle ∨ b.state = .broken then (s, false)
  else if b.expect < b.count + n then (dropBar s key .broken, false)
  else
    let s := if b.count = 0 then
        let s := s.modBar key fun b => { b with t0 := s.now }
        if b.tmo = 0 then s else s.after (b.tmo * 65536) .barrierTimeout [key, s.now]
      else s
    let s := s.modBar key fun b => { b with state := .counting, count := b.count + n }
    if b.count + n < b.expect then (s, true)
    else if b.scope = 2 then (sendArrive s key, true)
    else (tripBar s key, true)

/-! ## Operations at an entry (R382) -/

/-- A BARINI takes effect (R380, R391); its result reaches the core 2 cycles later (R384). ARRIVEs of the current GEN and of the same GANG
that the entry holds already stay with it (R381). -/
def doBarini (s : State) (o : UnitOp) : State :=
  let key := o.target
  let b := s.bar key
  let v := o.val.toNat
  let ctx := o.ctx
  let reply := fun (s : State) => seqReply s o (dword b.gen.toNat) (s.now + 2)
  if b.state ≠ .idle ∧ b.owner ≠ ctx then seqOpFault s o 1
  else match fld v 51 50 with
    | 0 =>
      if b.state = .counting ∧ (0 < b.count ∨ !b.waiters.isEmpty) then seqOpFault s o 1
      else reply (s.modBar key fun b => { b with state := .counting, owner := ctx, scope := fld v 49 48, expect := fld v 23 0, count := 0, tmo := fld v 31 24, gang := fld v 47 32, arrives := if b.gang = fld v 47 32 then b.arrives else [] })
    | 1 => reply (if b.state = .idle then s else dropBar s key .broken)
    | _ => reply (if b.state = .idle then s else dropBar s key .idle)

/-- A core's arrival takes effect (R380, R391): a BARARV's answer leaves for its core and counts as outstanding until it is there (R388), a
BARAW goes on as a wait on the generation returned, its answer on its way too, unless its core has been stopped or gated (R394). -/
def doArrival (s : State) (o : UnitOp) : State :=
  let key := o.target
  let g := (s.bar key).gen
  let (s, _) := arriveAt s key o.val.toNat
  if (s.core o.core).launch ≠ some o.launch then s
  else if o.op = 0x31 then
    let t := s.now + barTime o.core (key / 4096)
    sendOp s { o with op := 0x131, val := barStatus g (s.bar key).down, half := t } .barrierArrival
  else
    let s := sendOp s { o with op := 0x133, half := s.now + barTime o.core (key / 4096) } .barrierArrival
    let s := s.modSeq o.core fun q => { q with wait := .arrived (some g) }
    if (s.core o.core).stopped ∨ (s.core o.core).gated then s
    else s.modBar key fun b => { b with waiters := b.waiters ++ [(o.core, g)] }

/-- The scheduler's arrival for queue q (R383), counted also where CANCEL or DONE has ended its record meanwhile; an entry of die scope admits none, the record's queue enters ERROR as at another context's
entry (R379; DEDUCED, log 31). -/
def doSchedArrival (s : State) (o : UnitOp) (q : Nat) : State :=
  let key := o.target
  let b := s.bar key
  let k := s.queue q
  let live := k.waitsAt key && o.victims == [k.head.toNat]
  if b.state ≠ .idle ∧ (b.owner ≠ k.ctx ∨ b.scope = 0) then (if live then queueError s q 1 (k.ringAddr k.head.toNat) 0 else s)
  else if b.down then (if live then endTo s q (k.head.toNat + 1) true false else s)
  else (arriveAt (if live then s.modBar key fun b => { b with queue := b.queue ++ [q] } else s) key 1).1

/-- The order of operations at an entry in one cycle (R382). -/
def barRank (o : UnitOp) : Nat := (if o.op = 0x30 then 0 else if o.queue.isNone then 1 else 2) * 2048 + o.core

/-- Operations in the order of a key. -/
def insertOp (key : UnitOp → Nat) (x : Nat × UnitOp) : List (Nat × UnitOp) → List (Nat × UnitOp)
  | [] => [x]
  | y :: r => if key x.2 ≤ key y.2 then x :: y :: r else y :: insertOp key x r

/-- Every operation that reaches an entry in this cycle takes effect, then the waits are evaluated (R382). -/
def serveBar (s : State) (key : Nat) : State :=
  let due := s.ops.filter fun p => [1, 0x30, 0x31, 0x33].contains p.2.op && p.2.target == key && decide (p.2.half ≤ s.now)
  let s := { s with ops := s.ops.filter fun p => !(due.any fun d => d.1 == p.1) }
  let one := fun (s : State) (p : Nat × UnitOp) =>
    match p.2.queue with
    | some q => doSchedArrival s p.2 q
    | none => if p.2.op = 0x30 then doBarini s p.2 else doArrival s p.2
  wakeWaiters ((due.foldr (insertOp barRank) []).foldl one s) key

/-- The answer to a BARARV reaches its core: g_d is written (R391). -/
def barAnswer (s : State) (o : UnitOp) : State :=
  if (s.core o.core).launch ≠ some o.launch then s else
  s.modCore o.core fun k =>
    let k := k.setG o.reg o.val s.now
    { k with seq := { k.seq with busy := k.seq.busy.filter (· != o.reg) } }

/-- BARRIER_ARRIVAL (R380, R382): operation [id] reaches its entry, with every other that does in this cycle; or an entry's answer reaches
its core. -/
def execBarrierArrival (s : State) : Res :=
  match AMap.find? s.ops (s.arg 0) with
  | none => .next s
  | some o =>
    let gone := { s with ops := AMap.del s.ops (s.arg 0) }
    .next (if o.op = 0x131 then barAnswer gone o else if o.op = 0x133 then gone else serveBar s o.target)

/-- BARRIER_TIMEOUT (R380): the timeout of entry [key]'s generation that began in cycle [t0]; it is checked after what else reaches
the entry in this cycle. -/
def execBarrierTimeout (s : State) : Res :=
  let key := s.arg 0
  let b := s.bar key
  if s.args.length = 2 then .next (s.after 0 .barrierTimeout [key, s.arg 1, 1])
  else if b.state = .counting ∧ b.t0 = s.arg 1 ∧ b.tmo ≠ 0 ∧ 0 < b.count then .next (dropBar s key .broken)
  else .next s

/-- ARRIVE (R381): the ARRIVE of package [pkg, word, gang, gen] reaches the coordinator, whose own arrivals may be still to come; it
sends TRIP once it holds one of the current GEN from every member. -/
def execArrive (s : State) : Res :=
  let key := s.arg 1
  let b := s.bar key
  if b.scope ≠ 2 ∨ (b.state ≠ .counting ∧ b.state ≠ .tripped) ∨ b.gang ≠ s.arg 2 ∨ b.gen.toNat ≠ s.arg 3 then .next s else
  let got := if b.arrives.contains (s.arg 0) then b.arrives else b.arrives ++ [s.arg 0]
  let s := s.modBar key fun b => { b with arrives := got }
  let ms := barMembers s b
  if ms.all got.contains then
    let s := s.modBar key fun b => { b with arrives := [] }
    let s := (ms.filter (· != s.topo.pkg.toNat)).foldl (fun s m => sendLink s m (1024 + key / 4096) 0 0 0 [7, key, b.gang, b.gen.toNat] []) s
    .next (s.after 0 .trip [key, b.gang, b.gen.toNat])
  else .next s

/-- TRIP (R381, R382): a TRIP [word, gang, gen] reaches this package's entry, after the arrivals of the cycle. -/
def execTrip (s : State) : Res :=
  let key := s.arg 0
  let s := serveBar s key
  let b := s.bar key
  if b.scope = 2 ∧ b.state = .counting ∧ b.count = b.expect ∧ b.gang = s.arg 1 ∧ b.gen.toNat = s.arg 2 then
    .next (wakeWaiters (tripBar s key) key)
  else .next s

/-- BARRIER_TRIP (R384, R391): the release [core, key, gen, down] reaches a waiting core: its instruction completes in the next cycle,
after the SEQ accesses its acquire waits for. -/
def execBarrierTrip (s : State) : Res :=
  let c := s.arg 0
  let k := s.core c
  if k.launch.isNone ∨ k.seq.wait ≠ .answer then .next s
  else if !(outstanding s c [.seq] ((s.bar (s.arg 1)).scope + 3)).isEmpty then .next (s.after 1 .barrierTrip s.args)
  else
    let d := (k.prog.getD (k.seq.pc / 4) 0).toNat / 2 ^ 19 % 32
    let s := if 1 ≤ (s.bar (s.arg 1)).scope then acquireFar s c else s
    .next (seqResult s c d (barStatus (BitVec.ofNat 16 (s.arg 2)) (s.arg 3 == 1)) 1 4 1)

/-! ## The barrier instructions (R389-R391, R394) -/

/-- A barrier word with no RSV bit set. -/
def barWord (g : DWord) : Bool := decide (g.toNat < 2 ^ 14)

/-- Whether an entry belongs to another context (R390). -/
def foreign (s : State) (c key : Nat) : Bool := (s.bar key).state != .idle && (s.bar key).owner != s.ctxOf c

/-- A configuration word that R379 and R390 allow. -/
def barConfig (v : Nat) : Bool :=
  let op := fld v 51 50
  decide (v < 2 ^ 52) && op != 3 && fld v 49 48 != 3 && (if op = 0 then fld v 23 0 != 0 && (fld v 49 48 == 2 || fld v 47 32 == 0) else v % 2 ^ 50 == 0)

/-- BARINI (R391). -/
def execBarini (f : CF) (s : State) : Res :=
  withSeq s [f.a.toNat, f.b.toNat, f.d.toNat] fun c k =>
    let w := greg k f.a.toNat
    let v := greg k f.b.toNat
    if k.seq.wait = .answer then s
    else if !barWord w ∨ !barConfig v.toNat ∨ foreign s c w.toNat then seqFault s c 1
    else sendOp (awaitAnswer s c) (seqOp s c 0x30 w.toNat v f.d.toNat (s.now + barTime c (w.toNat / 4096)) [s.ctxOf c]) .barrierArrival

/-- Whether an arrival of core c at an entry is one that R390 allows. -/
def arrivalOk (s : State) (c : Nat) (w : DWord) : Bool :=
  let b := s.bar w.toNat
  barWord w && b.state != .idle && !foreign s c w.toNat && (b.scope != 0 || dieOf c == w.toNat / 4096)

/-- The release of an arrival at an entry's scope, .die, .pkg or .sys (R189, R391). -/
def releaseWait (s : State) (c key : Nat) : Option State := seqRelease s c (pathsOf 127) ((s.bar key).scope + 3)

/-- Whether the sequencer is inside an instruction's release wait. -/
def inFence (k : Core) : Bool := match k.seq.wait with | .fence .. => true | _ => false

/-- BARARV (R391): the sequencer goes on once the arrival is sent; g_d waits for the answer. -/
def execBararv (f : CF) (s : State) : Res :=
  withSeq s [f.a.toNat, f.d.toNat] fun c k =>
    let w := greg k f.a.toNat
    if !inFence k ∧ !arrivalOk s c w then seqFault s c 1 else
    match releaseWait s c w.toNat with
    | some t => t
    | none =>
      let s := s.modSeq c fun q => { q with busy := if f.d = 0 then q.busy else f.d.toNat :: q.busy }
      seqNext (sendOp s (seqOp s c 0x31 w.toNat (dword f.imm.toNat) f.d.toNat (s.now + barTime c (w.toNat / 4096)) []) .barrierArrival) c 4 1

/-- A wait on generation g of an entry begins, or goes on after a restore (R391, R394). -/
def waitOn (s : State) (c key : Nat) (g : BitVec 16) : State :=
  let b := s.bar key
  if b.waiters.any fun w => w.1 == c && w.2 == g then s
  else if b.releases g then releaseTo s key c g b.tripAt b
  else (s.modSeq c fun q => { q with wait := .arrived (some g) }).modBar key fun b => { b with waiters := b.waiters ++ [(c, g)] }

/-- BARWT (R391). -/
def execBarwt (f : CF) (s : State) : Res :=
  withSeq s [f.a.toNat, f.b.toNat, f.d.toNat] fun c k =>
    let w := greg k f.a.toNat
    match k.seq.wait with
    | .answer => s
    | .arrived _ => waitOn s c w.toNat ((greg k f.b.toNat).extractLsb' 0 16)
    | _ =>
      if !barWord w ∨ foreign s c w.toNat then seqFault s c 1
      else waitOn s c w.toNat ((greg k f.b.toNat).extractLsb' 0 16)

/-- BARAW (R391, R394): the arrival of BARARV, then the wait of BARWT; after a restore it does not arrive again. -/
def execBaraw (f : CF) (s : State) : Res :=
  withSeq s [f.a.toNat, f.d.toNat] fun c k =>
    let w := greg k f.a.toNat
    match k.seq.wait with
    | .answer => s
    | .arrived none => s
    | .arrived (some g) => waitOn s c w.toNat g
    | _ =>
      if !inFence k ∧ !arrivalOk s c w then seqFault s c 1 else
      match releaseWait s c w.toNat with
      | some t => t
      | none =>
        let s := s.modSeq c fun q => { q with wait := .arrived none }
        sendOp s (seqOp s c 0x33 w.toNat (dword f.imm.toNat) f.d.toNat (s.now + barTime c (w.toNat / 4096)) []) .barrierArrival

/-! ## Work counters (R385, R386, R392, R395, R396) -/

/-- A counter after die reset. -/
def Wcnt.reset : Wcnt := ⟨false, 0, 0, 0, []⟩

/-- Counter n. -/
def State.wcnt (s : State) (n : Nat) : Wcnt := AMap.get s.wcnts n Wcnt.reset

/-- The state with counter n changed by f. -/
def State.modWcnt (s : State) (n : Nat) (f : Wcnt → Wcnt) : State := { s with wcnts := AMap.put s.wcnts n (f (s.wcnt n)) }

/-- Whether an add makes a zero crossing (R386). -/
def crosses (old new_ : DWord) : Bool := old != 0 && (new_ == 0 || old.msb != new_.msb)

/-- A counter after an add (R386). -/
def Wcnt.add (w : Wcnt) (v : DWord) : Wcnt :=
  let n := w.value + v
  { w with value := n, zc := if crosses w.value n then w.zc + 1 else w.zc }

/-- The answer of a counter add to its node (R395): the old value's low word to x, whether it crossed zero to y; or an error token. -/
def countReply (s : State) (o : UnitOp) (cctx pe slot : Nat) (old : DWord) (cross bad : Bool) (half : Nat) : State :=
  if (s.core o.core).launch ≠ some o.launch then s else
  let k := s.core o.core
  match k.waits.find? fun w => w.id == o.reg, AMap.find? k.nodes (nkey cctx pe slot) with
  | some w, some t =>
    let f := nodeFields t.instr
    let x := old.extractLsb' 0 32
    let err := word (1 + pe * 2 ^ 16 + slot * 2 ^ 22 + cctx * 2 ^ 28)
    let val := fun (r : OutRes) =>
      if bad then
        let r := shapeOut w.tok (Val.scalar err) r
        { r with tok := r.tok.map fun t => { t with e := true } }
      else
        let toX := r.port == bkey cctx pe f.x.toNat || (f.x == 10 && r.port == 65536 + nkey cctx pe slot)
        shapeOut (w.tok.acted f.tg.toNat) (Val.scalar (if toX then x else if cross then 1 else 0)) r
    let (id, s) := s.fresh
    (s.modCore o.core fun k =>
      { k with
        waits := k.waits.filter (·.id != w.id), flights := k.flights ++ [⟨id, w.cctx, w.pe, w.slot, w.outs.map val, none, false⟩] }).after half
      .resultDelivery [o.core, id]
  | _, _ => s

/-- A counter operation is served, for the context it was sent for (R386, R392, R394, R395). -/
def doCount (s : State) (o : UnitOp) : State :=
  let n := o.target
  let w := s.wcnt n
  let half := counterTime o.core n / 2
  let ctx := o.ctx
  match o.node with
  | some (cctx, pe, slot) =>
    if !w.v ∨ w.owner ≠ ctx then countReply s o cctx pe slot 0 false true half
    else countReply (s.modWcnt n fun w => w.add o.val) o cctx pe slot w.value (crosses w.value (w.value + o.val)) false half
  | none =>
    if o.op = 0x34 then
      if w.v ∧ w.owner ≠ ctx then seqOpFault s o 1
      else if w.v then seqReply (s.modWcnt n fun w => { w with value := o.val }) o w.value (s.now + half)
      else seqReply (s.modWcnt n fun w => { w with v := true, owner := ctx, zc := 0, value := o.val }) o 0 (s.now + half)
    else if !w.v ∨ w.owner ≠ ctx then seqOpFault s o 1
    else if o.op = 0x35 then seqReply (s.modWcnt n fun w => w.add o.val) o w.value (s.now + half)
    else if (s.core o.core).stopped ∨ (s.core o.core).gated ∨ (s.core o.core).launch ≠ some o.launch then s
    else s.modWcnt n fun w => { w with waiters := w.waiters ++ [o.core] }

/-- The waiting CNTWZ of a counter whose value is 0 complete (R386, R392). -/
def wakeCount (s : State) (n : Nat) : State :=
  let w := s.wcnt n
  if !w.v ∨ w.value ≠ 0 ∨ w.waiters.isEmpty then s else
  let s := s.modWcnt n fun w => { w with waiters := [] }
  w.waiters.foldl (fun s c =>
    let k := s.core c
    let d := (k.prog.getD (k.seq.pc / 4) 0).toNat / 2 ^ 19 % 32
    let s := s.modSeq c fun q => { q with wait := .answer }
    acquireFar (seqReply s (seqOp s c 0x36 n 0 d 0 []) (dword w.zc.toNat) (s.now + counterTime c n / 2)) c) s

/-- The order in which a counter serves the operations of a cycle (R386). -/
def countRank (o : UnitOp) : Nat := o.core * 8192 + (match o.node with | none => 0 | some (_, pe, slot) => 1 + pe * 64 + slot)

/-- COUNTER_ARRIVAL (R386, R392): operation [id] reaches its counter, with every other that does in this cycle; a CNTWZ that waits there completes as
soon as one leaves VALUE 0. -/
def execCounterArrival (s : State) : Res :=
  match AMap.find? s.ops (s.arg 0) with
  | none => .next s
  | some o =>
    let n := o.target
    let due := s.ops.filter fun p => [0x34, 0x35, 0x36, 0x89].contains p.2.op && p.2.target == n && decide (p.2.half ≤ s.now)
    let s := { s with ops := s.ops.filter fun p => !(due.any fun d => d.1 == p.1) }
    .next ((due.foldr (insertOp countRank) []).foldl (fun s p => wakeCount (doCount s p.2) n) s)

/-- A counter word that the context may use (R390): the counter's own, and for CNTINI a free one. -/
def countOk (s : State) (c : Nat) (g : DWord) (free : Bool) : Bool :=
  let w := s.wcnt g.toNat
  decide (g.toNat < 8192) && (if w.v then w.owner == s.ctxOf c else free)

/-- Sends a counter operation of the sequencer. -/
def sendCounter (s : State) (c op n : Nat) (v : DWord) (d : Nat) : State :=
  sendOp s (seqOp s c op n v d (s.now + counterTime c n / 2) [s.ctxOf c]) .counterArrival

/-- CNTINI (R392). -/
def execCntini (f : CF) (s : State) : Res :=
  withSeq s [f.a.toNat, f.b.toNat, f.d.toNat] fun c k =>
    let g := greg k f.a.toNat
    if !countOk s c g true then seqFault s c 1
    else sendCounter (awaitAnswer s c) c 0x34 g.toNat (greg k f.b.toNat) f.d.toNat

/-- CNTADDG (R392). -/
def execCntaddg (f : CF) (s : State) : Res :=
  withSeq s [f.a.toNat, f.b.toNat, f.d.toNat] fun c k =>
    let g := greg k f.a.toNat
    if !inFence k ∧ !countOk s c g false then seqFault s c 1 else
    match seqRelease s c (pathsOf 127) 4 with
    | some t => t
    | none => sendCounter (awaitAnswer s c) c 0x35 g.toNat (greg k f.b.toNat) f.d.toNat

/-- CNTWZ (R392): waits at its counter; one that was abandoned goes there again. -/
def execCntwz (f : CF) (s : State) : Res :=
  withSeq s [f.a.toNat, f.d.toNat] fun c k =>
    let g := greg k f.a.toNat
    if k.seq.wait = .answer ∨ (s.wcnt g.toNat).waiters.contains c ∨ (s.ops.any fun p => p.2.core == c && p.2.op == 0x36) then s
    else if !countOk s c g false then seqFault s c 1
    else sendCounter (s.modSeq c fun q => { q with wait := .arrived none }) c 0x36 g.toNat 0 f.d.toNat

/-! ## QUIES (R393) -/

/-- QUIES (R393): reads the last sweep's report, or waits for a quiescent sweep. -/
def execQuies (f : CF) (s : State) : Res :=
  withSeq s [f.d.toNat] fun c k =>
    match s.launchOf c with
    | none => s
    | some (_, l) =>
      if f.imm = 0 then seqResult s c f.d.toNat (dword (b2n l.lastQuiet + l.sweeps % 2 ^ 32 * 2 ^ 32)) 2 4 2
      else match k.seq.wait with
        | .until _ _ => s
        | _ => s.modSeq c fun q => { q with wait := .until (2 ^ 64) f.d.toNat }

end Sys2Proof.Machine
end

