-- ==== Sys2Proof/Machine/Gang.lean ====
section
/-! DEFINITION. Gang rounds: READY, GO, ABANDON, their deadlines and the start (R369-R372). -/

namespace Sys2Proof.Machine

/-- The launches of gang g in round r that have posted READY and have no verdict yet (R370). -/
def gangLaunches (s : State) (g r : Nat) : List (Nat × Launch) :=
  s.launches.filter fun p => match p.2.gang with
    | some x => x.gang == g && x.round == r && x.st == 1
    | none => false

/-- Whether every member of gang g has posted READY for round r (R371). -/
def allPosted (s : State) (g r : Nat) : Bool :=
  (members (gangDesc s g)).all fun m => s.gangPosts.any fun p => p.1 == g && p.2.1 == r && p.2.2 == m

/-- The posts of gang g are forgotten once its round r is decided. -/
def clearPosts (s : State) (g r : Nat) : State := { s with gangPosts := s.gangPosts.filter fun p => !(p.1 == g && decide (p.2.1 ≤ r)) }

/-- A verdict to every other member over the links. -/
def toMembers (s : State) (g : Nat) (about : List Nat) : State :=
  ((members (gangDesc s g)).filter (· != s.topo.pkg.toNat)).foldl (fun s m => sendLink s m (1024 + schedulerDie) 0 0 0 about []) s

/-- The coordinator decides GO in this cycle, when every member has posted and the deadline has come (R371). -/
def decideGo (s : State) (g r : Nat) : State :=
  match gangLaunches s g r with
  | [] => s
  | (_, l) :: _ =>
    match l.gang with
    | none => s
    | some x =>
      if !allPosted s g r ∨ s.count.toNat < x.deadline then s else
      let start := s.count.toNat + gangLb (gangDesc s g)
      let s := toMembers (clearPosts s g r) g [4, g, r, start]
      s.after 0 .go [g, r, start]

/-- Whether a queue's head names gang g. -/
def Queue.names (k : Queue) (g : Nat) : Bool := recGang (k.recs.getD 0 []) && recFld (k.recs.getD 0 []) 3 15 0 == g

/-- The round that a queue's gang head is in: the next one from the abandonment on (R370). -/
def Queue.gangRound (k : Queue) : Nat := if k.skip = 2 ^ 62 then k.round + 1 else k.round

/-- The deadline of round r of gang g where this package knows it: its READY group's, or, from round 1 on, the one that the abandonment
before it has set (R370). -/
def gangDue (s : State) (g r : Nat) : Option Nat :=
  match gangLaunches s g r with
  | (_, l) :: _ => l.gang.map (·.deadline)
  | [] => (List.find? (fun (p : Nat × Queue) => p.2.gangRound == r && p.2.deadline != 0 && p.2.names g) s.queues).map fun p => p.2.deadline

/-- READY (R371): a member's READY [gang, round, package] reaches the coordinator; one of another round, or past the grace window, is
discarded. -/
def execReady (s : State) : Res :=
  let g := s.arg 0
  let r := s.arg 1
  let other := s.launches.any fun p => match p.2.gang with | some x => x.gang == g && x.round != r | none => false
  let past := s.queues.any fun p => p.2.names g && decide (r < p.2.gangRound)
  let late : Bool := match gangDue s g r with | some d => decide (d + gangGrace (gangDesc s g) < s.count.toNat) | none => false
  if other ∨ past ∨ late ∨ s.gangPosts.contains (g, r, s.arg 2) then .next s
  else .next (decideGo { s with gangPosts := s.gangPosts ++ [(g, r, s.arg 2)] } g r)

/-- The time until the package cycle count reaches t; 0 when it has. -/
def untilCount (s : State) (t : Nat) : Nat := t - s.count.toNat

/-- SLICE_BOUNDARY (R371): the deadline of round [gang, round] has come. -/
def execSliceBoundary (s : State) : Res :=
  let g := s.arg 0
  let r := s.arg 1
  match (gangLaunches s g r).find? fun p => p.1 == s.arg 2 with
  | some (_, l) =>
    let d := (l.gang.map (·.deadline)).getD 0
    .next (if s.count.toNat < d then s.after (untilCount s d) .sliceBoundary s.args else decideGo s g r)
  | none => .next s

/-- Whether a group of gang g has posted READY here in round r, or started. -/
def gangBegun (s : State) (g r : Nat) : Bool :=
  s.launches.any fun p => match p.2.gang with | some x => x.gang == g && x.round == r && x.st != 0 | none => false

/-- A coordinator whose own group has not posted at D + GRACE of round [gang, round] abandons it too, the deadline being known since the
round before: [gang, round, 0, phase, 0] (R371; DEDUCED, log 44). -/
def abandonUnposted (s : State) (g r : Nat) : State :=
  match gangDue s g r with
  | none => s
  | some d =>
    let t := d + gangGrace (gangDesc s g)
    if gangBegun s g r then s
    else if s.count.toNat < t then s.after (untilCount s t) .gangDeadline s.args
    else if s.arg 3 = 0 then s.after 0 .gangDeadline [g, r, 0, 1, 0]
    else toMembers (clearPosts s g r) g [5, g, r]

/-- GANG_DEADLINE (R371): at D + GRACE of round [gang, round, launch], after the READYs of the cycle, a round that lacks a member is
abandoned. -/
def execGangDeadline (s : State) : Res :=
  let g := s.arg 0
  let r := s.arg 1
  if s.args.length = 5 then .next (abandonUnposted s g r) else
  match (gangLaunches s g r).find? fun p => p.1 == s.arg 2 with
  | none => .next s
  | some (_, l) =>
    let t := (l.gang.map (·.deadline)).getD 0 + gangGrace (gangDesc s g)
    if s.count.toNat < t then .next (s.after (untilCount s t) .gangDeadline s.args)
    else if s.args.length = 3 then .next (s.after 0 .gangDeadline [g, r, s.arg 2, 1])
    else if allPosted s g r then .next s
    else .next ((toMembers (clearPosts s g r) g [5, g, r]).after 0 .abandon [g, r])

/-- GO (R370): a member that is READY will start in cycle S of [gang, round, S]; its next placement begins with round 0. -/
def execGo (s : State) : Res :=
  let t := s.arg 2
  .next ((gangLaunches s (s.arg 0) (s.arg 1)).foldl (fun s p =>
    ((s.modQueue p.2.queue fun k => { k with round := 0, deadline := 0 }).modLaunch p.1 fun l => { l with gang := l.gang.map fun x => { x with st := 2, start := t } }).after (untilCount s t) .gangStart [p.1]) s)

/-- GANG_START (R362, R370): in cycle S the sequencers of launch [n] start. -/
def execGangStart (s : State) : Res :=
  let n := s.arg 0
  match (AMap.find? s.launches n).bind fun l => if l.state = .loading then l.gang else none with
  | some x =>
    if x.st ≠ 2 then .next s
    else if s.count.toNat < x.start then .next (s.after (untilCount s x.start) .gangStart [n])
    else .next (startRun s n)
  | none => .next s

/-- The enable of a queue, set or cleared by the scheduler as a QCFG write is (R314, R372). -/
def setEnable (s : State) (q : Nat) (en : Bool) : State :=
  let k := s.queue q
  { s with agenda := insertDue s.now .qcfgWrite (.word q (dword (b2n en * 2 ^ 31 + k.weight * 2 ^ 16 + k.ctx))) s.agenda }

/-- A member's group is abandoned (R362, R370, R372): a record, the group released, its head armed again for the next slice boundary, still saved
where the group had been restored, and the filler queue enabled until then. -/
def abandonGang (s : State) (n : Nat) (l : Launch) (x : Gang) : State :=
  let d := gangDesc s x.gang
  let q := l.queue
  let next := x.deadline + gangSlice d
  let s := (s.record l.ctx { cause := 15, origin := 10, queue := q, detail := x.round }).1
  let s := if l.started then ((vacateGroup s n l).modLaunch n fun y => { y.unlend with state := .saved, gstate := .released }).refreshCtx l.ctx
    else removeLaunch s n l
  let s := s.modQueue q fun k =>
    { k with state := if k.state = .active then .armed else k.state, launches := if l.started then k.launches else k.launches.filter (· != n)
             saved := k.saved || l.started, skip := 2 ^ 62, deadline := next }
  let s := match gangFiller d with | some f => setEnable s f true | none => s
  s.after (untilCount s (next - gangPre d)) .gangRetry [q, x.round, x.gang]

/-- ABANDON (R370): a member that is READY in [gang, round] gives it up. -/
def execAbandon (s : State) : Res :=
  .next ((gangLaunches s (s.arg 0) (s.arg 1)).foldl (fun s p => match p.2.gang with
    | some x => abandonGang s p.1 p.2 x
    | none => s) s)

/-- GANG_RETRY (R370, R372): at D' - PRE the head of queue [q] is looked at again, for the round after [round], and the filler queue of
[gang] is disabled; the coordinator of the gang will decide that round by D' + GRACE (R371). -/
def execGangRetry (s : State) : Res :=
  let q := s.arg 0
  let k := s.queue q
  let s := match gangFiller (gangDesc s (s.arg 2)) with | some f => setEnable s f false | none => s
  if k.skip ≠ 2 ^ 62 ∨ k.round ≠ s.arg 1 then .next s
  else
    let d := gangDesc s (s.arg 2)
    let s := s.modQueue q fun k => { k with skip := 0, round := k.round + 1 }
    .next (if coordinator d = s.topo.pkg.toNat then s.after (untilCount s (k.deadline + gangGrace d)) .gangDeadline [s.arg 2, k.round + 1, 0, 0, 0] else s)

end Sys2Proof.Machine
end

