-- ==== Sys2Proof/Machine/FloatNode.lean ====
section
/-! DEFINITION. Floating-point, conversion and lane node operations (R159-R175). -/

namespace Sys2Proof.Machine

/-- A lane-wise operation that rounds, or steps Shaker lanes, in lane order (R161): each lane from its Shaker states. -/
def laneRound (s : State) (lat : Nat) (h : Firing → Nat → List Word → Word × List Word) : Res :=
  withFiring s lat true fun q =>
    let (ws, sh) := foldLanes (h q) q.lanes (s.shaker q.core q.pe)
    finish (s.setShaker q.core q.pe sh) q lat (q.result ws)

/-- The f32 arithmetic of R162 on a lane: the exact value, rounded once. -/
def f32Lane (s : State) (kind : Nat) (q : Firing) (l : Nat) (sh : List Word) : Word × List Word :=
  let m := q.f.m.toNat
  let rm := s.rnd q.core m
  let v := arith kind rm (f32 (q.a.lane l)) (f32 (q.bl l)) (f32 (q.sf.getD l 0))
  let (b, sh) := roundAll 7 rm (8 ≤ m) [(v, l)] sh
  (word (b.getD 0 0), sh)

/-- FADD (R162). -/
def execFadd (_ : NF) (s : State) : Res := laneRound s 4 (f32Lane s 0)
/-- FSUB (R162). -/
def execFsub (_ : NF) (s : State) : Res := laneRound s 4 (f32Lane s 1)
/-- FMUL (R162). -/
def execFmul (_ : NF) (s : State) : Res := laneRound s 4 (f32Lane s 2)
/-- FMA: A × B + sf, rounded once (R162). -/
def execFma (_ : NF) (s : State) : Res := laneRound s 4 (f32Lane s 3)
/-- FMIN (R163). -/
def execFmin (_ : NF) (s : State) : Res := laneOp s 2 fun a b _ => fminmax false a b
/-- FMAX (R163). -/
def execFmax (_ : NF) (s : State) : Res := laneOp s 2 fun a b _ => fminmax true a b
/-- FABS clears bit 31 (R163). -/
def execFabs (_ : NF) (s : State) : Res := laneOp s 1 fun a _ _ => a &&& 0x7FFFFFFF
/-- FNEG inverts bit 31 (R163). -/
def execFneg (_ : NF) (s : State) : Res := laneOp s 1 fun a _ _ => a ^^^ 0x80000000
/-- FCMP under the condition in m (R164). -/
def execFcmp (f : NF) (s : State) : Res := laneOp s 2 fun a b _ => boolWord (fcmp f.m.toNat a b)
/-- FCLS (R164). -/
def execFcls (_ : NF) (s : State) : Res := laneOp s 1 fun a _ _ => fcls a

/-- An SFU operation (R159, R175): not ready while the SFU is held; it keeps the SFU for 2 cycles. -/
def sfuOp (s : State) (kind : Nat) : Res :=
  let (c, pe) := match s.cur with
    | .node c _ pe _ _ => (c, pe)
    | .snip c pe => (c, pe)
    | _ => (0, 0)
  if s.now < AMap.get (s.core c).sfu pe 0 then .next s else
  withFiring s 8 true fun q =>
    finish (s.modCore c fun k => { k with sfu := AMap.put k.sfu pe (s.now + 2) }) q 8
      (q.result (q.lanes.map fun l => (l, specialF32 kind (q.a.lane l))))

/-- FRCP (R165). -/
def execFrcp (_ : NF) (s : State) : Res := sfuOp s 0
/-- FRSQ (R165). -/
def execFrsq (_ : NF) (s : State) : Res := sfuOp s 1
/-- FEX2 (R165). -/
def execFex2 (_ : NF) (s : State) : Res := sfuOp s 2
/-- FLG2 (R165). -/
def execFlg2 (_ : NF) (s : State) : Res := sfuOp s 3

/-- A packed half-precision lane (R166): element 0 then element 1, each by R162 in f16 or bf16, SAT 0. -/
def halfLane (s : State) (kind : Nat) (q : Firing) (l : Nat) (sh : List Word) : Word × List Word :=
  let t := if q.f.m.toNat < 8 then 5 else 6
  let rm := s.rnd q.core q.f.m.toNat
  let el := fun (w : Word) (i : Nat) => elemVal t (fld w.toNat (16 * i + 15) (16 * i))
  let v := fun i => (arith kind rm (el (q.a.lane l) i) (el (q.bl l) i) (el (q.sf.getD l 0) i), l)
  let (b, sh) := roundAll t rm false [v 0, v 1] sh
  (word (b.getD 0 0 + b.getD 1 0 * 2 ^ 16), sh)

/-- HADD (R166). -/
def execHadd (_ : NF) (s : State) : Res := laneRound s 4 (halfLane s 0)
/-- HMUL (R166). -/
def execHmul (_ : NF) (s : State) : Res := laneRound s 4 (halfLane s 2)
/-- HFMA (R166). -/
def execHfma (_ : NF) (s : State) : Res := laneRound s 4 (halfLane s 3)

/-- The lanes of a value as one number, lane 0 lowest (R36). -/
def lanesNat : List Word → Nat
  | [] => 0
  | w :: ws => w.toNat + 2 ^ 32 * lanesNat ws

/-- A 512-bit number as sixteen lanes. -/
def natLanes (v : Nat) : List Word := (List.range 16).map fun l => word (v >>> (32 * l))

/-- Elements of width w packed from bit 0 (R36). -/
def packElems (w : Nat) : List Nat → Nat
  | [] => 0
  | e :: es => e % 2 ^ w + 2 ^ w * packElems w es

/-- Element j of width w (R36). -/
def elemAt (v w j : Nat) : Nat := (v >>> (w * j)) % 2 ^ w

/-- The part p of a conversion: B's lane 0 modulo the number of parts, 0 without B (R167). -/
def Firing.part (q : Firing) (p : Nat) : Nat := match q.b with | none => 0 | some b => (b.lane 0).toNat % p

/-- Whether R51 lists a pair as exact from a source that has infinities: e5m2 and f16 or bf16 into wider formats (the e4m3 and integer
sources have none). -/
def exactPair (src dst : Nat) : Bool :=
  ((src == 5 || src == 6) && dst == 7) || ((src == 2 || src == 3) && (dst == 5 || dst == 6 || dst == 7))

/-- SAT as it applies to a pair: an exact conversion's result does not depend on it (R51; DEDUCED against R43's column for an infinite
input, log 33). -/
def satOf (src dst m : Nat) : Bool := decide (8 ≤ m) && !exactPair src dst

/-- CVTF, CVTE, CVTFI and CVTIF on an A without X (R167). Where the part operand has X, a lane that is empty in it is empty in the result
(R97): no element is read from it or written to it (DEDUCED, log 33). -/
def convert (q : Firing) (rm : Nat) (sat : Bool) (sh : List Word) : Val × List Word :=
  let src := q.lit.toNat % 16
  let dst := q.lit.toNat / 16 % 16
  let ws := typeBits src
  let wd := typeBits dst
  let w := if q.isVec then 512 else 32
  let n := w / max ws wd
  let p := q.part (max ws wd / min ws wd)
  let va := lanesNat (if q.isVec then q.a.lanes else [q.a.lane 0])
  let at_ := fun i => if ws ≥ wd then i else p * n + i
  let onto := fun i => if ws ≥ wd then p * n + i else i
  let is := (List.range n).filter fun i => q.lanes.contains (at_ i * ws / 32) && q.lanes.contains (onto i * wd / 32)
  let (bs, sh) := roundAll dst rm sat (is.map fun i => (elemVal src (elemAt va ws (at_ i)), at_ i * ws / 32)) sh
  let out := packElems wd ((List.range n).map fun i => AMap.get (is.zip bs) i 0) <<< (if ws ≥ wd then p * n * wd else 0)
  (if q.isVec then ⟨natLanes out, true, q.sides⟩ else Val.scalar (word out), sh)

/-- The conversions on an A with X set (R167): the first k elements of each non-empty lane, packed low. -/
def convertX (q : Firing) (rm : Nat) (sat : Bool) (l : Nat) (sh : List Word) : Word × List Word :=
  let src := q.lit.toNat % 16
  let dst := q.lit.toNat / 16 % 16
  let k := min (32 / typeBits src) (32 / typeBits dst)
  let (bs, sh) := roundAll dst rm sat
    ((List.range k).map fun i => (elemVal src (elemAt (q.a.lane l).toNat (typeBits src) i), l)) sh
  (word (packElems (typeBits dst) bs), sh)

/-- The conversions of R167 on any A. -/
def convOp (s : State) : Res :=
  withFiring s 3 true fun q =>
    let rm := s.rnd q.core q.f.m.toNat
    let sat := satOf (q.lit.toNat % 16) (q.lit.toNat / 16 % 16) q.f.m.toNat
    let sh := s.shaker q.core q.pe
    if q.a.side.isSome then
      let (ws, sh) := foldLanes (convertX q rm sat) q.lanes sh
      finish (s.setShaker q.core q.pe sh) q 3 (q.result ws)
    else
      let (v, sh) := convert q rm sat sh
      finish (s.setShaker q.core q.pe sh) q 3 v

/-- CVTF (R51, R167). -/
def execCvtf (_ : NF) (s : State) : Res := convOp s
/-- CVTE (R51, R167). -/
def execCvte (_ : NF) (s : State) : Res := convOp s
/-- CVTFI (R51, R167). -/
def execCvtfi (_ : NF) (s : State) : Res := convOp s
/-- CVTIF (R51, R167). -/
def execCvtif (_ : NF) (s : State) : Res := convOp s

/-- |v| of a value; an infinity counts as 2,688 (R168). -/
def absMag : XVal → Nat × Nat
  | .nan => (0, 1)
  | .inf _ => (2688, 1)
  | .fin _ n d => (n, d)

/-- The larger of two magnitudes. -/
def maxMag (a b : Nat × Nat) : Nat × Nat := if a.1 * b.2 < b.1 * a.2 then b else a

/-- Shaker states after one step of each listed lane in order, under SR (R49). -/
def stepLanes (rm : Nat) : List Nat → List Word → List Word
  | [], sh => sh
  | l :: ls, sh => if rm = 5 then stepLanes rm ls (sh.set l (shakerNext (sh.getD l 0))) else sh

/-- A value divided by a positive rational. -/
def XVal.divQ (v : XVal) (n d : Nat) : XVal :=
  match v with
  | .fin s a b => .fin s (a * d) (b * n)
  | v => v

/-- CVTQ towards e2m1 (R168): scale and elements of a block token. -/
def quantise (xs : List (XVal × Nat)) (rm : Nat) (sat : Bool) (sh : List Word) : Nat × List Nat × List Word :=
  let bad := xs.any fun p => p.1 == .nan || (!sat && (match p.1 with | .inf _ => true | _ => false))
  let am := xs.foldl (fun m p => maxMag m (absMag p.1)) (0, 1)
  if bad then (0x7F, List.replicate 32 0, stepLanes rm (xs.map (·.2)) sh)
  else if am.1 = 0 then (0, List.replicate 32 0, stepLanes rm (xs.map (·.2)) sh)
  else
    let sc := roundOnce 16 2 true 0 (.fin false am.1 (am.2 * 6))
    match elemVal 16 sc with
    | .fin _ n d =>
      let (bs, sh) := roundAll 4 rm sat (xs.map fun p => (p.1.divQ n d, p.2)) sh
      (sc, bs, sh)
    | _ => (sc, List.replicate 32 0, sh)

/-- A block token's lanes from its scale byte and 32 elements (R168). -/
def blockLanes (scale : Nat) (els : List Nat) : List Word := natLanes (packElems 4 els + scale * 2 ^ 128)

/-- The value of element j of a block token (R37, R38). -/
def blockVal (v j : Nat) : XVal := XVal.mul (elemVal 16 (fld v 135 128)) (elemVal 4 (elemAt v 4 j))

/-- CVTQ (R168). -/
def execCvtq (_ : NF) (s : State) : Res :=
  withFiring s 3 false fun q =>
    let rm := s.rnd q.core q.f.m.toNat
    let sat := decide (8 ≤ q.f.m.toNat)
    let src := q.lit.toNat % 16
    let dst := q.lit.toNat / 16 % 16
    let sh := s.shaker q.core q.pe
    let va := lanesNat q.a.lanes
    let (v, sh) :=
      if src = 4 then
        let n := 512 / typeBits dst
        let p := if dst = 7 then q.part 2 else 0
        let n := min n 32
        let (bs, sh) := roundAll dst rm sat ((List.range n).map fun i => (blockVal va (n * p + i), (n * p + i) / 8)) sh
        (natLanes (packElems (typeBits dst) bs), sh)
      else
        let vb := match q.b with | some b => lanesNat b.lanes | none => 0
        let xs := (List.range 32).map fun j =>
          if src = 7 then (elemVal 7 (elemAt (if j < 16 then va else vb) 32 (j % 16)), j % 16)
          else (elemVal src (elemAt va 16 j), j / 2)
        let (sc, els, sh) := quantise xs rm sat sh
        (blockLanes sc els, sh)
    finish (s.setShaker q.core q.pe sh) q 3 (Val.vec16 v)

/-- The residual scale of R41 for a block's E8M0 byte and the tile's M; none where k > 8. -/
def residual (e m : Nat) : Option Nat :=
  if e = 255 then some 0x7F else
  let k : Int := (e : Int) - m + 8
  if 8 < k then none
  else if -6 ≤ k then some ((k + 7).toNat * 8)
  else if -9 ≤ k then some (2 ^ (k + 9).toNat)
  else some 0

/-- A snippet's XPND that fails ends the snippet as if END issued in the next cycle, with error tokens (R94). -/
def snipFail (s : State) (q : Firing) (cause : Nat) : State :=
  s.modCore q.core (fun k =>
    match AMap.find? k.snips q.pe with
    | none => k
    | some r =>
      let outs := r.outs.map fun o =>
        { o with tok := (mkTok ⟨errWord cause q :: List.replicate 15 0, true, none⟩ r.a.tag r.act
            ((r.b.getD r.a).tag) r.a.m r.a.l (o.port % 16)).map fun t => t.asError r.a.m r.a.l }
      { k with snips := AMap.del k.snips q.pe
               issued := AMap.put k.issued q.pe (s.now + 2)
               sf := match r.sfNew with
                 | some v => AMap.put k.sf (nkey r.cctx q.pe r.slot) v.1
                 | none => k.sf
               sfE := match r.sfNew with
                 | some _ => AMap.del k.sfE (nkey r.cctx q.pe r.slot)
                 | none => k.sfE
               flights := k.flights ++ [⟨s.nextId, r.cctx, q.pe, r.slot, outs, toSf k r, true⟩] })
    |> fun t => ({ t with nextId := t.nextId + 1 }).after 2 .resultDelivery [q.core, s.nextId]
where
  /-- The error token's data for sf, where the SNIP node names sf. -/
  toSf (k : Core) (r : SnipRun) : Option (List Word) :=
    match AMap.find? k.nodes (nkey r.cctx q.pe r.slot) with
    | none => none
    | some w =>
      let f := nodeFields w.instr
      if f.x = 10 ∨ f.y = 10 then some (errWord cause q :: List.replicate 15 0) else none

/-- XPND (R40, R41, R169). -/
def execXpnd (_ : NF) (s : State) : Res :=
  withFiring s 3 false fun q =>
    let src := q.lit.toNat % 16
    let dst := q.lit.toNat / 16 % 16
    let va := lanesNat q.a.lanes
    if src = 15 then
      let b := (q.bl 0).toNat
      match (if 256 ≤ b then none else residual (fld va 135 128) b) with
      | none => if q.snip then snipFail s q 3 else fireFail s q 3 3
      | some r =>
        finish2 s q 3 (some (Val.vec16 (blockLanes r ((List.range 32).map (elemAt va 4)))))
          (some (Val.scalar (word (wrap 32 ((b : Int) - 135)))))
    else
      let w := typeBits src
      let p := if src = 14 then q.part 2 else 0
      let bs := (List.range 64).map fun i => roundOnce dst 0 false 0 (elemVal src (elemAt va w (64 * p + i)))
      finish s q 3 (Val.vec16 (natLanes (packElems 8 bs)))

/-- SEED: sets every lane's Shaker state of the PE and sends A (R170). -/
def execSeed (_ : NF) (s : State) : Res :=
  withFiring s 1 true fun q => finish (s.setShaker q.core q.pe (seedAll (q.a.lane 0) q.pe)) q 1 q.a.val

/-- The exact sum of f32 addends (R55, R171): NaN, infinities, or a rational; an empty or zero sum is +0. -/
def exactSum (xs : List XVal) : XVal :=
  let r := xs.foldl (fun acc x => XVal.add 0 acc x) (.fin false 0 1)
  match r with
  | .fin _ 0 _ => .fin false 0 1
  | r => r

/-- RSUM (R171): 16 lanes of A, and of B when named. -/
def execRsum (_ : NF) (s : State) : Res :=
  withFiring s 6 false fun q =>
    let xs := (List.range 16).map fun l => f32 (q.a.lane l)
    let ys := match q.b with | none => [] | some b => (List.range 16).map fun l => f32 (b.lane l)
    let (bs, sh) := roundAll 7 (s.rnd q.core q.f.m.toNat) (8 ≤ q.f.m.toNat) [(exactSum (xs ++ ys), 0)] (s.shaker q.core q.pe)
    finish (s.setShaker q.core q.pe sh) q 6 (Val.scalar (word (bs.getD 0 0)))

/-- A reduction of A's lanes by m's type (R172). -/
def reduceOp (s : State) (mx : Bool) : Res :=
  withFiring s 3 false fun q =>
    let better := fun (a b : Word) =>
      if q.f.m = 7 then fminmax mx a b
      else if q.f.m = 10 then (if (a.toInt ≤ b.toInt) == mx then b else a)
      else (if (a.toNat ≤ b.toNat) == mx then b else a)
    finish s q 3 (Val.scalar ((List.range 16).foldl (fun w l => better w (q.a.lane l)) (q.a.lane 0)))

/-- RMIN (R172). -/
def execRmin (_ : NF) (s : State) : Res := reduceOp s false
/-- RMAX (R172). -/
def execRmax (_ : NF) (s : State) : Res := reduceOp s true

/-- SHUF (R173). -/
def execShuf (_ : NF) (s : State) : Res :=
  withFiring s 1 false fun q => finish s q 1 (Val.vec16 ((List.range 16).map fun l =>
    let b := (q.bl l).toNat
    if bitAt b 4 then 0 else q.a.lane (b % 16)))

/-- BCAST (R173). -/
def execBcast (_ : NF) (s : State) : Res :=
  withFiring s 1 false fun q => finish s q 1 (Val.vec16 (List.replicate 16 (q.a.lane ((q.bl 0).toNat % 16))))

/-- LANE: sf with one lane replaced (R173). -/
def execLane (_ : NF) (s : State) : Res :=
  withFiring s 1 false fun q => finish s q 1 (Val.vec16 (q.sf.set ((q.bl 0).toNat % 16) (q.a.lane 0)))

/-- PACK (R174). -/
def execPack (f : NF) (s : State) : Res :=
  withFiring s 2 false fun q =>
    let t := f.m.toNat
    let el := fun (o : Opnd) => (List.range 16).map fun l => intClamp t (o.lane l).toInt
    finish s q 2 (Val.vec16 (natLanes (packElems (typeBits t) (el q.a ++ (match q.b with | some b => el b | none => [])))))

/-- UNPK (R174). -/
def execUnpk (f : NF) (s : State) : Res :=
  withFiring s 2 false fun q =>
    let t := f.m.toNat
    let w := typeBits t
    let p := q.part (512 / (16 * w))
    let v := lanesNat q.a.lanes
    finish s q 2 (Val.vec16 ((List.range 16).map fun l =>
      let e := elemAt v w (16 * p + l)
      word (if typeSigned t then wrap 32 (sext w e) else e)))

end Sys2Proof.Machine
end

