-- ==== Sys2Proof/Machine/RowMsg.lean ====
section
/-! DEFINITION. Row messages and their transport, the Bracket, stamping, and the dispatch and combine units (R419-R430, R441-R444). -/

namespace Sys2Proof.Machine

/-! ## Headers and messages (R419-R421) -/

/-- SERIAL. -/
def RowHdr.serial (h : RowHdr) : BitVec 32 := h.d0.extractLsb' 32 32
/-- SLOT. -/
def RowHdr.slot (h : RowHdr) : Nat := fld h.d0.toNat 31 12
/-- HOME. -/
def RowHdr.home (h : RowHdr) : Nat := fld h.d0.toNat 9 0
/-- LAYER. -/
def RowHdr.layer (h : RowHdr) : Nat := fld h.d1.toNat 63 48
/-- EXPERT. -/
def RowHdr.expert (h : RowHdr) : Nat := fld h.d1.toNat 47 32
/-- ALT. -/
def RowHdr.alt (h : RowHdr) : Nat := fld h.d1.toNat 31 16
/-- HOMEPKG. -/
def RowHdr.homePkg (h : RowHdr) : Nat := fld h.d1.toNat 15 8
/-- RANK. -/
def RowHdr.rank (h : RowHdr) : Nat := fld h.d1.toNat 7 5
/-- FLAGS. -/
def RowHdr.flags (h : RowHdr) : Nat := fld h.d1.toNat 4 0
/-- RR: the message has been rerouted. -/
def RowHdr.rr (h : RowHdr) : Bool := bitAt h.d1.toNat 4
/-- ASCALE. -/
def RowHdr.ascale (h : RowHdr) : Word := h.d2.extractLsb' 32 32
/-- WEIGHT. -/
def RowHdr.weight (h : RowHdr) : Word := h.d2.extractLsb' 0 32
/-- FMT. -/
def RowHdr.fmt (h : RowHdr) : Nat := fld h.d3.toNat 35 32
/-- LEN. -/
def RowHdr.len (h : RowHdr) : Nat := fld h.d3.toNat 13 0

/-- The header with other FLAGS. -/
def RowHdr.setFlags (h : RowHdr) (f : Nat) : RowHdr := { h with d1 := dword (h.d1.toNat / 32 * 32 + f % 32) }

/-- The flag bit of RR. -/
def RowHdr.rrBit (h : RowHdr) : Nat := if h.rr then 16 else 0

/-- The 32 bytes of a header. -/
def RowHdr.bytes (h : RowHdr) : List Byte := dwBytes [h.d0, h.d1, h.d2, h.d3]

/-- A header read from bytes. -/
def rowHdrOf (b : List Byte) : RowHdr :=
  let d := fun (i : Nat) => dword (ofBytes ((b.drop (8 * i)).take 8))
  ⟨d 0, d 1, d 2, d 3⟩

/-- Bytes of a payload (R36, R419): P for FMT and LEN. -/
def payloadBytes (fmt len : Nat) : Nat := up64 (ceilDiv ((len + 1) * typeBits fmt) 8)

/-- Whether a kind of message carries a payload (R420): a dispatch or a result. -/
def RowHdr.carries (h : RowHdr) : Bool := h.flags % 16 == 0 || h.flags % 16 == 1

/-- B: the bytes of a message (R419, R420). -/
def RowHdr.size (h : RowHdr) : Nat := 64 + (if h.carries then payloadBytes h.fmt h.len else 0)

/-- Whether a RSV bit of a header is set (R420). -/
def RowHdr.rsvSet (h : RowHdr) : Bool := fld h.d0.toNat 11 10 != 0 || fld h.d3.toNat 63 36 != 0 || fld h.d3.toNat 31 14 != 0

/-- Whether a message is malformed for a unit that takes one kind (R420). -/
def RowMsg.malformed (m : RowMsg) (kind : Nat) : Bool := m.rsv || m.hdr.rsvSet || m.hdr.flags % 16 != kind

/-- The event in which a message reaches its unit, by its channel and kind: the bin unit takes what comes on ROW-DISPATCH, the combine unit
what comes on ROW-COMBINE, there of the kinds it takes or malformed (R420). -/
def arrivalOf (m : RowMsg) : Instr :=
  if !m.comb then .dispatchArrival else
  match m.hdr.flags % 16 with
  | 3 => .nullArrival
  | 4 => .bounceArrival
  | 8 => .refusalArrival
  | _ => .resultArrival

/-- Adds to a counter of RWST (R448). -/
def bumpRow (s : State) (c lane n : Nat) : State :=
  s.modCore c fun k => { k with rows := { k.rows with cnt := AMap.put k.rows.cnt lane ((AMap.get k.rows.cnt lane 0 + n) % 2 ^ 32) } }

/-- A BIN_DROP record (R439). -/
def binDrop (s : State) (c origin : Nat) (h : RowHdr) (reason : Nat) : State :=
  bumpRow (s.note { cause := 13, origin := origin, core := c,
                    detail := h.layer * 2 ^ 48 + h.expert * 2 ^ 32 + h.slot * 2 ^ 12 + h.rank * 2 ^ 8 + reason }) c 4 1

/-- A message is given to its unit's port, to leave from cycle t on (R421); its kind sets its channel (R420). -/
def sendRow (s : State) (m : RowMsg) (t : Nat) : State :=
  let (id, s) := s.fresh
  { s with msgs := AMap.put s.msgs id { m with due := t, comb := m.hdr.flags % 16 != 0, left := false, node := none } }

/-- Message [id] leaves its source in this cycle (R421): it reaches its unit no earlier than those that left before it on its channel; one for
another package goes to the links, by its channel. -/
def leaveRow (s : State) (id : Nat) (m : RowMsg) : State :=
  if m.dstPkg ≠ s.topo.pkg.toNat then
    sendLink { s with msgs := AMap.del s.msgs id } m.dstPkg m.src m.dst (if m.comb then 3 else 2) m.bin
      [0, m.hdr.d0.toNat, m.hdr.d1.toNat, m.hdr.d2.toNat, m.hdr.d3.toNat, b2n m.again] (m.hdr.bytes ++ List.replicate 32 0 ++ (if m.hdr.carries then m.payload else []))
  else
    let lat := if m.dst = m.src then 2 else 30 + ceilDiv m.hdr.size 384 + 12 * crossings (dieOf m.src) (dieOf m.dst)
    let due := s.msgs.foldl (fun n p => if p.2.left ∧ p.2.src = m.src ∧ p.2.dst = m.dst ∧ p.2.comb = m.comb then max n p.2.due else n) (s.now + lat)
    let m := { m with due := due, left := true }
    { s with msgs := AMap.put s.msgs id m }.at due (arrivalOf m) [id]

/-- Whether a message is the next to leave its unit and may leave now: one header a cycle, in the order in which they may leave (R421; among
those of one cycle in the order in which they were given, DESIGN CHOICE, log 23). -/
def leavesNow (s : State) (p : Nat × RowMsg) : Bool :=
  !p.2.left && decide (p.2.due ≤ s.now)
    && !s.msgs.any fun q => !q.2.left && q.2.src == p.2.src && q.2.comb == p.2.comb && (decide (q.2.due < p.2.due) || (q.2.due == p.2.due && decide (q.1 < p.1)))

/-- The messages that leave their units in this cycle (R421). -/
def leaveRows (s : State) : State := (s.msgs.filter (leavesNow s)).foldl (fun s p => leaveRow s p.1 p.2) s

/-- The state with core c's row units changed by f. -/
def State.modRows (s : State) (c : Nat) (f : Rows → Rows) : State := s.modCore c fun k => { k with rows := f k.rows }

/-- Whether message p is taken before message q of the same unit (R433): the network's by arrival, then those of BINNX by PE index and
slot. -/
def takenFirst (p q : Nat × RowMsg) : Bool :=
  let key := fun (x : Nat × RowMsg) => (b2n x.2.node.isSome, x.2.node.getD x.2.due, x.1)
  let (a, b) := (key p, key q)
  decide (a.1 < b.1) || (a.1 == b.1 && (decide (a.2.1 < b.2.1) || (a.2.1 == b.2.1 && decide (a.2.2 < b.2.2))))

/-- Message [id] reaches the bin unit or the combine unit of its core in the event i (R433, R442): each unit takes one header per cycle,
and one that is not taken waits for the next. -/
def withMsg (s : State) (i : Instr) (body : State → RowMsg → State → State) : Res :=
  let id := s.arg 0
  match AMap.find? s.msgs id with
  | none => .next s
  | some m =>
    let bin := i == .dispatchArrival
    let r := (s.core m.dst).rows
    let mine := fun (p : Nat × RowMsg) => p.2.left && p.2.dst == m.dst && p.2.comb == m.comb && decide (p.2.due ≤ s.now)
    if decide (s.now < (if bin then r.binAt else r.cmbAt)) || s.msgs.any fun p => mine p && takenFirst p (id, m) then .next (s.after 1 i [id])
    else
      let s := s.modRows m.dst fun r => if bin then { r with binAt := s.now + 1 } else { r with cmbAt := s.now + 1 }
      .next (body s m { s with msgs := AMap.del s.msgs id })

/-! ## The Bracket (R424-R426) -/

/-- A pair-lane: score and expert. -/
abbrev Pair := Word × Word

/-- The eight pair-lanes of a vector. -/
def pairsOf (l : List Word) : List Pair := (List.range 8).map fun p => (l.getD (2 * p) 0, l.getD (2 * p + 1) 0)

/-- The lanes of pairs. -/
def lanesOf (l : List Pair) : List Word := l.flatMap fun p => [p.1, p.2]

/-- The expert of an empty pair. -/
def noExpert : Word := 0xFFFFFFFF

/-- Better(p, q) (R424). -/
def better (p q : Pair) : Bool :=
  if p.2 = noExpert then false
  else if q.2 = noExpert then true
  else if f32 p.1 = .nan ∨ f32 q.1 = .nan then
    if f32 p.1 = .nan ∧ f32 q.1 = .nan then p.2.ult q.2 else f32 q.1 == .nan
  else
    let k := (f32 p.1).cmp (f32 q.1)
    if k ≠ 0 then decide (0 < k) else p.2.ult q.2

/-- Win(a, b) (R424). -/
def winner (a b : Pair) : Pair := if better b a then b else a

/-- The winners of two tokens' pair-lanes. -/
def winners (a b : List Word) : List Word := lanesOf (((pairsOf a).zip (pairsOf b)).map fun p => winner p.1 p.2)

/-- CFW (R425, R449): with KEEP it stores its operands, when the path memory takes them. -/
def execCfw (_ : NF) (s : State) : Res :=
  withNode s true fun q =>
    let out := fun (s : State) => finish s q 2 (Val.vec16 (winners q.a.lanes ((q.b.map (·.lanes)).getD [])))
    if q.e then fireError s q 2
    else if q.x then nodeFault s q 1
    else if !bitAt q.lit.toNat 0 then out s
    else
      let key := nkey q.cctx q.pe q.slot
      let mem := AMap.get (s.core q.core).rows.paths key []
      if mem.any (fun e => e.1 == q.tag) ∨ 4 ≤ mem.length then s
      else match q.a.tok, q.b.bind (·.tok) with
        | some a, some b => out (s.modRows q.core fun r => { r with paths := AMap.put r.paths key (mem ++ [(q.tag, a, b)]) })
        | _, _ => out s

/-- The pair-lanes of a stored token without those that a removal token names (R426). -/
def removePairs (m a : List Word) : List Word :=
  lanesOf (((pairsOf m).zip (pairsOf a)).map fun p => if p.1.2 = p.2.2 ∧ p.2.2 ≠ noExpert then (p.1.1, noExpert) else p.1)

/-- CFWR (R426, R449). -/
def execCfwr (_ : NF) (s : State) : Res :=
  withNode s true fun q =>
    let att := q.lit.toNat
    if q.e then fireError s q 2
    else if q.x then nodeFault s q 1
    else if !bitAt att 6 then finish s q 2 (Val.vec16 (winners q.a.lanes ((q.b.map (·.lanes)).getD [])))
    else
      let key := nkey q.cctx q.pe (att % 64)
      let mem := AMap.get (s.core q.core).rows.paths key []
      match mem.find? fun e => e.1 == q.tag with
      | none => fireFail s q 2 1
      | some (t, x, y) =>
        let x : Token := { x with data := removePairs x.data q.a.lanes }
        let y : Token := { y with data := removePairs y.data q.a.lanes }
        let mem := if bitAt att 7 then mem.filter fun e => e.1 != t else mem.map fun e => if e.1 = t then (t, x, y) else e
        finish (s.modRows q.core fun r => { r with paths := AMap.put r.paths key mem }) q 2 (Val.vec16 (winners x.data y.data))

/-! ## Staging (R441) -/

/-- First slot of the combine range. -/
def Combine.base (x : Combine) : Nat := fld x.dw1.toNat 63 44
/-- Slots of the combine range. -/
def Combine.slots (x : Combine) : Nat := fld x.dw1.toNat 43 24
/-- The contribution type. -/
def Combine.cfmt (x : Combine) : Nat := fld x.dw0.toNat 43 40
/-- The output type. -/
def Combine.ofmt (x : Combine) : Nat := fld x.dw0.toNat 39 36
/-- Elements of a row. -/
def Combine.width (x : Combine) : Nat := fld x.dw0.toNat 13 0 + 1
/-- Whether each slot takes a local contribution. -/
def Combine.loc (x : Combine) : Bool := bitAt x.dw0.toNat 44
/-- k. -/
def Combine.k (x : Combine) : Nat := fld x.dw0.toNat 47 45 + 1
/-- The output handle. -/
def Combine.hout (x : Combine) : Nat := fld x.dw0.toNat 25 22
/-- A: bytes of a contribution area. -/
def Combine.area (x : Combine) : Nat := up64 (ceilDiv (x.width * typeBits x.cfmt) 8)
/-- E: bytes of a staging entry. -/
def Combine.entry (x : Combine) : Nat := 320 + (x.k + b2n x.loc) * x.area
/-- Whether a slot lies in the combine range. -/
def Combine.has (x : Combine) (slot : Nat) : Bool := decide (x.base ≤ slot) && decide (slot < x.base + x.slots)
/-- Scratch offset of a slot's staging entry. -/
def Combine.at_ (x : Combine) (slot : Nat) : Nat := fld x.dw1.toNat 20 0 + (slot - x.base) * x.entry

/-- Whether a core's combine range holds a slot. -/
def inCombine (k : Core) (slot : Nat) : Option Combine := k.rows.cmb.bind fun x => if x.has slot then some x else none

/-- The status doubleword of a slot's staging entry. -/
def staged (s : State) (c : Nat) (x : Combine) (slot : Nat) : Nat := ofBytes (s.scratch c (x.at_ slot) 8)

/-- Writes the status doubleword of a slot's staging entry. -/
def setStaged (s : State) (c : Nat) (x : Combine) (slot v : Nat) : State := s.putScratch c (x.at_ slot) (toBytes 8 v)

/-- v with a bit set. -/
def setBit (v n : Nat) : Nat := if bitAt v n then v else v + 2 ^ n

/-- init(slot, EXP) (R427): INIT set, PRES, NUL and BNC clear, LP kept. -/
def initSlot (s : State) (c slot exp_ : Nat) : State :=
  match inCombine (s.core c) slot with
  | none => s
  | some x => setStaged s c x slot (exp_ + b2n (bitAt (staged s c x slot) 32) * 2 ^ 32 + 2 ^ 33)

/-- The rank's bits of PRES and NUL are set (R430, R442). -/
def setNull (s : State) (c slot rank : Nat) : State :=
  match inCombine (s.core c) slot with
  | none => s
  | some x => setStaged s c x slot (setBit (setBit (staged s c x slot) (8 + rank)) (16 + rank))

/-! ## STAMP (R427) -/

/-- The exact quotient of two values; NaN where the divisor is 0, NaN or infinite (R427). -/
def XVal.div : XVal → XVal → XVal
  | .fin s n d, .fin t m e => if m = 0 then .nan else .fin (s != t) (n * e) (d * m)
  | .inf s, .fin t m _ => if m = 0 then .nan else .inf (s != t)
  | _, _ => .nan

/-- The headers of one pair-lane's row (R427). -/
def stampHeaders (s : State) (c : Nat) (l : LayerSlot) (att slot : Nat) (w : List Pair) : List RowHdr :=
  let k := fld att 4 2 + 1
  let valid := fun (p : Pair) => p.2 != noExpert && decide (p.2.toNat < l.nexp)
  let win := (w.take k).filter valid
  let sum := exactSum (win.map fun p => f32 p.1)
  let alt := match w[k]? with | some p => if bitAt att 6 ∧ valid p then p.2.toNat else 0xFFFF | none => 0xFFFF
  ((List.range k).zip (w.take k)).filterMap fun p =>
    if !valid p.2 then none else
    let weight := if bitAt att 5 then roundOnce 7 0 false 0 ((f32 p.2.1).div sum) else p.2.1.toNat
    some ⟨dword (slot * 2 ^ 12 + c), dword (l.layer * 2 ^ 48 + p.2.2.toNat * 2 ^ 32 + alt * 2 ^ 16 + s.topo.pkg.toNat * 2 ^ 8 + p.1 * 2 ^ 5),
          dword (l.ascale * 2 ^ 32 + weight), dword (l.fmt * 2 ^ 32 + l.len)⟩

/-- The last round of STAMP (R427): none where a row that is valid has no place in the combine range. -/
def stampAll (s : State) (c : Nat) (l : LayerSlot) (att itag : Nat) (rounds : List Token) : Option (State × Nat) :=
  let rows := (List.range 8).map fun p =>
    let slot := l.slotbase + 8 * itag + p
    (slot, rounds.map fun t => (pairsOf t.data).getD p (0, noExpert))
  let first := fun (w : List Pair) => match w.head? with | some p => p.2 != noExpert && decide (p.2.toNat < l.nexp) | none => false
  if rows.any fun r => first r.2 && (inCombine (s.core c) r.1).isNone then none else
  some (rows.foldl (fun (x : State × Nat) r =>
    if !first r.2 then (initSlot x.1 c r.1 0, x.2) else
    let hs := stampHeaders x.1 c l att r.1 r.2
    let s := x.1.modRows c fun q => { q with hdrs := q.hdrs ++ hs.map fun h => (h, att % 4) }
    (initSlot s c r.1 (hs.foldl (fun m h => m + 2 ^ h.rank) 0), x.2 + hs.length)) (s, 0))

/-- STAMP (R427, R449). -/
def execStamp (_ : NF) (s : State) : Res :=
  withNode s true fun q =>
    if q.e then fireError s q 1
    else if q.x then nodeFault s q 1
    else
      let att := q.lit.toNat
      let key := nkey q.cctx q.pe q.slot
      let k := fld att 4 2 + 1
      let table := AMap.get (s.core q.core).rows.stamps key []
      let old := match table.find? fun e => e.1 == q.tag with | some e => e.2 | none => []
      let rounds := old ++ [(q.a.tok.getD ⟨q.a.lanes, q.tag, none, false, false, false⟩)]
      let put := fun (s : State) (l : List (Tag × List Token)) => s.modRows q.core fun r => { r with stamps := AMap.put r.stamps key l }
      let rest := table.filter fun e => e.1 != q.tag
      if old.isEmpty ∧ 4 ≤ table.length then s
      else if rounds.length < k + b2n (bitAt att 6) then finish2 (put s (rest ++ [(q.tag, rounds)])) q 1 none (some q.a.val)
      else if 64 < (s.core q.core).rows.hdrs.length + 8 * k then s
      else match AMap.find? (s.core q.core).rows.layers (att % 4) with
      | none => fireFail (put s rest) q 12 1
      | some l =>
        match stampAll s q.core l att q.tag.itag.toNat rounds with
        | none => fireFail (put s rest) q 12 1
        | some (t, n) =>
          let t := (bumpRow (put t rest) q.core 11 n).modRows q.core fun r => { r with dispFree := max r.dispFree (s.now + 8) }
          finish2 t q 12 (some (Val.scalar (word n))) (some q.a.val)

/-! ## The dispatch unit (R423, R428-R430) -/

/-- Headers of a layer slot that no DISP in progress has claimed. -/
def freeHdrs (r : Rows) (ls : Nat) : Nat :=
  (r.hdrs.filter fun h => h.2 == ls).length - ((r.disp.filter fun j => j.ls == ls).foldl (fun n j => n + j.n) 0)

/-- DISP (R429): takes its place among the DISPs of the core. -/
def execDisp (_ : NF) (s : State) : Res :=
  withNode s true fun q =>
    let n := (q.a.lane 0).toNat
    let ls := q.lit.toNat % 4
    if q.e then fireError s q 4
    else if q.x then nodeFault s q 1
    else if freeHdrs (s.core q.core).rows ls < n then fireFail s q 4 1
    else
      let (outs, s) := startHeld s q
      let t := { q.template with data := if q.a.vec then q.a.lanes else [q.a.lane 0], side := none }
      s.modRows q.core fun r => { r with disp := r.disp ++ [⟨q.cctx, q.pe, q.slot, t, outs, n, ls, false⟩] }

/-- DropAtSource (R430). -/
def dropAtSource (s : State) (c : Nat) (h : RowHdr) (reason : Nat) : State := binDrop (setNull s c h.slot h.rank) c 8 h reason

/-- The layer slot that a LAYER stands in. -/
def layerOf (r : Rows) (layer : Nat) : Option (Nat × LayerSlot) := List.find? (fun p => p.2.layer == layer) r.layers

/-- On a bounce, or a refusal whose wait is over (R430). -/
def onBounce (s : State) (c : Nat) (h : RowHdr) (reason : Nat) : State :=
  match layerOf (s.core c).rows h.layer with
  | some (i, l) =>
    if h.rr ∨ h.alt = 0xFFFF ∨ l.pol = 0 then dropAtSource s c h reason
    else
      let h : RowHdr := { h with d1 := dword (h.layer * 2 ^ 48 + h.alt * 2 ^ 32 + 0xFFFF * 2 ^ 16 + h.homePkg * 2 ^ 8 + h.rank * 2 ^ 5 + 16) }
      bumpRow (s.modRows c fun r => { r with resend := r.resend ++ [(h, i)] }) c 6 1
  | none => dropAtSource s c h reason

/-- What resolving an expert gives (R423): an entry and its cycles, an expert past the map, a page to ask for, or a fault. -/
inductive Resolve where
  | entry (e : DWord) (t : Nat) (l : LayerSlot) (read : List (Nat × Nat))
  | none
  | miss (va : Nat)
  | bad (cause va : Nat)
  deriving DecidableEq, Repr

/-- Whether a map entry is valid, with no RSV bit set (R423). -/
def entryGood (v : DWord) : Bool := v.msb && v.toNat % 2 ^ 41 == 0

/-- Resolves an expert by a layer slot's map and its cache, which takes every entry read (R423, R449). -/
def resolve (s : State) (c : Nat) (l : LayerSlot) (e : Nat) : Resolve :=
  if l.nexp ≤ e then .none else
  match AMap.find? l.cache (e % 256) with
  | some (x, v) => if x = e then .entry v 2 l [] else fetch
  | none => fetch
where
  /-- A miss reads the entry. -/
  fetch : Resolve :=
    let va := l.map + 8 * e
    match reach s c .virt va 8 false with
    | .miss | .wait => .miss va
    | .bad x => .bad x va
    | .ok r =>
      let v := dword (ofBytes (takeBytes s c r))
      .entry v (2 + reachLevel s c .virt r) { l with cache := AMap.put l.cache (e % 256) (e, v) } r

/-- A fault of the dispatch unit. -/
def dispFault (s : State) (c cause addr : Nat) : State := s.raise { cause := cause, origin := 8, core := c, addr := addr }

/-- Sends one dispatch message, or drops it at source (R423, R429, R430): done takes the header from where it stood; a new one takes
its SERIAL. -/
def sendDispatch (s : State) (c : Nat) (h : RowHdr) (ls : Nat) (fresh : Bool) (done : Rows → Rows) : State :=
  let drop := fun (s : State) (t : Nat) => (dropAtSource s c h 5).modRows c fun r => { done r with dispFree := s.now + t }
  match AMap.find? (s.core c).rows.layers ls with
  | none => drop s 2
  | some l =>
    match resolve s c l h.expert with
    | .none => drop s 2
    | .miss va => if probing s c .row then s else probe s c (.seq 64) .row false va 8
    | .bad x va => dispFault s c x va
    | .entry v t l r =>
      let s := touchUnit s c .row r false
      if !entryGood v then drop (s.modRows c fun r => { r with layers := AMap.put r.layers ls l }) t else
      let p := payloadBytes h.fmt h.len
      let off := l.rowoff + (h.slot - l.slotbase) * l.pitch
      if 2 ^ 21 < off + p then dispFault s c 6 off else
      let h : RowHdr := if fresh then { h with d0 := dword (l.serial.toNat * 2 ^ 32 + h.d0.toNat % 2 ^ 32) } else h
      let l : LayerSlot := if fresh then { l with serial := l.serial + 1 } else l
      let leave := s.now + t + ceilDiv (64 + p) 64
      let m : RowMsg := ⟨h, false, s.scratch c off p, c, fld v.toNat 62 55, fld v.toNat 54 45, fld v.toNat 44 41, 0, false, false, false, none⟩
      let s := s.modRows c fun r => { done r with layers := AMap.put r.layers ls l, dispFree := leave }
      sendRow (bumpRow s c 0 1) m leave

/-- A DISP whose messages have all left sends A (R429). -/
def endDisp (s : State) (c : Nat) : State :=
  let r := (s.core c).rows
  match r.disp with
  | j :: _ =>
    if j.begun ∧ j.n = 0 ∧ r.dispFree ≤ s.now then
      let v : Val := if j.a.data.length = 16 then ⟨j.a.data, true, none⟩ else Val.scalar (j.a.data.getD 0 0)
      sendOuts (s.modRows c fun r => { r with disp := r.disp.drop 1 }) c j.cctx j.pe j.slot j.a j.outs 0 v
    else s
  | [] => s

/-- The dispatch unit's part of a cycle (R429, R430): a DISP that has sent its messages ends; then a resend goes first, then the DISP in
progress; none while a refusal is being retried. -/
def dispCycle (s : State) (c : Nat) : State :=
  let s := if (s.core c).stopped then s else endDisp s c
  let k := s.core c
  let r := k.rows
  if k.stopped ∨ s.now < r.dispFree ∨ !r.retry.isEmpty ∨ popWaits s c then s else
  match r.resend with
  | (h, ls) :: _ => sendDispatch s c h ls false fun r => { r with resend := r.resend.drop 1 }
  | [] =>
    match r.disp with
    | [] => s
    | j :: _ =>
      if !j.begun then
        s.modRows c fun r => { r with disp := { j with begun := true } :: r.disp.drop 1, dispFree := s.now + 4 }
      else match (if j.n = 0 then none else r.hdrs.find? fun h => h.2 == j.ls) with
        | none => s
        | some h => sendDispatch s c h.1 j.ls true fun r =>
            { r with hdrs := r.hdrs.erase h, disp := { j with n := j.n - 1 } :: r.disp.drop 1 }

/-! ## Refusals (R430) -/

/-- WAIT of a layer slot. -/
def LayerSlot.bound (l : LayerSlot) : Nat := if l.wait = 0 then 4096 else l.wait

/-- A refusal reaches the dispatch unit: it is retried at the core and bin that refused it every 256 cycles counted from it, up to WAIT cycles
from the first on that destination. -/
def onRefusal (s : State) (c : Nat) (x : RowMsg) : State :=
  let h := x.hdr.setFlags x.hdr.rrBit
  let old := (s.core c).rows.retry.find? fun x => x.msg.hdr == h
  match old with
  | some x => s.modRows c fun r => { r with retry := r.retry.map fun y => if y.id = x.id then { y with next := s.now + 256 } else y }
  | none =>
    match layerOf (s.core c).rows h.layer with
    | none => dropAtSource s c h 4
    | some (i, l) =>
      let off := l.rowoff + (h.slot - l.slotbase) * l.pitch
      let pkg := if x.src < 4096 then s.topo.pkg.toNat else x.src / 4096 - 1
      let m : RowMsg := ⟨h, false, s.scratch c off (payloadBytes h.fmt h.len), c, pkg, x.src % 4096, x.bin, 0, true, false, false, none⟩
      let (id, s) := s.fresh
      s.modRows c fun r => { r with retry := r.retry ++ [⟨id, m, i, s.now, s.now + 256, l.bound⟩] }

/-- A retried message has been accepted, or answered: its retry is over (DEDUCED, log 23). -/
def endRetryOf (s : State) (c : Nat) (serial : BitVec 32) (slot rank : Nat) : State :=
  s.modRows c fun r => { r with retry := r.retry.filter fun x => !(x.msg.hdr.serial == serial && x.msg.hdr.slot == slot && x.msg.hdr.rank == rank) }

/-- The retry of the message with a header is over. -/
def endRetry (s : State) (c : Nat) (h : RowHdr) : State := endRetryOf s c h.serial h.slot h.rank

/-- REFUSAL_RETRY (R430): core [core] sends the refused message [id] again. -/
def execRefusalRetry (s : State) : Res :=
  let c := s.arg 0
  match (s.core c).rows.retry.find? fun x => x.id == s.arg 1 with
  | some x =>
    if s.now < x.next then .next s else
    let s := s.modRows c fun r => { r with retry := r.retry.map fun y => if y.id = x.id then { y with next := s.now + 256 } else y }
    .next (sendRow (bumpRow s c 0 1) x.msg s.now)
  | none => .next s

/-- REFUSAL_WAIT_EXPIRY (R430): WAIT cycles have passed since the first refusal of message [id] at core [core]. -/
def execRefusalWaitExpiry (s : State) : Res :=
  let c := s.arg 0
  match (s.core c).rows.retry.find? fun x => x.id == s.arg 1 with
  | some x =>
    if s.now < x.first + x.bound then .next s
    else .next (onBounce (s.modRows c fun r => { r with retry := r.retry.filter fun y => y.id != x.id }) c x.msg.hdr 4)
  | none => .next s

/-! ## The combine unit (R442-R444) -/

/-- A result or null that has a place: its range and status; otherwise it is discarded with a record (R442). -/
def placeOf (s : State) (c : Nat) (h : RowHdr) : Option (Combine × Nat) :=
  match inCombine (s.core c) h.slot with
  | none => none
  | some x =>
    let v := staged s c x h.slot
    if fld x.dw0.toNat 63 48 ≠ h.layer ∨ !bitAt v 33 ∨ !bitAt v h.rank then none else some (x, v)

/-- RESULT_ARRIVAL (R420, R442): the message [id] reaches its home's combine unit. One whose rank is past the configuration's k, its area past
the end of scratch, has no place (DESIGN CHOICE, log 23). -/
def execResultArrival (s : State) : Res :=
  withMsg s .resultArrival fun _ m s =>
    let c := m.dst
    let h := m.hdr
    if m.malformed 1 then binDrop s c 9 h 3 else
    let s := endRetry s c h
    match placeOf s c h with
    | none => binDrop s c 9 h 6
    | some (x, v) =>
      if bitAt v (8 + h.rank) then bumpRow s c 3 1
      else if 2 ^ 21 < x.at_ h.slot + 320 + (h.rank + 1) * x.area then binDrop s c 9 h 6
      else if h.fmt ≠ x.cfmt ∨ h.len + 1 ≠ x.width then setNull (binDrop s c 9 h 3) c h.slot h.rank
      else
        let s := s.putScratch c (x.at_ h.slot + 320 + h.rank * x.area) (m.payload.take x.area)
        setStaged s c x h.slot (setBit v (8 + h.rank))

/-- NULL_ARRIVAL (R420, R442). -/
def execNullArrival (s : State) : Res :=
  withMsg s .nullArrival fun _ m s =>
    let c := m.dst
    let h := m.hdr
    if m.malformed 3 then binDrop s c 9 h 3 else
    let s := endRetry s c h
    match placeOf s c h with
    | none => binDrop s c 9 h 6
    | some (_, v) => if bitAt v (8 + h.rank) then bumpRow s c 3 1 else setNull s c h.slot h.rank

/-- A bounced or refused header is kept at its rank's place (R442). -/
def keepBounce (s : State) (c : Nat) (h : RowHdr) : State :=
  match inCombine (s.core c) h.slot with
  | none => s
  | some x =>
    let s := s.putScratch c (x.at_ h.slot + 64 + 32 * h.rank) h.bytes
    setStaged s c x h.slot (setBit (staged s c x h.slot) (24 + h.rank))

/-- BOUNCE_ARRIVAL (R420, R430, R442). -/
def execBounceArrival (s : State) : Res :=
  withMsg s .bounceArrival fun _ m s =>
    if m.malformed 4 then binDrop s m.dst 9 m.hdr 3
    else onBounce (keepBounce (endRetry s m.dst m.hdr) m.dst m.hdr) m.dst m.hdr 1

/-- REFUSAL_ARRIVAL (R420, R430, R442). -/
def execRefusalArrival (s : State) : Res :=
  withMsg s .refusalArrival fun _ m s =>
    if m.malformed 8 then binDrop s m.dst 9 m.hdr 3
    else onRefusal (keepBounce s m.dst m.hdr) m.dst m

/-- Whether slot NEXT is complete (R443). -/
def combineReady (s : State) (c : Nat) (x : Combine) : Bool :=
  let v := staged s c x x.next
  x.has x.next && bitAt v 33 && (List.range 8).all (fun r => !bitAt v r || bitAt v (8 + r)) && (!x.loc || bitAt v 32)

/-- The addends of element j of slot NEXT (R443). -/
def addends (s : State) (c : Nat) (x : Combine) (j : Nat) : List XVal :=
  let v := staged s c x x.next
  let w := typeBits x.cfmt / 8
  let at_ := fun (area : Nat) => elemVal x.cfmt (ofBytes (s.scratch c (x.at_ x.next + 320 + area * x.area + j * w) w))
  (((List.range 8).filter fun r => bitAt v r && !bitAt v (16 + r)).map at_) ++ (if x.loc then [at_ x.k] else [])

/-- COMBINE_ROW_WRITE (R443): core [core] writes the output row of slot NEXT, or, two cycles later, advances its handle. -/
def execCombineRowWrite (s : State) : Res :=
  let c := s.arg 0
  match (s.core c).rows.cmb with
  | none => .next s
  | some x =>
    match x.writing with
    | none => .next s
    | some (t, rm, adv) =>
      if s.now < t then .next s
      else if !adv then
        let h := (s.core c).handle x.hout
        let pe := fld x.dw0.toNat 31 26
        let vals := (List.range x.width).map fun j => (exactSum (addends s c x j), j % 16)
        let (bs, sh) := roundAll x.ofmt rm (bitAt x.dw0.toNat 35) vals (s.shaker c pe)
        let w := typeBits x.ofmt / 8
        let a := h.slotAddr h.tail
        let s := (s.putScratch c a (bs.flatMap (toBytes w))).setShaker c pe sh
        .next (s.modRows c fun r => { r with cmb := some { x with writing := some (s.now + 2, rm, true), addrs := AMap.put x.addrs x.next a } })
      else
        let s := s.modCore c fun k => k.setHandle x.hout ((k.handle x.hout).put 1)
        let v := staged s c x x.next
        let s := setStaged s c x x.next (if bitAt v 32 then v - 2 ^ 32 else v)
        .next (bumpRow (s.modRows c fun r => { r with cmb := some { x with next := x.next + 1, writing := none } }) c 10 1)

/-- The local contribution of a CMBADD that waits (operation 0xA6: slot h, scratch offset in ids) is copied in its last cycle (R444). -/
def endCmbAdd (s : State) (c : Nat) (w : Wait) : State :=
  match inCombine (s.core c) w.h with
  | none => endWait s c w 0 w.val
  | some x =>
    let n := x.width * typeBits x.cfmt / 8
    let s := s.putScratch c (x.at_ w.h + 320 + x.k * x.area) (s.scratch c (w.ids.headD 0) n)
    endWait (setStaged s c x w.h (setBit (staged s c x w.h) 32)) c w 0 w.val

/-- The event of a combine unit whose row is due to be written, or, with adv, whose handle is due to advance. -/
def combineDue (s : State) (c : Nat) (adv : Bool) : State :=
  match ((s.core c).rows.cmb).bind (·.writing) with
  | some (t, _, a) => if t ≤ s.now ∧ a = adv then s.after 0 .combineRowWrite [c] else s
  | none => s

/-- The combine unit's part of a cycle's beginning (R443, R444): CMBADDs that end, and the row that is written. -/
def combineEarly (s : State) (c : Nat) : State :=
  combineDue (((s.core c).waits.filter fun w => w.op == 0xA6 && decide (w.n ≤ s.now)).foldl (fun s w => endCmbAdd s c w) s) c false

/-- The combine unit's waits at the end of a cycle (R195, R443, R444): the row of slot NEXT starts once it is complete and HOUT has room, and
CMBOUTs end. -/
def combineLate (s : State) (c : Nat) : State :=
  match (s.core c).rows.cmb with
  | none => s
  | some x =>
    let k := s.core c
    let s := match x.writing with
      | some _ => s
      | none =>
        if combineReady s c x && decide (1 ≤ (k.handle x.hout).room) && !k.stopped && !popWaits s c then
          let rm := s.rnd c (fld x.dw0.toNat 34 32)
          s.modRows c fun r => { r with cmb := some { x with writing := some (s.now + 4 + ceilDiv x.width 16, rm, false) } }
        else s
    (k.waits.filter fun w => w.op == 0xA7 && decide (w.h < x.next)).foldl (fun s w =>
      match AMap.find? x.addrs w.h with
      | some a => endWait s c w 2 (scratchTok a)
      | none =>
        let (n, s) := s.freeArg
        endWait s c w 2 (Val.scalar ((Config.freeDWord n).extractLsb' 0 32))) s

/-- A row node that waits for its unit: like startWait, without a memory port. -/
def startRowWait (s : State) (q : Firing) (op h n : Nat) (ids : List Nat) : State :=
  let (outs, s) := startHeld s q
  let (id, s) := s.fresh
  let t := { q.template with data := if q.a.vec then q.a.lanes else [q.a.lane 0], side := none }
  s.modCore q.core fun k => { k with waits := k.waits ++ [⟨id, op, h, n, ids, q.lit, q.cctx, q.pe, q.slot, t, outs, false⟩] }

/-- CMBADD (R442, R444, R449): one is taken in a cycle in which the combine unit has taken nothing else. -/
def execCmbadd (_ : NF) (s : State) : Res :=
  withNode s true fun q =>
    let slot := (q.a.lane 0).toNat
    let off := (q.bl 0).toNat
    if q.e then fireError s q 4
    else if q.x then nodeFault s q 1
    else match inCombine (s.core q.core) slot with
    | none => fireFail s q 4 1
    | some x =>
      let pending := (s.core q.core).waits.any fun w => w.op == 0xA6 && w.h == slot
      if !x.loc ∨ bitAt (staged s q.core x slot) 32 ∨ pending ∨ off % 64 ≠ 0 then fireFail s q 4 1
      else if 2 ^ 21 < off + x.width * typeBits x.cfmt / 8 then fireFail s q 4 6
      else if s.now < (s.core q.core).rows.cmbAt then s
      else startRowWait (s.modRows q.core fun r => { r with cmbAt := s.now + 1 }) q 0xA6 slot (s.now + 4 + x.area / 64) [off]

/-- CMBOUT (R444): waits until NEXT is past its slot. A slot below the range, at which no row was written, gives a free value. -/
def execCmbout (_ : NF) (s : State) : Res :=
  withNode s true fun q =>
    if q.e then fireError s q 2
    else if q.x then nodeFault s q 1
    else startRowWait s q 0xA7 (q.a.lane 0).toNat 0 []

end Sys2Proof.Machine
end

