-- ==== Sys2Proof/Machine/RowBin.lean ====
section
/-! DEFINITION. The bin unit: acceptance, counting, firing, groups, drains and overflow (R431-R440, R446, R448). -/

namespace Sys2Proof.Machine

/-! ## Fields of a bin (R431) -/

/-- LAYER. -/
def Bin.layer (b : Bin) : Nat := fld b.dw0.toNat 63 48
/-- EXPERT. -/
def Bin.expert (b : Bin) : Nat := fld b.dw0.toNat 47 32
/-- TWIN. -/
def Bin.twin (b : Bin) : Nat := fld b.dw0.toNat 31 28
/-- n per token. -/
def Bin.n (b : Bin) : Nat := 16 * 2 ^ fld b.dw0.toNat 24 23
/-- First frame. -/
def Bin.frb (b : Bin) : Nat := fld b.dw0.toNat 22 16
/-- Row handle. -/
def Bin.ha (b : Bin) : Nat := fld b.dw0.toNat 15 12
/-- Weight handle of token 0. -/
def Bin.hbf (b : Bin) : Nat := fld b.dw0.toNat 11 8
/-- G: k-steps per group. -/
def Bin.ksteps (b : Bin) : Nat := fld b.dw0.toNat 7 0 + 1
/-- CAP + 1: the rows of a firing. -/
def Bin.cap (b : Bin) : Nat := fld b.dw1.toNat 50 38 + 1
/-- Row type. -/
def Bin.rfmt (b : Bin) : Nat := fld b.dw1.toNat 23 20
/-- Result type. -/
def Bin.ofmt (b : Bin) : Nat := fld b.dw1.toNat 19 16
/-- Scratch offset of the header store. -/
def Bin.hdrs (b : Bin) : Nat := fld b.dw2.toNat 20 0
/-- K: elements of a row in one k-step (R216). -/
def Bin.k (b : Bin) : Nat := if b.rfmt = 5 then 16 else if b.rfmt = 6 then 8 else 32
/-- F: frames per token. -/
def Bin.frames (b : Bin) : Nat := if b.rfmt = 5 then b.n / 8 else if b.rfmt = 6 then b.n / 2 else b.n / 16
/-- Bytes of one row in one tile. -/
def Bin.rowBytes (b : Bin) : Nat := b.k * typeBits b.rfmt / 8
/-- The first frame of token c of group g (R435). -/
def Bin.fb (b : Bin) (g c : Nat) : Nat := b.frb + (g % 2 * b.toks + c) * b.frames

/-- Bin b of a core, if configured. -/
def Core.bin (k : Core) (b : Nat) : Option Bin := AMap.find? k.rows.bins b

/-- The state with bin b of core c, if configured, changed by f. -/
def modBin (s : State) (c b : Nat) (f : Bin → Bin) : State :=
  match (s.core c).bin b with
  | none => s
  | some x => s.modRows c fun r => { r with bins := AMap.put r.bins b (f x) }

/-- The receiving bin of the pair of bin b (R434). -/
def receiver (k : Core) (b : Nat) : Option (Nat × Bin) :=
  match k.bin b with
  | none => none
  | some x =>
    if x.receiving then some (b, x) else
    match k.bin x.twin with
    | some y => if y.receiving && y.twin == b then some (x.twin, y) else none
    | none => none

/-- An event of a bin is counted, and the BT latch set when the condition of BINTRG is met (R434, R438): 0 fire, 1 seal, 2 drain. -/
def binEvent (s : State) (c b kind : Nat) : State :=
  let s := modBin s c b fun x => match kind with
    | 0 => { x with fires := x.fires + 1 }
    | 1 => { x with seals := x.seals + 1 }
    | _ => { x with drains := x.drains + 1 }
  let r := (s.core c).rows
  if r.btN = 0 ∨ r.btEv ≠ kind ∨ !bitAt r.btMask b then s else
  let s := s.modRows c fun r => { r with btCount := r.btCount + 1 }
  if r.btCount + 1 ≠ r.btN then s else s.modCore c fun k => { k with bt := true, btAt := s.now }

/-- A bin becomes OPEN and receiving (R434). -/
def openBin (s : State) (c b : Nat) : State :=
  modBin s c b fun x =>
    { x with state := .opened, receiving := true, r := 0, t0 := ((s.core c).handle x.ha).tail, timer := none, fixed := 0, groups := [] }

/-- A SEALED bin whose last result is sent becomes DRAINED (R434). -/
def drainedBin (s : State) (c b : Nat) : State :=
  match (s.core c).bin b with
  | none => s
  | some x =>
    if x.state ≠ .sealed ∨ !x.groups.isEmpty then s else
    let s := binEvent (modBin s c b fun x => { x with state := .drained }) c b 2
    if !x.closed && (receiver (s.core c) b).isNone then openBin s c b else s

/-- A firing bin seals (R434): a DRAINED twin of a pair that is not CLOSED opens. -/
def sealBin (s : State) (c b : Nat) : State :=
  match (s.core c).bin b with
  | none => s
  | some x =>
    let s := binEvent (modBin s c b fun x => { x with state := .sealed, receiving := false }) c b 1
    let s := match (s.core c).bin x.twin with
      | some y => if !x.closed && x.twin != b && y.state == .drained then openBin s c x.twin else s
      | none => s
    drainedBin s c b

/-- A bin fires (R434). -/
def fireBin (s : State) (c b : Nat) : State :=
  binEvent (modBin s c b fun x => { x with state := .firing, timer := none, fixed := 0, groups := [] }) c b 0

/-! ## Overflow (R439, R440) -/

/-- The bin unit answers a row's home with a message of its header (R420). -/
def answerHome (s : State) (c : Nat) (h : RowHdr) (bin flags : Nat) : State :=
  let h := h.setFlags (flags + h.rrBit)
  sendRow s ⟨h, false, [], c, h.homePkg, h.home, bin, 0, false, true, false, none⟩ s.now

/-- A row is dropped (R439): a null result and a record. -/
def dropRow (s : State) (c : Nat) (h : RowHdr) (reason : Nat) : State := binDrop (answerHome s c h 0 3) c 7 h reason

/-- A row is refused (R433, R439); the refusal carries the bin number that the row came with. -/
def refuseRow (s : State) (c : Nat) (m : RowMsg) : State := bumpRow (answerHome s c m.hdr m.bin 8) c 8 1

/-- A message has been taken in, and where it was sent again after a refusal its source learns it (R430): a core of this package at once, a
peer's by a message of its own (DESIGN CHOICE, log 23). -/
def tookRow (s : State) (m : RowMsg) : State :=
  if m.src < 4096 then endRetry s m.src m.hdr
  else if m.again then sendLink s m.hdr.homePkg m.dst m.hdr.home 3 16 [9, m.hdr.home, m.hdr.serial.toNat, m.hdr.slot, m.hdr.rank] []
  else s

/-- The spill configuration of a layer (R440). -/
def spillOf (k : Core) (layer : Nat) : Option (List DWord) := k.rows.spills.find? fun d => fld (d.getD 0 0).toNat 63 48 == layer

/-- Appends a row's image to its expert's spill ring (R440): none while a page is asked for. -/
def spillRow (s : State) (c : Nat) (m : RowMsg) : Option State :=
  match spillOf (s.core c) m.hdr.layer with
  | none => some (dropRow s c m.hdr 2)
  | some d =>
    let cap := fld (d.getD 2 0).toNat 63 32
    let esz := fld (d.getD 2 0).toNat 31 0
    let ring := (d.getD 1 0).toNat + m.hdr.expert * (64 + cap * esz)
    match reach s c .virt ring 8 true with
    | .miss | .wait => none
    | .bad x => some (s.raise { cause := x, origin := 7, core := c, addr := ring })
    | .ok l =>
      let n := ofBytes (takeBytes s c l)
      let image := m.hdr.bytes ++ List.replicate 32 0 ++ m.payload
      if n < cap then
        match reach s c .virt (ring + 64 + n * esz) image.length true with
        | .miss | .wait => none
        | .bad x => some (s.raise { cause := x, origin := 7, core := c, addr := ring + 64 + n * esz })
        | .ok e => some (bumpRow (giveBytes (giveBytes (touchUnit (tookRow s m) c .row l false) c .row l (toBytes 8 (n + 1))) c .row e image) c 7 1)
      else some (dropRow (giveBytes (touchUnit s c .row l false) c .row l (toBytes 8 (n + 1))) c m.hdr 2)

/-- Where a spill of a row may have to ask for a page. -/
def spillProbe (s : State) (c : Nat) (m : RowMsg) : State :=
  match spillOf (s.core c) m.hdr.layer with
  | none => s
  | some d =>
    let cap := fld (d.getD 2 0).toNat 63 32
    let esz := fld (d.getD 2 0).toNat 31 0
    let ring := (d.getD 1 0).toNat + m.hdr.expert * (64 + cap * esz)
    if probing s c .row then s
    else match reach s c .virt ring 8 true with
      | .ok l => probe s c (.seq 67) .row true (ring + 64 + ofBytes (takeBytes s c l) * esz) m.hdr.size
      | .wait => s
      | _ => probe s c (.seq 67) .row true ring 8

/-- A row overflows by its bin's POL and EXT (R439): none while a page is asked for. -/
def overflowRow (s : State) (c : Nat) (x : Bin) (m : RowMsg) : Option State :=
  match fld x.dw1.toNat 9 8 with
  | 0 => some (dropRow s c m.hdr 1)
  | 1 => some (bumpRow (answerHome s c m.hdr 0 4) c 5 1)
  | _ => if bitAt x.dw1.toNat 10 then some (refuseRow s c m) else spillRow s c m

/-! ## Acceptance and counting (R432, R433) -/

/-- The BINNX that waits for an injected image is done. -/
def injected (s : State) (c id : Nat) : State :=
  match (s.core c).waits.find? fun w => w.op == 0xA4 && w.n == id with
  | some w => endWait s c w 0 w.val
  | none => s

/-- Whether a window has seen a SERIAL (R433). -/
def Window.seen (w : Window) (n : BitVec 32) : Bool :=
  let d := (w.hi - n).toNat
  w.any && decide (d < 256) && w.mask.getLsbD d

/-- A window that records a SERIAL (R433). -/
def Window.note (w : Window) (n : BitVec 32) : Window :=
  let up := (n - w.hi).toNat
  let w : Window := if !w.any then { w with any := true, hi := n, mask := 0 }
    else if up < 2 ^ 31 then { w with hi := n, mask := if 256 ≤ up then 0 else w.mask <<< up } else w
  let d := (w.hi - n).toNat
  if d < 256 then { w with mask := w.mask ||| BitVec.ofNat 256 (2 ^ d) } else w

/-- The window of a message's key, cleared when it is new (R433). -/
def windowFor (r : Rows) (h : RowHdr) : Window :=
  match r.windows.find? fun w => w.layer == h.layer && w.pkg == h.homePkg && w.home == h.home with
  | some w => w
  | none => ⟨h.layer, h.homePkg, h.home, false, 0, 0⟩

/-- The windows with one as the most recently used of 256. -/
def touchWindow (r : Rows) (w : Window) : Rows :=
  let rest := r.windows.filter fun x => !(x.layer == w.layer && x.pkg == w.pkg && x.home == w.home)
  { r with windows := rest.drop (rest.length - 255) ++ [w] }

/-- Rows a pair has accepted and not yet counted (R433). -/
def uncounted (k : Core) (b : Nat) : Nat :=
  let t := match k.bin b with | some x => x.twin | none => b
  (k.rows.accepted.filter fun p => p.2.2.1 == b || p.2.2.1 == t).length

/-- The bin that a message addresses (R433): the flit's, or the lowest bound to an injected image's layer and expert. -/
def boundBin (k : Core) (m : RowMsg) : Option (Nat × Bin) :=
  let ok := fun (x : Bin) => x.layer == m.hdr.layer && x.expert == m.hdr.expert
  if m.bin < 16 then (k.bin m.bin).bind fun x => if ok x then some (m.bin, x) else none
  else (List.range 16).findSome? fun b => (k.bin b).bind fun x => if ok x then some (b, x) else none

/-- Whether a core runs a launch whose row units may serve messages. -/
def servesRows (s : State) (c : Nat) : Bool :=
  match s.launchOf c with
  | some (_, l) => !(s.core c).stopped && l.gstate != .released && l.gstate != .reserved
  | none => false

/-- DISPATCH_ARRIVAL (R23, R420, R433, R439): the message [id] reaches the bin unit of its core, from the network or from BINNX. -/
def execDispatchArrival (s : State) : Res :=
  let id := s.arg 0
  withMsg s .dispatchArrival fun s m t =>
    let c := m.dst
    let h := m.hdr
    if m.malformed 0 then injected (binDrop t c 7 h 3) c id else
    match (if servesRows t c then boundBin (t.core c) m else none) with
    | none => injected (refuseRow t c m) c id
    | some (b, x) =>
      let w := windowFor (t.core c).rows h
      let t1 := t.modRows c fun r => touchWindow r w
      if w.seen h.serial then injected (bumpRow (tookRow t1 m) c 2 1) c id
      else if h.fmt ≠ x.rfmt ∨ h.len + 1 ≠ x.ksteps * x.k then injected (dropRow t1 c h 3) c id
      else
        let room : Bool := match receiver (t1.core c) b with
          | some (_, y) => !y.closed && (y.state == .opened || y.state == .firing) && decide (y.r + uncounted (t1.core c) b < y.cap)
          | none => false
        if room then
          let due := t1.now + ceilDiv h.size 64
          let t2 := t1.modRows c fun r => { touchWindow r (w.note h.serial) with accepted := AMap.put r.accepted id (m, b, due) }
          bumpRow (tookRow t2 m) c 1 1
        else match overflowRow t1 c x m with
          | some t2 => injected t2 c id
          | none => (spillProbe { s with msgs := AMap.put s.msgs id { m with due := s.now + 16 } } c m).after 16 .dispatchArrival [id]

/-- Writes a counted row into its group's slots and its header into the store (R432). -/
def placeRow (s : State) (c : Nat) (x : Bin) (m : RowMsg) : State :=
  let i := x.r
  let hd := (s.core c).handle x.ha
  let s := s.putScratch c (x.hdrs + 32 * i) m.hdr.bytes
  (List.range x.ksteps).foldl (fun s j =>
    let slot := (x.t0 + i / 16 * x.ksteps + j) % (hd.cnt + 1)
    s.putScratch c (hd.slotAddr slot + 64 + i % 16 * x.rowBytes) ((m.payload.drop (j * x.rowBytes)).take x.rowBytes)) s

/-- ROW_COUNTED (R432-R434, R437): the accepted row [core, id] has arrived whole and is counted in the pair's receiving bin. -/
def execRowCounted (s : State) : Res :=
  let c := s.arg 0
  let id := s.arg 1
  match AMap.find? (s.core c).rows.accepted id with
  | none => .next s
  | some (m, b, due) =>
    if s.now < due then .next s else
    let t := s.modRows c fun r => { r with accepted := AMap.del r.accepted id }
    match receiver (t.core c) b, (t.core c).bin b with
    | some (y, x), _ =>
      if x.closed ∨ x.cap ≤ x.r then
        match overflowRow t c x m with
        | some t => .next (injected t c id)
        | none => .next (spillProbe s c m)
      else
        let t := placeRow t c x m
        let (cnt, tmr) := x.trigger t.now
        let t := modBin t c y fun x =>
          { x with r := x.r + 1, timer := if x.state = .opened ∧ x.r = 0 ∧ tmr ≠ 0 then some (t.now + tmr) else x.timer }
        let t := injected t c id
        .next (if x.state = .opened ∧ cnt ≤ x.r + 1 then fireBin t c y else t)
    | none, some x =>
      (match overflowRow t c x m with
       | some t => .next (injected t c id)
       | none => .next (spillProbe s c m))
    | none, none => .next (injected t c id)

/-- BIN_TIMER_EXPIRY (R434, R437): the timer of bin [core, bin] expires: an OPEN bin fires. -/
def execBinTimerExpiry (s : State) : Res :=
  let c := s.arg 0
  let b := s.arg 1
  match (s.core c).bin b with
  | none => .next s
  | some x =>
    match x.timer with
    | some t => .next (if t ≤ s.now ∧ x.state = .opened then fireBin s c b else s)
    | none => .next s

/-! ## Groups (R435, R436) -/

/-- Whether the next group of a bin can be fixed now (R434, R435), its handle having room for its slots (R194). -/
def canFix (k : Core) (x : Bin) : Bool :=
  let g := x.fixed
  x.state == .firing && decide (16 * g < x.r) && x.groups.all (fun y => y.adv && y.g % 2 != g % 2)
    && decide ((k.mx.xq x.xq).length + x.toks ≤ 8) && decide (x.ksteps ≤ (k.handle x.ha).room)

/-- The token c of group g of a bin (R435): OP 2, LST 1, TAG the number of fires. -/
def groupToken (b : Nat) (x : Bin) (g c id since : Nat) : XTok :=
  let w := 2 + fld x.dw0.toNat 24 23 * 2 ^ 5 + (x.ksteps - 1) * 2 ^ 7 + 2 ^ 16 + x.fb g c * 2 ^ 17 + x.ha * 2 ^ 24
    + (x.hbf + c) % 16 * 2 ^ 28 + x.fires % 2 ^ 16 * 2 ^ 48
  ⟨id, dword w, 0, false, 0, some (b, g), since⟩

/-- GROUP_FIX (R434, R435, R437): the next group of bin [core, bin] is fixed: its tile headers are written, its slots produced and its
tokens take their queue entries. -/
def execGroupFix (s : State) : Res :=
  let c := s.arg 0
  let b := s.arg 1
  match (s.core c).bin b with
  | none => .next s
  | some x =>
    if !canFix (s.core c) x then .next s else
    let g := x.fixed
    let rows := min x.r (16 * g + 16) - 16 * g
    let hd := (s.core c).handle x.ha
    let head := x.rfmt + (rows - 1) * 2 ^ 8 + (x.k - 1) * 2 ^ 20
    let s := (List.range x.ksteps).foldl (fun s j =>
      s.putScratch c (hd.slotAddr ((x.t0 + g * x.ksteps + j) % (hd.cnt + 1))) (toBytes 8 head)) s
    let s := s.modCore c fun k => k.setHandle x.ha ((k.handle x.ha).put x.ksteps)
    let s := (List.range x.toks).foldl (fun s i =>
      let (id, s) := s.fresh
      s.modMx c fun m => m.setXq x.xq (enterXq (groupToken b x g i id (s.now + 4 + x.ksteps)) (m.xq x.xq))) s
    let s := modBin s c b fun x => { x with fixed := g + 1, groups := x.groups ++ [⟨g, rows, x.toks, x.toks, false, none⟩] }
    .next (if rows < 16 then sealBin s c b else s)

/-- BIN_GROUP_ADVANCE (R434, R435, R437): the last k-steps of the newest group of bin [core, bin] have read their tiles: its slots are
consumed once its handle's fill covers them (R194), and a full group with no row beyond it seals the bin. -/
def execBinGroupAdvance (s : State) : Res :=
  let c := s.arg 0
  let b := s.arg 1
  match (s.core c).bin b with
  | none => .next s
  | some x =>
    match x.groups.find? fun y => !y.adv && y.toRead == 0 with
    | none => .next s
    | some y =>
      if ((s.core c).handle x.ha).fill < x.ksteps then .next s else
      let s := s.modCore c fun k => k.setHandle x.ha ((k.handle x.ha).get x.ksteps)
      let s := modBin s c b fun x => { x with groups := x.groups.map fun z => if z.g = y.g then { z with adv := true } else z }
      let s := if x.state = .firing ∧ x.fixed = y.g + 1 ∧ x.r ≤ 16 * (y.g + 1) then sealBin s c b else s
      .next s

/-- The drained values of row q of a group, token by token (R436). -/
def rowVals (k : Core) (x : Bin) (g q : Nat) (sc : List XVal) : List (XVal × Bool) :=
  (List.range x.toks).flatMap fun c =>
    let fb := x.fb g c
    let cl := (k.frame fb).cls
    (List.range x.n).map fun j =>
      let f := k.frame (fb + q / cl.bh * (x.n / cl.bw) + j / cl.bw)
      (f.elem (q % cl.bh * cl.bw + j % cl.bw)).drain cl f.fexp sc

/-- BIN_DRAIN (R62, R64, R434, R436): the frames of group [core, bin, group] have settled and its rows are drained, rounded and sent; or,
once the last result has left, the group is done. A drain waits for frames that accumulate, and faults UNINIT on EMPTY and SPILLED ones. -/
def execBinDrain (s : State) : Res :=
  let c := s.arg 0
  let b := s.arg 1
  match (s.core c).bin b with
  | none => .next s
  | some x =>
    match x.groups.find? fun y => y.g == s.arg 2 with
    | none => .next s
    | some y =>
      match y.free with
      | some t =>
        if s.now < t then .next s
        else .next (drainedBin (modBin s c b fun x => { x with groups := x.groups.filter fun z => z.g != y.g }) c b)
      | none =>
        if y.toSettle ≠ 0 then .next s else
        let k := s.core c
        let nf := x.toks * x.frames
        let frames := k.framesOf (x.fb y.g 0) nf
        if !oneClass frames then .next (s.raise { cause := 4, origin := 7, core := c })
        else if frames.any (·.void) then .next (s.raise { cause := 2, origin := 7, core := c })
        else if frames.any (·.state == .accumulating) || busyFrames k (x.fb y.g 0) nf then .next s else
        match (if s.sod c then none else firstOvf k (x.fb y.g 0) nf) with
        | some (f, e) => .next (s.raise { cause := 5, origin := 7, core := c, detail := f * 256 + e })
        | none =>
          let hdr := fun (q : Nat) => rowHdrOf (s.scratch c (x.hdrs + 32 * (16 * y.g + q)) 32)
          let sc := fun (q : Nat) => f32 (hdr q).weight :: (if bitAt x.dw1.toNat 11 then [f32 (hdr q).ascale] else [])
          let vals := (List.range y.rows).flatMap fun q => rowVals k x y.g q (sc q)
          let ope := fld x.dw1.toNat 37 32
          let rm := s.rnd c (fld x.dw1.toNat 14 12)
          let bs := drainRound x.ofmt rm (bitAt x.dw1.toNat 15) vals 0 (s.shaker c ope)
          let s := if rm = 5 then s.setShaker c ope (shakeOn vals.length 0 (s.shaker c ope)) else s
          let s := s.modCore c fun k => k.mapFrames (x.fb y.g 0) nf fun f => { f with state := .drained }
          let w := typeBits x.ofmt / 8
          let len := x.toks * x.n
          let t := s.now + max 6 nf
          let s := (List.range y.rows).foldl (fun s q =>
            let h := hdr q
            let pay := ((bs.drop (q * len)).take len).flatMap (toBytes w)
            let pay := pay ++ List.replicate (payloadBytes x.ofmt (len - 1) - pay.length) 0
            let h : RowHdr := { h.setFlags (1 + h.rrBit) with d3 := dword (x.ofmt * 2 ^ 32 + (len - 1)) }
            sendRow s ⟨h, false, pay, c, h.homePkg, h.home, 0, 0, false, true, false, none⟩ (t + q)) s
          let s := bumpRow s c 9 y.rows
          .next (modBin s c b fun x => { x with groups := x.groups.map fun z => if z.g = y.g then { z with free := some (t + y.rows - 1) } else z })

/-! ## The unit's cycle (R437) -/

/-- The timers of a core's bins that expire in this cycle, by bin. -/
def timersDue (s : State) (c : Nat) : State :=
  (s.core c).rows.bins.foldl (fun s p => match p.2.timer with
    | some t => if t ≤ s.now then s.after 0 .binTimerExpiry [c, p.1] else s
    | none => s) s

/-- The drains of a core's bins that start or end in this cycle, by bin and group. -/
def drainsDue (s : State) (c : Nat) : State :=
  (s.core c).rows.bins.foldl (fun s p =>
    p.2.groups.foldl (fun s y =>
      let due := match y.free with | some t => decide (t ≤ s.now) | none => y.toSettle == 0
      if due then s.after 0 .binDrain [c, p.1, y.g] else s) s) s

/-- The beginning of a cycle for a core's row units: rows counted, timers, refusals, dispatch and combine. -/
def rowsEarly (s : State) (c : Nat) : State :=
  let r := (s.core c).rows
  let s := if (s.core c).stopped then s else
    let s := r.accepted.foldl (fun s p => if p.2.2.2 ≤ s.now then s.after 0 .rowCounted [c, p.1] else s) s
    let s := timersDue s c
    r.retry.foldl (fun s x =>
      if x.first + x.bound ≤ s.now then s.after 0 .refusalWaitExpiry [c, x.id]
      else if x.next ≤ s.now then s.after 0 .refusalRetry [c, x.id] else s) s
  combineEarly (dispCycle s c) c

/-- A trigger that applies from this cycle on stands in its bin, and fires an OPEN bin that has its rows (R434, R438). -/
def trigBin (s : State) (c b : Nat) : State :=
  match (s.core c).bin b with
  | none => s
  | some x =>
    let (cnt, tmr) := x.trigger s.now
    let s := match x.trig with
      | some (t, _, _) => if t ≤ s.now then modBin s c b fun x => { x with cnt := cnt, tmr := tmr, trig := none } else s
      | none => s
    if x.state = .opened ∧ cnt ≤ x.r then fireBin s c b else s

/-- The end of a cycle for a core's bin unit (R195, R437), part 1: triggers and consumer advances. -/
def rowsAdvance (s : State) (c : Nat) : State :=
  if (s.core c).stopped then s else
  let s := (s.core c).rows.bins.foldl (fun s p => trigBin s c p.1) s
  (s.core c).rows.bins.foldl (fun s p => if p.2.groups.any fun y => !y.adv && y.toRead == 0 then s.after 0 .binGroupAdvance [c, p.1] else s) s

/-- Part 2: group fixes, and the combine unit's advance. -/
def rowsFix (s : State) (c : Nat) : State :=
  let s := combineDue s c true
  if (s.core c).stopped then s else
  (s.core c).rows.bins.foldl (fun s p => if canFix (s.core c) p.2 then s.after 0 .groupFix [c, p.1] else s) s

/-- Part 3: drains; BINWTs that are met, and the combine unit's waits. -/
def rowsLate (s : State) (c : Nat) : State :=
  let s := combineLate s c
  if (s.core c).stopped then s else
  let s := drainsDue s c
  ((s.core c).waits.filter fun w => w.op == 0xA5).foldl (fun s w =>
    let n := match (s.core c).bin (w.h % 16) with
      | some x => (match w.h / 16 with | 0 => x.fires | 1 => x.seals | _ => x.drains)
      | none => 0
    if w.n ≤ n then endWait s c w 2 (Val.scalar (word n)) else s) s

/-! ## BINNX, BINWT and RWST (R446, R448) -/

/-- BINNX (R446, R449): the image at a local scratch offset enters the core's own bin unit. -/
def execBinnx (_ : NF) (s : State) : Res :=
  withNode s true fun q =>
    let off := (q.a.lane 0).toNat
    let h := rowHdrOf (s.scratch q.core off 32)
    if q.e then fireError s q 4
    else if q.x then nodeFault s q 1
    else if off % 64 ≠ 0 ∨ 2 ^ 21 < off + 64 ∨ 2 ^ 21 < off + h.size then fireFail s q 4 6
    else
      let rsv := (s.scratch q.core (off + 32) 32).any (· != 0)
      let (id, s) := s.fresh
      let m : RowMsg := ⟨h, rsv, s.scratch q.core (off + 64) (h.size - 64), q.core, 0, q.core, 16, s.now + 4, false, false, true, some (64 * q.pe + q.slot)⟩
      let s := startRowWait s q 0xA4 0 id []
      { s with msgs := AMap.put s.msgs id m }.after 4 .dispatchArrival [id]

/-- BINWT (R446, R449). -/
def execBinwt (_ : NF) (s : State) : Res :=
  withNode s true fun q =>
    let a := (q.a.lane 0).toNat
    if q.e then fireError s q 2
    else if q.x then nodeFault s q 1
    else if fld a 5 4 = 3 ∨ fld a 7 6 ≠ 0 then fireFail s q 2 1
    else startRowWait s q 0xA5 (a % 64) (fld a 31 8) []

/-- The code of a bin's state (R448). -/
def BState.code : BState → Nat
  | .opened => 0
  | .firing => 1
  | .sealed => 2
  | .drained => 3

/-- The sixteen lanes of RWST (R448). -/
def rowStatus (k : Core) : List Word :=
  let r := k.rows
  let sum := fun (f : Nat × Bin → Nat) => r.bins.foldl (fun n p => n + f p) 0
  ((List.range 12).map fun i => word (AMap.get r.cnt i 0)) ++
    [word (match r.cmb with | some x => x.next - x.base | none => 0), word (sum fun p => p.2.state.code * 2 ^ (2 * p.1)),
     word (sum fun p => b2n p.2.receiving * 2 ^ p.1 + b2n p.2.closed * 2 ^ (16 + p.1)), 0]

/-- RWST (R448, R449). -/
def execRwst (_ : NF) (s : State) : Res :=
  withNode s true fun q =>
    if q.e then fireError s q 2
    else if q.x then nodeFault s q 1
    else finish s q 2 (Val.vec16 (rowStatus (s.core q.core)))

end Sys2Proof.Machine
end

