-- ==== Sys2Proof/Machine/Link.lean ====
section
/-! DEFINITION. Link ports: states, flits, retry, failover, routes, time and the peers' requests (R450-R458). -/

namespace Sys2Proof.Machine

/-! ## Ports (R451) -/

/-- A port before it is enabled (R451); HOPS 15: no path to the time master (R461). -/
def Port.reset : Port where
  state := .down
  since := 0
  en := false
  peer := 0
  pport := 0
  att := false
  lanes := 0
  retrains := []
  nretrain := 0
  replays := 0
  hops := 15
  offset := 0
  txSeq := 0
  rxSeq := 0
  naked := false
  replay := []
  tries := 0
  lastAck := 0
  credits := []
  rx := []
  parts := []

/-- Port p (R450). -/
def State.port (s : State) (p : Nat) : Port := AMap.get s.ports p Port.reset

/-- The state with port p changed by f. -/
def State.modPort (s : State) (p : Nat) (f : Port → Port) : State := { s with ports := AMap.put s.ports p (f (s.port p)) }

/-- The codes of a port's state (R461). -/
def PState.code : PState → Nat
  | .down => 0
  | .training => 1
  | .attesting => 2
  | .up => 3
  | .retraining => 4
  | .failed => 5

/-- A port's status word (R461). -/
def Port.status (k : Port) : Nat :=
  k.peer % 256 * 2 ^ 56 + k.pport % 16 * 2 ^ 52 + min 255 k.nretrain * 2 ^ 40 + k.hops % 256 * 2 ^ 32 + min 65535 k.replays * 2 ^ 16
    + k.lanes % 16 * 16 + b2n k.att * 8 + k.state.code

/-- The UP and FAILED masks (R461). -/
def linkSummary (s : State) : Nat :=
  (List.range 16).foldl (fun n p => n + (match (s.port p).state with | .up => 2 ^ p | .failed => 2 ^ (16 + p) | _ => 0)) 0

/-- The package's own number (R456, R458). -/
def State.self (s : State) : Nat := s.topo.pkg.toNat

/-- Puts a flit on a port's lines. -/
def toWire (s : State) (p : Nat) (f : Flit) : State := { s with wire := s.wire ++ [(p, f)] }

/-- A flit of a kind other than data: 1 ack, 2 nak, 3 credit, 4 time, 5 attest (R452). -/
def sendCtl (s : State) (p kind : Nat) (about : List Nat) : State :=
  let k := s.port p
  toWire s p ⟨kind, 0, k.rxSeq - 1, true, s.self, k.peer, 0, 0, true, [], 0, 0, 0, about, 0, 0⟩

/-- Waits 1,024 cycles from now for an acknowledgement (R453). -/
def armReplay (s : State) (p : Nat) : State :=
  (s.modPort p fun k => { k with lastAck := s.now }).after 1024 .replayTimeout [p, s.now]

/-- The unacknowledged flits of a port that carries traffic no more go ahead of all that wait, to another port of their route (R454). -/
def failover (s : State) (p : Nat) : State :=
  let l := (s.port p).replay
  ({ s with outbox := l ++ s.outbox }).modPort p fun k => { k with replay := [], credits := [], hops := 15 }

/-- A port fails (R451). -/
def failPort (s : State) (p : Nat) : State :=
  failover (s.modPort p fun k => { k with state := .failed, since := s.now }) p

/-- A port is DOWN (R451): it has no peer and no lanes. -/
def downPort (s : State) (p : Nat) : State :=
  let s := failover s p
  s.modPort p fun k => { Port.reset with en := k.en, since := s.now, rx := k.rx }

/-- Training starts (R451). -/
def trainPort (s : State) (p : Nat) : State :=
  (s.modPort p fun k => { k with state := .training, since := s.now }).after (2 ^ 24) .trainingTimeout [p, s.now]

/-- A port retrains, or fails at the fourth time within 2^26 cycles (R451). -/
def retrainPort (s : State) (p : Nat) : State :=
  let l := s.now :: (s.port p).retrains.filter fun t => decide (s.now < t + 2 ^ 26)
  let s := s.modPort p fun k => { k with state := .retraining, since := s.now, retrains := l, hops := 15 }
  if 4 ≤ l.length then failPort s p else s.after (2 ^ 22) .retrainTimeout [p, s.now]

/-- Go-back-N: the replay buffer is sent again in order; a flit replayed 8 times without acknowledgement makes the port retrain (R451,
R453). -/
def resendAll (s : State) (p : Nat) : State :=
  let k := s.port p
  if k.replay.isEmpty then s else
  let s := k.replay.foldl (fun s f => toWire s p { f with ack := k.rxSeq - 1 }) s
  let s := s.modPort p fun k => { k with replays := k.replays + k.replay.length, tries := k.tries + 1 }
  if 8 ≤ k.tries + 1 then retrainPort s p else armReplay s p

/-- How many flits from the oldest on an acknowledgement up to seq retires; none when seq is not in the buffer (R453). -/
def retired (l : List Flit) (seq : BitVec 12) : Nat :=
  match (List.range l.length).find? fun i => (l[i]?.map (·.fseq)) == some seq with
  | some i => i + 1
  | none => 0

/-- An acknowledgement of every flit up to seq (R453). -/
def acked (s : State) (p : Nat) (seq : BitVec 12) : State :=
  let k := s.port p
  let n := retired k.replay seq
  if n = 0 then s else
  let s := s.modPort p fun k => { k with replay := k.replay.drop n, tries := 0, lastAck := s.now }
  if n < k.replay.length then armReplay s p else s

/-! ## Events of a port's state (R451) -/

/-- Whether the topology record lists a port. -/
def listed (s : State) (p : Nat) : Bool := s.topo.ports.any fun x => x.1 == p

/-- LKCTL_EN_SET (R451): EN of port [p] is set. -/
def execLkctlEnSet (s : State) : Res :=
  let p := s.arg 0
  if 16 ≤ p then .next s else
  let s := s.modPort p fun k => { k with en := true }
  .next (if (s.port p).state = .down ∧ listed s p then trainPort s p else s)

/-- LKCTL_EN_CLEAR (R451): EN of port [p] is cleared. -/
def execLkctlEnClear (s : State) : Res :=
  let p := s.arg 0
  if 16 ≤ p then .next s else
  let s := s.modPort p fun k => { k with en := false }
  .next (if (s.port p).state = .failed then s else downPort s p)

/-- LANE_LOCK (R451, R458): all four lanes of port [p] lock and the FEC aligns: attestation begins with the nonce and the certificates,
or a port that retrained goes on. -/
def execLaneLock (s : State) : Res :=
  let p := s.arg 0
  let k := s.port p
  match k.state with
  | .training =>
    let s := s.modPort p fun k => { k with state := .attesting, since := s.now, lanes := 4, txSeq := 0, rxSeq := 0, naked := false,
                                           replay := [], tries := 0, parts := [] }
    .next (sendCtl (sendCtl s p 5 [0]) p 5 [1])
  | .retraining =>
    let s := s.modPort p fun k => { k with state := .up, since := s.now, lanes := 4, nretrain := k.nretrain + 1, tries := 0 }
    .next ((resendAll s p).after (2 ^ 16) .timeFlitSend [p, s.now])
  | _ => .next (s.modPort p fun k => { k with lanes := 4 })

/-- LANE_LOCK_LOST (R451): of port [p] only [n] lanes are still locked. -/
def execLaneLockLost (s : State) : Res :=
  let p := s.arg 0
  let up := (s.port p).state = .up
  let s := s.modPort p fun k => { k with lanes := min 3 (s.arg 1) }
  .next (if up then retrainPort s p else s)

/-- Whether a timeout event [p, since] still applies; it is looked at again after the rest of its cycle (R451), marked by a third
number. -/
def timeoutOf (s : State) (i : Instr) (st : PState) (act : State → Nat → State) : Res :=
  let p := s.arg 0
  if (s.port p).state ≠ st ∨ (s.port p).since ≠ s.arg 1 then .next s
  else if s.args.length = 2 then .next (s.after 0 i [p, s.arg 1, 1])
  else .next (act s p)

/-- TRAINING_TIMEOUT (R451): no lock within 2^24 cycles. -/
def execTrainingTimeout (s : State) : Res :=
  timeoutOf s .trainingTimeout .training fun s p => (downPort s p).after (2 ^ 24) .trainingRetry [p, s.now]

/-- TRAINING_RETRY (R451). -/
def execTrainingRetry (s : State) : Res :=
  timeoutOf s .trainingRetry .down fun s p => if (s.port p).en ∧ listed s p then trainPort s p else s

/-- RETRAIN_TIMEOUT (R451): no lock within 2^22 cycles. -/
def execRetrainTimeout (s : State) : Res := timeoutOf s .retrainTimeout .retraining failPort

/-- ATTEST_FLIT (R458): part [part] of the peer's evidence reaches port [p]: 0 its nonce, which this side's measurements answer, 1 the
certificates of package and port [peer, pport], 2 the measurements. -/
def execAttestFlit (s : State) : Res :=
  let p := s.arg 0
  let n := s.arg 1
  if (s.port p).state ≠ .attesting then .next s else
  let s := s.modPort p fun k => { k with parts := k.parts ++ [n] }
  .next (if n = 0 then sendCtl s p 5 [2]
    else if n = 1 then s.modPort p fun k => { k with peer := s.arg 2, pport := s.arg 3 }
    else s)

/-- ATTESTATION (R451, R458): both sides' evidence is judged: a port goes UP only if all four signatures verify, the peer is the
topology record's neighbour on it, and the peer has accepted too. -/
def execAttestation (s : State) : Res :=
  match s.cur with
  | .ev (.evidence p e) =>
    if (s.port p).state ≠ .attesting then .next s
    else if e.certEd && e.certMl && e.measEd && e.measMl && e.accepted && s.topo.ports.contains (p, e.peer) then
      let s := s.modPort p fun k =>
        { k with state := .up, since := s.now, peer := e.peer, pport := e.pport, att := true, nretrain := 0, replays := 0,
                 credits := [(0, 64), (1, 64), (2, 64), (3, 64)] }
      .next (s.after (2 ^ 16) .timeFlitSend [p, s.now])
    else .next (failPort { s with mgmtLog := s.mgmtLog ++ [(2, p)] } p)
  | _ => .next s

/-- REPLAY_TIMEOUT (R453): 1,024 cycles without an acknowledgement at port [p] since [t]; after the rest of the cycle. -/
def execReplayTimeout (s : State) : Res :=
  let p := s.arg 0
  let k := s.port p
  if k.state ≠ .up ∨ k.lastAck ≠ s.arg 1 ∨ k.replay.isEmpty then .next s
  else if s.args.length = 2 then .next (s.after 0 .replayTimeout [p, s.arg 1, 1])
  else .next (resendAll s p)

/-! ## Sending (R452, R454, R455) -/

/-- The port a flit leaves by (R455): the one its source and destination name, or the next of its route entry that carries traffic
(R454). -/
def routePort (s : State) (f : Flit) : Option Nat :=
  let e := (AMap.get s.routes (256 * f.hub + f.dpkg) 0).toNat
  let np := fld e 62 60
  if !bitAt e 63 ∨ 4 < np then none else
  ((List.range np).map fun i => let j := ((f.src ^^^ f.dst) + i) % np; fld e (4 * j + 3) (4 * j)).find? (portLive s)

/-- A LINK_DOWN record that no context raised: that of a message a hub forwards (R455). -/
def linkDownHere (s : State) (hub : Nat) (f : Flit) : State :=
  let e := (AMap.get s.routes (256 * hub + f.dpkg) 0).toNat
  let r : Rec := { cause := 14, origin := 11, detail := routeSlot e f.src f.dst + f.dpkg % 256 * 256 }
  { s with faultLog := s.faultLog ++ [r.dws 0 s.count] }

/-- A flit without a path is discarded, and with a message's last flit the message (R454): a memory request faults BUS_RANGE at its
requester, a row message counts as a drop at source with reason 4. -/
def discardFlit (s : State) (f : Flit) : State :=
  if !f.last then s
  else if f.spkg ≠ s.self then linkDownHere s f.hub f
  else match f.about with
    | [0, d0, d1, d2, d3, _] =>
      let h : RowHdr := ⟨dword d0, dword d1, dword d2, dword d3⟩
      let s := linkDown s f.src f.dpkg f.dst
      if h.flags % 16 = 0 then dropAtSource s f.src h 4 else binDrop s f.src 7 h 4
    | 1 :: num :: _ =>
      match List.find? (fun (a : Nat × Access) => a.2.stage == AStage.away num) s.accs with
      | some (id, a) => faultAccess (linkDown s a.core f.dpkg f.dst) id a 7 ((a.todo.map (·.addr)).headD 0)
      | none => s
    | _ => s

/-- Takes a flit of the outbox: sent, kept behind what its channel waits for, or discarded. blocked lists 4 * port + channel. -/
def pumpFlit (r : State × List Flit × List Nat) (f : Flit) : State × List Flit × List Nat :=
  let (s, kept, blocked) := r
  match routePort s f with
  | none => (discardFlit s f, kept, blocked)
  | some p =>
    let k := s.port p
    let key := 4 * p + f.vc
    let credit := AMap.get k.credits f.vc 0
    if k.state ≠ .up ∨ credit = 0 ∨ 1024 ≤ k.replay.length ∨ blocked.contains key then (s, kept ++ [f], key :: blocked)
    else
      let f : Flit := { f with fseq := k.txSeq, ack := k.rxSeq - 1 }
      let s := toWire s p f
      let s := s.modPort p fun k => { k with txSeq := k.txSeq + 1, replay := k.replay ++ [f], credits := AMap.put k.credits f.vc (credit - 1) }
      (if k.replay.isEmpty then armReplay s p else s, kept, blocked)

/-- The ports take what waits for them (R452, R455). -/
def pumpLinks (s : State) : State :=
  if s.outbox.isEmpty then s else
  let (t, kept, _) := s.outbox.foldl pumpFlit (s, [], [])
  { t with outbox := kept }

/-! ## Receiving (R452-R455) -/

/-- The row message in received bytes (R419, R421). -/
def rowMsgOf (s : State) (f : Flit) (b : List Byte) : RowMsg :=
  let h := rowHdrOf b
  ⟨h, ((b.drop 32).take 32).any (· != 0), (b.drop 64).take (h.size - 64), 4096 * (1 + f.spkg) + f.src, s.self, f.dst, f.bin, s.now, f.about.getD 5 0 == 1,
    f.vc == 3, true, none⟩

/-- The response to request num of this package: status 0, or the cause of its fault (R454, R457). -/
def takeResponse (s : State) (num st : Nat) (b : List Byte) : State :=
  match List.find? (fun (a : Nat × Access) => a.2.stage == AStage.away num) s.accs with
  | none => s
  | some (id, a) =>
    match a.todo with
    | [] => s
    | p :: r =>
      if st ≠ 0 then faultAccess s id a st p.addr else
      let a : Access := { a with stage := .sent, todo := r, got := if a.kind = .store then [] else putAt a.got p.at_ (b.take p.len) }
      if r.isEmpty then performed s id a else { s with accs := AMap.put s.accs id a }.after 1 .perform [id]

/-- A message for this package has come whole: it happens as what it says it is. -/
def deliverMsg (s : State) (p : Nat) (f : Flit) (b : List Byte) : State :=
  match f.about with
  | 0 :: _ =>
    let m := rowMsgOf s f b
    let (id, s) := s.fresh
    { s with msgs := AMap.put s.msgs id m }.after 0 (arrivalOf m) [id]
  | [1, num, op, off, len] => { s with agenda := insertDue s.now .peerRequest (.peer ⟨p / 8, f.spkg, num, off, op, len, b, 0⟩) s.agenda }
  | [2, num, st] => takeResponse s num st b
  | 3 :: l => s.after 0 .ready l
  | 4 :: l => s.after 0 .go l
  | 5 :: l => s.after 0 .abandon l
  | 6 :: l => s.after 0 .arrive l
  | 7 :: l => s.after 0 .trip l
  | [9, c, serial, slot, rank] => endRetryOf s c (BitVec.ofNat 32 serial) slot rank
  | 8 :: l => { s with agenda := insertDue s.now .collectiveImage (.bytes l b) s.agenda }
  | _ => s

/-- The port that holds the flits of a message that have come: one that failed over goes on at another port (R454). -/
def rxPort (s : State) (p key : Nat) : Nat := ((List.range 16).find? fun q => ((s.port q).rx.map (·.1)).contains key).getD p

/-- An accepted data flit that has crossed 8 links already is discarded (R455); another goes on to its package, or into the message of its source and destination that it is part of, in which one sent
again after a failover takes the place it had (R452, R454, R455). -/
def acceptFlit (s : State) (p : Nat) (f : Flit) : State :=
  if 8 ≤ f.hops then (if f.last then linkDownHere s (p / 8) f else s)
  else if f.dpkg ≠ s.self then { s with outbox := s.outbox ++ [{ f with hops := f.hops + 1, hub := p / 8 }] }
  else
    let key := f.vc + 4 * f.spkg + 1024 * f.src + 2 ^ 21 * f.dst
    let q := rxPort s p key
    let old := AMap.get (s.port q).rx key []
    if old.length < 240 * f.idx then s else
    let b := old.take (240 * f.idx) ++ f.payload
    if f.last then deliverMsg (s.modPort q fun k => { k with rx := AMap.del k.rx key }) p f b
    else s.modPort q fun k => { k with rx := AMap.put k.rx key b }

/-- DATA_FLIT (R452, R453): a data flit reaches a port: only the next expected one with a good CRC is accepted; the first that is
discarded is answered with a nak. -/
def execDataFlit (s : State) : Res :=
  match s.cur with
  | .ev (.flit p f) =>
    let k := s.port p
    if k.state ≠ .up ∨ f.kind ≠ 0 then .next s
    else if !f.crcOk ∨ f.fseq ≠ k.rxSeq then
      .next (if k.naked then s else sendCtl (s.modPort p fun k => { k with naked := true }) p 2 [k.rxSeq.toNat])
    else
      let s := acked s p f.ack
      let s := s.modPort p fun k => { k with rxSeq := k.rxSeq + 1, naked := false }
      let s := sendCtl (sendCtl s p 1 [f.fseq.toNat]) p 3 [f.vc, 1]
      .next (acceptFlit s p f)
  | _ => .next s

/-- ACK_FLIT (R453): port [p] learns that every flit up to [seq] has been accepted. -/
def execAckFlit (s : State) : Res :=
  if (s.port (s.arg 0)).state ≠ .up then .next s else .next (acked s (s.arg 0) (BitVec.ofNat 12 (s.arg 1)))

/-- NAK_FLIT (R453): the peer of port [p] expects flit [seq]: those before it are acknowledged, and the rest are sent again. -/
def execNakFlit (s : State) : Res :=
  let p := s.arg 0
  if (s.port p).state ≠ .up then .next s
  else .next (resendAll (acked s p (BitVec.ofNat 12 (s.arg 1) - 1)) p)

/-- CREDIT_FLIT (R452): [n] credits of channel [vc] return to port [p], at most 64 in all. -/
def execCreditFlit (s : State) : Res :=
  let p := s.arg 0
  if (s.port p).state ≠ .up ∨ 3 < s.arg 1 then .next s
  else .next (s.modPort p fun k => { k with credits := AMap.put k.credits (s.arg 1) (min 64 (AMap.get k.credits (s.arg 1) 0 + s.arg 2)) })

/-! ## Time (R456) -/

/-- The port of the time reference: the UP port of least distance, the lowest on ties; none without one, or on the master. -/
def timeRef (s : State) : Option Nat :=
  if s.topo.master = s.self then none else
  leastBy (fun a b => decide ((s.port a).hops < (s.port b).hops))
    ((List.range 16).filter fun p => (s.port p).state == .up && decide ((s.port p).hops < 15))

/-- The package's distance from the time master: 15 without a path. -/
def myHops (s : State) : Nat :=
  if s.topo.master = s.self then 0 else match timeRef s with | some p => (s.port p).hops | none => 15

/-- Events that the package cycle count times (R299, R357, R371, R456). -/
def countTimed : List Instr :=
  [.waitevTimeReached, .sliceBoundary, .gangDeadline, .gangStart, .gangRetry, .collectiveTimeout, .trainingTimeout, .trainingRetry,
   .retrainTimeout, .replayTimeout]

/-- The count has gained g counts and lost l: what it times comes so much earlier or later. -/
def shiftCount (s : State) (g l : Nat) : State :=
  let moved := s.agenda.filter fun e => countTimed.contains e.2.1 && decide (s.now < e.1)
  let rest := s.agenda.filter fun e => !(countTimed.contains e.2.1 && decide (s.now < e.1))
  { s with agenda := moved.foldl (fun a e => insertDue (max s.now (e.1 + l - g)) e.2.1 e.2.2 a) rest }

/-- TIME_FLIT (R456): a time flit [p, count, hops, trip] arrives, with the round trip measured: the delay is half of it. The first
reference sets the count by one step, which does not go backward; later ones are slewed to. -/
def execTimeFlit (s : State) : Res :=
  let p := s.arg 0
  if (s.port p).state ≠ .up then .next s else
  let off : Int := (s.arg 1 + s.arg 3 / 2 : Nat) - (s.count.toNat : Int)
  let s := s.modPort p fun k => { k with hops := min 15 (s.arg 2 + 1), offset := off }
  if timeRef s ≠ some p then .next s
  else if s.timeSet then .next { s with timeSlew := off }
  else
    let up := off.toNat
    .next (shiftCount { s with timeSet := true, count := s.count + BitVec.ofNat 64 up, timeSlew := off - up } up 0)

/-- TIME_FLIT_SEND (R456): port [p], UP since [t], sends a time flit, and the next 2^16 cycles later. -/
def execTimeFlitSend (s : State) : Res :=
  let p := s.arg 0
  let k := s.port p
  if k.state ≠ .up ∨ k.since ≠ s.arg 1 then .next s
  else .next ((sendCtl s p 4 [s.count.toNat, myHops s]).after (2 ^ 16) .timeFlitSend [p, k.since])

/-- The slew of a cycle (R456): every 1,024 cycles one count is added or withheld while the reference differs. -/
def slewCount (s : State) : State :=
  if s.now % 1024 ≠ 0 ∨ s.timeSlew = 0 then s
  else if 0 < s.timeSlew then shiftCount { s with count := s.count + 1, timeSlew := s.timeSlew - 1 } 1 0
  else shiftCount { s with count := s.count - 1, timeSlew := s.timeSlew + 1 } 0 1

/-! ## Requests of peers (R454, R457) -/

/-- What a request does. -/
def reqKind (r : PeerReq) : AKind :=
  match r.op with
  | 0 => .load
  | 1 => .store
  | 2 => .add64
  | 3 => .cas64 (dword (ofBytes ((r.data.drop 8).take 8)))
  | op => .atomic op

/-- A peer's request as an access of no core of this package. -/
def reqAccess (r : PeerReq) : Access where
  core := 1024
  src := .seq 0
  path := .lnk
  kind := reqKind r
  acq := false
  rel := false
  scope := 5
  dom := 0
  hint := 0
  own := none
  space := .phys
  todo := []
  data := r.data
  got := []
  tok := none
  outs := []
  wait := 0
  stage := .sent
  order := 0
  epoch := 0
  vas := []
  home := none

/-- A request's next phase, t cycles from now. -/
def peerGoes (s : State) (r : PeerReq) (t : Nat) : State := { s with agenda := insertDue (s.now + t) .peerRequest (.peer r) s.agenda }

/-- A response of a status and bytes leaves for the package of a request (R454). -/
def sendResponse (s : State) (r : PeerReq) (st : Nat) (b : List Byte) : State := sendLink s r.src (1024 + 4 + r.hub) 0 1 0 [2, r.num, st] b

/-- A request's response stays on record with the last 1,024 of its package, and leaves the ingress in t cycles (R454). -/
def respond (s : State) (r : PeerReq) (st : Nat) (b : List Byte) (t : Nat) : State :=
  let keep := s.peerResp.filter fun x => x.1 == r.src
  let s : State := if 1024 ≤ keep.length then
      match keep with
      | x :: _ => { s with peerResp := s.peerResp.erase x }
      | [] => s
    else s
  let s := { s with peerResp := s.peerResp ++ [(r.src, r.num, BitVec.ofNat 8 st :: b)] }
  if t = 0 then sendResponse s r st b else peerGoes s { r with data := BitVec.ofNat 8 st :: b, phase := 2 } t

/-- The level that a request reaches from its hub die (R253). -/
def peerLevel (s : State) (r : PeerReq) (pa : Nat) : Nat := levelPhys s (1024 + 256 * r.hub) pa (if r.op = 1 then 0 else r.len) false true

/-- A request that its access table permits performs at a local address (R457), from which its response comes back in t cycles. -/
def peerPerform (s : State) (r : PeerReq) (pa t : Nat) : State :=
  let a := reqAccess r
  let p : Piece := ⟨pa, r.len, 0⟩
  if pa / 2 ^ 48 = 4 then
    match regAt (pa / 8 * 8) with
    | none => respond s r 9 [] t
    | some g =>
      if !accessOk s (0x3000 + r.src) (pa / 8 * 8) (r.op != 0) then respond s r 9 [] t else
      let (s, a) := registerPiece s { a with todo := [p] } p g
      respond s r 0 a.got t
  else if (memRegion s pa).isNone then respond s r 7 [] t
  else if r.op ≠ 1 ∧ s.poison.any (fun x => decide (x < pa + r.len) && decide (pa < x + 32)) then respond s r 10 [] t
  else
    let old := readBytes s.mem pa r.len
    let w := eventWrite a p old
    let s := if pa < 2 ^ 49 then touchSlice s (homeDie pa) .lnk 0 pa r.len (r.op != 1) w.isSome else s
    let s := match w with
      | some b => s.putPhys pa b
      | none => s
    respond s r 0 (if r.op = 1 then [] else old) t

/-- Whether a request of the same number is under way (R454). -/
def peerUnder (s : State) (r : PeerReq) : Bool :=
  s.agenda.any fun e => match e.2.2 with | .peer x => x.src == r.src && x.num == r.num && x.phase == 1 | _ => false

/-- PEER_REQUEST (R253, R454, R457): a peer's request reaches the ingress: a number already answered is answered from its record, one still under
way will be; the hub's access table decides the rest, and what it denies performs nothing. What it permits performs halfway through its level's
latency, once a hold of its bank ends (R251), and its response leaves at the latency's end. -/
def execPeerRequest (s : State) : Res :=
  match s.cur with
  | .ev (.peer r) =>
    if r.phase = 2 then .next (sendResponse s r (r.data.headD 0).toNat (r.data.drop 1)) else
    let l := peerLevel s r r.offset
    if r.phase = 1 then .next (if bankHeld s r.offset then peerGoes s r 1 else peerPerform s r r.offset (l - ceilDiv l 2)) else
    match s.peerResp.find? fun x => x.1 == r.src && x.2.1 == r.num with
    | some (_, _, b) => .next (sendResponse s r (b.headD 0).toNat (b.drop 1))
    | none =>
      if peerUnder s r then .next s else
      match accessEntry s (0x4000003000000 + r.hub * 0x100000) (0x3000 + r.src) r.offset with
      | none => .next (respond s r 9 [] 0)
      | some e =>
        if !e.dw0.getLsbD (if r.op = 0 then 62 else 61) then .next (respond s r 9 [] 0) else
        let pa := e.target.toNat + (r.offset - e.base.toNat)
        .next (peerGoes s { r with offset := pa, phase := 1 } (ceilDiv (peerLevel s r pa) 2))
  | _ => .next s

/-! ## Lost paths (R370, R381, R455) -/

/-- The packages with a path. -/
def withPath (s : State) : List Nat := ((s.routes.map (·.1)).filter (· < 256)).filter (reachable s)

/-- The path to package p has left UP: groups READY for a verdict of p give up their round, and entries that count for p break; each
writes LINK_DOWN (R370, R381). -/
def losePath (s : State) (p : Nat) : State :=
  let e := (AMap.get s.routes p 0).toNat
  let r : Rec := { cause := 14, origin := 11, detail := fld e 3 0 + p % 256 * 256 }
  let s := s.launches.foldl (fun s l => match l.2.gang with
    | some x =>
      if x.st = 1 ∧ p ≠ s.self ∧ coordinator (gangDesc s x.gang) = p then
        abandonGang (s.record l.2.ctx { r with queue := l.2.queue }).1 l.1 l.2 x
      else s
    | none => s) s
  s.bars.foldl (fun s b =>
    if b.2.state = .counting ∧ b.2.scope = 2 ∧ p ≠ s.self ∧ (barMembers s b.2).headD s.self = p then
      dropBar (s.record b.2.owner r).1 b.1 .broken
    else s) s

/-- The links' part of the end of a cycle: flits leave, and lost paths are noticed. -/
def linksLate (s : State) : State :=
  let s := pumpLinks s
  let l := withPath s
  let lost := s.reached.filter fun p => !l.contains p
  { lost.foldl losePath s with reached := l }

end Sys2Proof.Machine
end

