-- ==== Sys2Proof/Machine/RowSeq.lean ====
section
/-! DEFINITION. The row instructions of the sequencer: BINCFG, BINTRG, BINSEAL, CMBCFG, CMBWT, SPILLCFG, EXMAP (R422, R431, R438, R440,
R441, R444, R447, R449). -/

namespace Sys2Proof.Machine

/-- A fault of the issuing instruction that records an address (R447). -/
def seqFaultAt (s : State) (c cause addr : Nat) : State :=
  (s.raise { cause := cause, origin := 2, core := c, offset := (s.core c).seq.pc, addr := addr }).modSeq c fun q => { q with wait := .faulted }

/-- A 64-byte descriptor read by the sequencer with an acquire at .pkg (R447): body gets its address, its doublewords and the
instruction's time. -/
def withDescr (s : State) (regs : List Nat) (addr : Core → DWord) (body : State → Nat → Core → Nat → List DWord → Nat → State) : Res :=
  withSeq s regs fun c k =>
    let ea := (addr k).toNat
    match seqAddr s c (addr k), seqAddr s c (addr k + 56) with
    | .error e, _ => seqFaultAt s c e ea
    | _, .error e => seqFaultAt s c e ea
    | .ok (sp, a), .ok _ =>
      match reach s c sp a 64 false with
      | .bad x => seqFaultAt s c x ea
      | .miss => if probing s c .seq then s else probe s c (.seq 64) .seq false a 64
      | .wait => s
      | .ok l =>
        if seqBehind s c sp a 64 l then s else
        let lat := 10 + 8 * reachLevel s c sp l
        let s := touchUnit (acquireFar s c) c .seq l false
        let b := takeBytes s c l
        let d := (List.range 8).map fun i => dword (ofBytes ((b.drop (8 * i)).take 8))
        body s c k ea d lat

/-! ## BINCFG (R431) -/

/-- Whether two ranges of frames meet. -/
def rangesMeet (a n b m : Nat) : Bool := decide (a < b + m) && decide (b < a + n)

/-- Whether a bin's frames or handles overlap another's. -/
def binsClash (x y : Bin) : Bool :=
  let hs := fun (z : Bin) => z.ha :: (List.range z.toks).map (z.hbf + ·)
  rangesMeet x.frb (2 * x.toks * x.frames) y.frb (2 * y.toks * y.frames) || (hs x).any (hs y).contains

/-- The fault of a bin descriptor (R431), if it has one. -/
def binBad (k : Core) (b : Nat) (x : Bin) (d : List DWord) : Option Nat :=
  let d1 := x.dw1.toNat
  let others := k.rows.bins.filter fun p => p.1 != b
  let state := match k.bin b with
    | none => true
    | some y => (y.state == .opened && y.r == 0) || (y.state == .drained && y.closed)
  let hd := k.handle x.ha
  let twinBad : Bool := match k.bin x.twin with
    | some y => x.twin != b && y.twin != b
    | none => false
  if fld d1 9 8 = 3 ∨ fld d1 14 12 = 6 ∨ !([5, 6, 7].contains x.ofmt) ∨ !([0, 2, 3, 5, 6].contains x.rfmt) ∨ fld d1 63 51 ≠ 0 ∨ fld d1 31 24 ≠ 0
      ∨ fld d1 7 0 ≠ 0 ∨ fld x.dw2.toNat 63 21 ≠ 0 ∨ x.hdrs % 64 ≠ 0 ∨ (d.drop 3).any (· != 0) ∨ !state
      ∨ 4096 < x.cap ∨ 128 < x.frb + 2 * x.toks * x.frames ∨ others.any (fun p => binsClash x p.2)
      ∨ twinBad then some 1
  else if !hd.v ∨ hd.cnt + 1 < ceilDiv x.cap 16 * x.ksteps ∨ (List.range x.toks).any (fun i => !(k.handle (x.hbf + i)).v) then some 18
  else if (hd.ssz + 1) * 64 < 64 + 16 * x.rowBytes ∨ 2 ^ 21 < x.hdrs + 32 * x.cap then some 6
  else none

/-- BINCFG (R431, R449). -/
def execBincfg (f : CF) (s : State) : Res :=
  withDescr s [f.a.toNat, f.b.toNat] (fun k => greg k f.b.toNat) fun s c k ea d lat =>
    let b := (greg k f.a.toNat).toNat
    let hd := fun (h : Nat) => (k.handle h).tail
    let at_ := fun i => d.getD i 0
    let x : Bin := ⟨at_ 0, at_ 1, at_ 2, .opened, true, false, 0, 0, 0, 0, none, none, 0, 0, 0, 0, []⟩
    let x : Bin := { x with t0 := hd x.ha, cnt := x.cap }
    if 16 ≤ b then seqFaultAt s c 1 ea else
    match binBad k b x d with
    | some e => seqFaultAt s c e ea
    | none =>
      let twin := x.twin != b && (match k.bin x.twin with | some y => y.twin == b | none => false)
      let x : Bin := if twin then { x with state := BState.drained, receiving := false } else x
      let s := s.modRows c fun r => { r with bins := AMap.put r.bins b x }
      let s := if twin then modBin s c x.twin fun y => { y with closed := false } else s
      seqNext s c 4 lat

/-! ## BINTRG and BINSEAL (R434, R438) -/

/-- BINTRG (R438, R449). -/
def execBintrg (f : CF) (s : State) : Res :=
  withSeq s [f.a.toNat] fun c k =>
    let v := (greg k f.a.toNat).toNat
    if f.imm.toNat = 0 then
      match k.bin (v % 16) with
      | none => seqFault s c 1
      | some x =>
        let cnt := fld v 23 4
        if v / 2 ^ 45 ≠ 0 ∨ x.cap < cnt ∨ 2 ^ 20 < fld v 44 24 then seqFault s c 1
        else seqNext (modBin s c (v % 16) fun x => { x with trig := some (s.now + 1, if cnt = 0 then x.cap else cnt, fld v 44 24) }) c 4 2
    else
      let n := fld v 47 32
      if v / 2 ^ 48 ≠ 0 ∨ fld v 31 18 ≠ 0 ∨ fld v 17 16 = 3 ∨ n = 0 then seqFault s c 1
      else seqNext (s.modRows c fun r => { r with btMask := v % 2 ^ 16, btEv := fld v 17 16, btN := n, btCount := 0 }) c 4 2

/-- One bin of a BINSEAL (R434): the state, and whether it fired. -/
def sealOne (s : State) (c b : Nat) : State × Bool :=
  match (s.core c).bin b with
  | none => (s, false)
  | some x =>
    let close := fun (s : State) =>
      let s := modBin s c b fun y => { y with closed := true }
      if x.twin = b then s else modBin s c x.twin fun y => if y.twin = b then { y with closed := true } else y
    match x.state with
    | .opened => if 0 < x.r then (fireBin (close s) c b, true)
        else (modBin (close s) c b fun y => { y with state := .drained, receiving := false, timer := none }, false)
    | .firing => (close s, false)
    | _ => (s, false)

/-- BINSEAL (R434, R447, R449): answers the bins it fired. -/
def execBinseal (f : CF) (s : State) : Res :=
  withSeq s [f.a.toNat, f.d.toNat] fun c k =>
    let v := (greg k f.a.toNat).toNat
    if 2 ^ 16 ≤ v then seqFault s c 1 else
    let r := (List.range 16).foldl (fun (r : State × Nat) b =>
      if bitAt v b then
        let x := sealOne r.1 c b
        (x.1, r.2 + b2n x.2 * 2 ^ b)
      else r) (s, 0)
    seqResult r.1 c f.d.toNat (dword r.2) 2 4 2

/-! ## CMBCFG and CMBWT (R441, R444) -/

/-- The fault of a combine descriptor (R441), if it has one. -/
def combineBad (k : Core) (x : Combine) (d : List DWord) : Option Nat :=
  let d0 := x.dw0.toNat
  let hd := k.handle x.hout
  let stg := fld x.dw1.toNat 20 0
  if !([5, 6, 7].contains x.cfmt) ∨ !([0, 2, 3, 5, 6, 7].contains x.ofmt) ∨ fld d0 34 32 = 6 ∨ fld d0 21 14 ≠ 0 ∨ fld x.dw1.toNat 23 21 ≠ 0 ∨ stg % 64 ≠ 0
      ∨ x.slots = 0 ∨ (d.drop 2).any (· != 0) then some 1
  else if !hd.v then some 18
  else if 2 ^ 21 < stg + x.slots * x.entry ∨ (hd.ssz + 1) * 64 < ceilDiv (x.width * typeBits x.ofmt) 8 then some 6
  else none

/-- CMBCFG (R441, R449). -/
def execCmbcfg (f : CF) (s : State) : Res :=
  withDescr s [f.a.toNat] (fun k => greg k f.a.toNat) fun s c k ea d lat =>
    let x : Combine := ⟨d.getD 0 0, d.getD 1 0, 0, none, []⟩
    let x : Combine := { x with next := x.base }
    match combineBad k x d with
    | some e => seqFaultAt s c e ea
    | none =>
      let s := (List.range x.slots).foldl (fun s i =>
        let v := staged s c x (x.base + i)
        setStaged s c x (x.base + i) (v % 2 ^ 32 + v / 2 ^ 34 * 2 ^ 34)) s
      seqNext (s.modRows c fun r => { r with cmb := some x }) c 4 (lat + ceilDiv x.slots 16)

/-- CMBWT (R444, R447, R449); before any CMBCFG no row has been written, as lane 12 of RWST shows (DEDUCED, log 23). -/
def execCmbwt (f : CF) (s : State) : Res :=
  withSeq s [f.a.toNat, f.d.toNat] fun c k =>
    let v := (greg k f.a.toNat).toNat
    if 2 ^ 20 ≤ v then seqFault s c 1 else
    let n := match k.rows.cmb with | some x => x.next - x.base | none => 0
    if v ≤ n then seqResult s c f.d.toNat (dword n) 1 4 1 else s

/-! ## SPILLCFG and EXMAP (R422, R440) -/

/-- SPILLCFG (R440, R449): a fifth LAYER faults ILLEGAL. -/
def execSpillcfg (f : CF) (s : State) : Res :=
  withDescr s [f.a.toNat] (fun k => greg k f.a.toNat) fun s c k ea d lat =>
    let at_ := fun i => (d.getD i 0).toNat
    let layer := fld (at_ 0) 63 48
    let rest := k.rows.spills.filter fun x => fld (x.getD 0 0).toNat 63 48 != layer
    let esz := fld (at_ 2) 31 0
    let cap := fld (at_ 2) 63 32
    if at_ 0 % 2 ^ 48 ≠ 0 ∨ at_ 1 % 64 ≠ 0 ∨ cap = 0 ∨ 2 ^ 20 < cap ∨ esz % 64 ≠ 0 ∨ esz < 128 ∨ at_ 3 % 64 ≠ 0 ∨ (d.drop 4).any (· != 0)
        ∨ 4 ≤ rest.length then seqFaultAt s c 1 ea
    else seqNext (s.modRows c fun r => { r with spills := rest ++ [d] }) c 4 lat

/-- The layer slot of a descriptor (R422); none where it breaches the table. -/
def readLayer (d : List DWord) : Option LayerSlot :=
  let at_ := fun i => (d.getD i 0).toNat
  let l : LayerSlot :=
    { layer := fld (at_ 0) 63 48, nexp := fld (at_ 0) 47 32, pol := fld (at_ 0) 31 30, ext := bitAt (at_ 0) 29, fmt := fld (at_ 0) 23 20,
      len := fld (at_ 0) 13 0, map := at_ 1, ascale := fld (at_ 2) 63 32, wait := fld (at_ 2) 31 0, slotbase := fld (at_ 3) 63 44,
      rowoff := fld (at_ 3) 20 0, pitch := fld (at_ 4) 20 0, serial := 0, cache := [] }
  if l.nexp = 0 ∨ l.pol = 3 ∨ fld (at_ 0) 28 24 ≠ 0 ∨ !([0, 2, 3, 5, 6, 7].contains l.fmt) ∨ fld (at_ 0) 19 14 ≠ 0 ∨ l.map % 8 ≠ 0
      ∨ fld (at_ 3) 43 21 ≠ 0 ∨ l.rowoff % 64 ≠ 0 ∨ fld (at_ 4) 63 21 ≠ 0 ∨ l.pitch % 64 ≠ 0 ∨ l.pitch < payloadBytes l.fmt l.len
      ∨ (d.drop 5).any (· != 0) then none
  else some l

/-- EXMAP (R422, R449): waits until no header of the slot is queued and no DISP of it is in progress. -/
def execExmap (f : CF) (s₀ : State) : Res :=
  withDescr s₀ [f.a.toNat] (fun k => greg k f.a.toNat) fun s c k ea d lat =>
    let n := f.imm.toNat % 4
    match readLayer d with
    | none => seqFaultAt s c 1 ea
    | some l =>
      if k.rows.hdrs.any (·.2 == n) || k.rows.disp.any (·.ls == n) then s₀
      else seqNext (s.modRows c fun r => { r with layers := AMap.put r.layers n l }) c 4 lat

end Sys2Proof.Machine
end

