-- ==== Sys2Proof/Machine/Collective.lean ====
section
/-! DEFINITION. The exact all-reduce and the link instructions: AREDX, COLWT, LNKST, and the events of a collective (R459-R461). -/

namespace Sys2Proof.Machine

/-! ## Images (R65, R69, R459) -/

/-- The image of frames: W576 frames compressed. -/
def framesImage (l : List Frame) : List Byte := l.flatMap fun f => if f.cls = .w576 then f.compressed else f.image

/-- The frames of an image, by the classes of the range that takes it, their elements as stored: FMT_BAD where it is malformed,
FMT_MISMATCH where it is another class's (R68, R69). -/
def imageFrames : List Cls → List Byte → Except Nat (List Frame)
  | [], _ => .ok []
  | c :: r, b =>
    match readDescr b with
    | none => .error 3
    | some (d, _) =>
      if d ≠ c then .error 4 else
      match (if c = .w576 then readCompressed b else (rawImage (b.take c.imageBytes)).map fun f => (f, b.drop c.imageBytes)) with
      | none => .error 3
      | some (f, b) => (imageFrames r b).map (f :: ·)

/-- The frames of a collective's range. -/
def Coll.frames (x : Coll) (k : Core) : List Frame := (List.range (x.fc + 1)).map fun i => k.frame (x.fb + i)

/-- S: the spill image's size of a range (R65). -/
def Coll.size (x : Coll) (k : Core) : Nat := ((x.frames k).map fun f => f.cls.imageBytes).foldl (· + ·) 0

/-- Whether a received range has member 0's classes and exponents, as far as this member can tell (R459). -/
def sameShape (l m : List Frame) : Bool := l.length == m.length && (l.zip m).all fun p => p.1.cls == p.2.cls && p.1.fexp == p.2.fexp

/-! ## The course of a collective (R459) -/

/-- The state with a collective slot changed by f. -/
def modColl (s : State) (c slot : Nat) (f : Coll → Coll) : State :=
  s.modCore c fun k => match AMap.find? k.colls slot with
    | some x => { k with colls := AMap.put k.colls slot (f x) }
    | none => k

/-- The members of a collective, and this package's number among them. -/
def collSelf (s : State) (x : Coll) : List Nat × Nat :=
  let ms := members (gangDesc s x.gang)
  (ms, ms.idxOf s.self)

/-- The frames of a range are released (R459). -/
def unlockRange (s : State) (c : Nat) (x : Coll) : State :=
  s.modMx c fun m => { m with locked := m.locked.filter fun f => !(decide (x.fb ≤ f) && decide (f ≤ x.fb + x.fc)) }

/-- A collective ends: done, with every element settled once, or with another status, its range as before (R459). -/
def endColl (s : State) (c slot : Nat) (x : Coll) (st : Nat) : State :=
  let k := s.core c
  let fs := if st = 1 then (x.frames k).map fun f => { f.settle with state := FState.settled, pcnt := 0 } else x.saved
  let s := if x.phase = 0 then s else unlockRange (s.modCore c fun k => k.putFrames x.fb fs) c x
  modColl s c slot fun y => { y with status := st, phase := 4, saved := [], deadline := 0 }

/-- The range's image to another member: up the tree (0) or down it (1), with a mismatch seen marked 3. -/
def sendImage (s : State) (c : Nat) (x : Coll) (dst dir : Nat) : State :=
  let (ms, me) := collSelf s x
  sendLink s (ms.getD dst 0) c 0 0 0 [8, x.gang, x.seqn, me, dir, (if x.bad then 3 else 0), x.fc] (framesImage (x.frames (s.core c)))

/-- The received image of a member, and the state without it. -/
def heldImage (s : State) (x : Coll) (member dir : Nat) : Option (Nat × Nat × List Byte × State) :=
  match s.images.find? fun i => i.1.take 4 == [x.gang, x.seqn, member, dir] with
  | some i => some (i.1.getD 4 0, i.1.getD 5 0, i.2, { s with images := s.images.erase i })
  | none => none

/-- A collective that waits for the image of a member: it fails when the path is lost; else the wait is timed (R459). -/
def waitImage (s : State) (c slot : Nat) (x : Coll) (member : Nat) : State :=
  let (ms, _) := collSelf s x
  if !reachable s (ms.getD member 0) then endColl s c slot x 4
  else if x.deadline ≠ 0 then s
  else
    let t := if x.tmo = 0 then 2 ^ 22 else x.tmo
    let dl := s.count.toNat + t
    (modColl s c slot fun y => { y with deadline := dl }).after t .collectiveTimeout [c, slot, x.count.toNat, dl]

/-- A fault of a collective's own access (R459, R295): the group freezes and the range is as before. -/
def faultColl (s : State) (c slot : Nat) (x : Coll) (cause : Nat) : State :=
  endColl (s.raise { cause := cause, origin := 11, core := c, addr := x.stg }) c slot x 3

/-- Writes bytes to a collective's staging area, once its pages translate (log 15). -/
def stageBytes (s : State) (c slot : Nat) (x : Coll) (off : Nat) (b : List Byte) (body : State → State) : State :=
  match reach s c .virt (x.stg + off) b.length true with
  | .bad e => faultColl s c slot x e
  | .miss => if probing s c .lnk then s else probe s c (.seq 64) .lnk true (x.stg + off) b.length
  | .wait => s
  | .ok l => body (giveBytes s c .lnk l b)

/-- The members below member i in the tree: i + 2^j, below i's own lowest bit, the farthest first (R459). -/
def treeKids (p i : Nat) : List Nat :=
  ((List.range 8).reverse.filter fun j => decide (i % 2 ^ (j + 1) = 0) && decide (i + 2 ^ j < p)).map fun j => i + 2 ^ j

/-- The member above member i in the tree, for i not 0. -/
def treeParent (i : Nat) : Nat := i - 2 ^ (((List.range 8).find? fun j => bitAt i j).getD 0)

/-- The sum goes down the tree and the collective ends (R459). -/
def spreadColl (s : State) (c slot : Nat) (x : Coll) : State :=
  let (ms, me) := collSelf s x
  let kids := treeKids ms.length me
  let lost := kids.any fun m => !reachable s (ms.getD m 0)
  let s := (kids.filter fun m => reachable s (ms.getD m 0)).foldl (fun s m => sendImage s c x m 1) s
  endColl s c slot x (if x.bad then 3 else if lost then 4 else 1)

/-- What a member makes of a received image (R459): its frames, FMT_MISMATCH where the range differs from its own or the sender says
so, FMT_BAD where it is malformed. -/
def gotImage (k : Core) (x : Coll) (st fc : Nat) (b : List Byte) : Except Nat (List Frame) :=
  let fs := x.frames k
  if st = 3 ∨ fc ≠ x.fc then .error 4 else
  match imageFrames (fs.map (·.cls)) b with
  | .error e => .error e
  | .ok r => if sameShape fs r then .ok r else .error 4

/-- A received image's frames are added to the range, without Settle (R230, R459). -/
def addImage (k : Core) (x : Coll) (r : List Frame) : Core :=
  k.putFrames x.fb (((x.frames k).zip r).map fun p => p.2.elems.foldl (fun d e => d.insertAt e.1 e.2) p.1)

/-- The round of a collective that adds (R459). -/
def reduceColl (s : State) (c slot : Nat) (x : Coll) : State :=
  let (ms, me) := collSelf s x
  let j := x.round
  if ms.length ≤ 2 ^ j then spreadColl s c slot x
  else if me % 2 ^ (j + 1) = 2 ^ j then
    if !reachable s (ms.getD (me - 2 ^ j) 0) then endColl s c slot x 4
    else modColl (sendImage s c x (me - 2 ^ j) 0) c slot fun y => { y with phase := 3, deadline := 0 }
  else if me + 2 ^ j < ms.length then
    match heldImage s x (me + 2 ^ j) 0 with
    | none => waitImage s c slot x (me + 2 ^ j)
    | some (st, fc, b, t) =>
      stageBytes s c slot x (x.size (s.core c)) b fun s1 =>
        let s1 := { s1 with images := t.images }
        match gotImage (s1.core c) x st fc b with
        | .error 3 => faultColl s1 c slot x 3
        | .error _ => modColl s1 c slot fun y => { y with bad := true, round := j + 1, deadline := 0 }
        | .ok r => modColl (s1.modCore c fun k => addImage k x r) c slot fun y => { y with round := j + 1, deadline := 0 }
  else modColl s c slot fun y => { y with round := j + 1 }

/-- A member other than 0 awaits the sum: it fills its range and passes it on, or the mismatch (R459). -/
def fillColl (s : State) (c slot : Nat) (x : Coll) : State :=
  let (_, me) := collSelf s x
  match heldImage s x (treeParent me) 1 with
  | none => waitImage s c slot x (treeParent me)
  | some (st, fc, b, t) =>
    stageBytes s c slot x (x.size (s.core c)) b fun s1 =>
      let s1 := { s1 with images := t.images }
      match gotImage (s1.core c) x st fc b with
      | .error 3 => faultColl s1 c slot x 3
      | .error _ => spreadColl s1 c slot { x with bad := true }
      | .ok r => spreadColl (s1.modCore c fun k => k.putFrames x.fb r) c slot x

/-- Whether an older collective of the core that overlaps still runs (R461). -/
def behindColl (k : Core) (slot : Nat) (x : Coll) : Bool :=
  k.colls.any fun p => p.1 != slot && p.2.phase != 4 && rangesMeet p.2.fb (p.2.fc + 1) x.fb (x.fc + 1)
    && (p.2.phase != 0 || decide ((x.count - p.2.count).toNat < 2 ^ 31))

/-- One part of a collective's course (R459). -/
def stepColl (s : State) (c slot : Nat) : State :=
  let k := s.core c
  match AMap.find? k.colls slot with
  | none => s
  | some x =>
    if k.stopped then s else
    match x.phase with
    | 0 =>
      let fs := x.frames k
      if behindColl k slot x ∨ fs.any (·.state == .accumulating) ∨ busyFrames k x.fb (x.fc + 1) then s
      else if fs.any (·.void) then faultColl s c slot x 2
      else
        let s := s.modMx c fun m => { m with locked := m.locked ++ (List.range (x.fc + 1)).map (x.fb + ·) }
        modColl s c slot fun y => { y with phase := 1, saved := fs }
    | 1 => stageBytes s c slot x 0 (framesImage (x.frames k)) fun s => modColl s c slot fun y => { y with phase := 2 }
    | 2 => reduceColl s c slot x
    | 3 => fillColl s c slot x
    | _ => s

/-- The collectives' part of the end of a cycle. -/
def collsLate (s : State) (c : Nat) : State := ((s.core c).colls.map (·.1)).foldl (fun s i => stepColl s c i) s

/-- COLLECTIVE_IMAGE (R459): an image reaches this package: [gang, number, member, direction, status, frames] and its bytes. The
collective that awaits it adds it or fills its range from it; one that does not yet finds it when it does. -/
def execCollectiveImage (s : State) : Res :=
  match s.cur with
  | .ev (.bytes l b) =>
    let s := { s with images := s.images ++ [(l, b)] }
    .next (s.cores.foldl (fun s p => p.2.colls.foldl (fun s x =>
      if x.2.gang = l.getD 0 0 ∧ x.2.seqn = l.getD 1 0 ∧ (x.2.phase = 2 ∨ x.2.phase = 3) then stepColl s p.1 x.1 else s) s) s)
  | _ => .next s

/-- COLLECTIVE_TIMEOUT (R459): the image that slot [core, slot] with its count awaits has not come by package count [dl]; one that has
come in the same cycle is used. -/
def execCollectiveTimeout (s : State) : Res :=
  let c := s.arg 0
  let slot := s.arg 1
  match AMap.find? (s.core c).colls slot with
  | none => .next s
  | some x =>
    let t := stepColl s c slot
    if x.phase = 4 ∨ x.count.toNat ≠ s.arg 2 ∨ x.deadline ≠ s.arg 3 ∨ s.arg 3 = 0 then .next s
    else if (AMap.find? (t.core c).colls slot).map (·.deadline) ≠ some x.deadline then .next t
    else .next (endColl s c slot x 2)

/-! ## The instructions (R460, R461) -/

/-- Whether an AREDX descriptor is well-formed for this package (R459, R461). -/
def aredxOk (s : State) (d : List DWord) : Bool :=
  let f := fun i hi lo => fld (d.getD i 0).toNat hi lo
  let g := gangDesc s (f 0 47 32)
  f 0 31 15 == 0 && f 0 7 7 == 0 && f 2 31 0 == 0 && (d.drop 3).all (· == 0) && f 1 5 0 == 0 && decide (f 0 6 0 + f 0 14 8 ≤ 127)
    && s.gangbase.msb && decide (2 ≤ (members g).length) && (members g).contains s.self

/-- AREDX (R459, R461): waits for a free slot, checks the descriptor and starts the collective; the ticket is its result. Its
descriptor's read takes eight events, as R447 has it, and 4 cycles more where those instructions take 10. -/
def execAredx (f : CF) (s : State) : Res :=
  match s.cur with
  | .seq c0 =>
    match lowestFree 4 ((s.core c0).colls.map (·.1)) with
    | none => .next s
    | some slot =>
      if (greg (s.core c0) f.a.toNat).toNat % 64 ≠ 0 then
        withSeq s [f.a.toNat, f.d.toNat] fun c k => seqFaultAt s c 16 (greg k f.a.toNat).toNat
      else withDescr s [f.a.toNat, f.d.toNat] (fun k => greg k f.a.toNat) fun s c k ea d lat =>
        let w := fun i hi lo => fld (d.getD i 0).toNat hi lo
        if !aredxOk s d then seqFaultAt s c 1 ea
        else
          let x : Coll := ⟨k.collCnt, 0, w 0 47 32, w 0 63 48, w 0 6 0, w 0 14 8, (d.getD 1 0).toNat, w 2 63 32, 0, 0, false, [], 0⟩
          let s := s.modCore c fun k => { k with colls := AMap.put k.colls slot x, collCnt := k.collCnt + 1 }
          seqResult s c f.d.toNat (dword (k.collCnt.toNat * 2 ^ 32 + slot)) (lat - 6) 4 (lat - 6)
  | _ => .next s

/-- COLWT (R461): waits for a collective's end and frees its slot, or polls it. -/
def execColwt (f : CF) (s : State) : Res :=
  withSeq s [f.a.toNat, f.d.toNat] fun c k =>
    let t := (greg k f.a.toNat).toNat
    let slot := t % 4
    let out := fun (s : State) v => seqResult s c f.d.toNat (dword v) 2 4 2
    match (AMap.find? k.colls slot).filter fun x => x.count.toNat == t / 2 ^ 32 && fld t 31 2 == 0 with
    | none => out s 6
    | some x =>
      if f.imm ≠ 0 then out s x.status
      else if x.phase ≠ 4 then s
      else out (s.modCore c fun k => { k with colls := AMap.del k.colls slot }) x.status

/-- LNKST (R461): a port's status word, or the summary. -/
def execLnkst (f : CF) (s : State) : Res :=
  withSeq s [f.d.toNat] fun c _ =>
    let p := f.imm.toNat
    let lat := 100 + 12 * crossings (dieOf c) (if p < 8 ∨ p = 16 then 4 else 5)
    seqResult s c f.d.toNat (dword (if p = 16 then linkSummary s else (s.port p).status)) lat 4 lat

end Sys2Proof.Machine
end

