-- ==== Sys2Proof/Machine/Loader.lean ====
section
/-! DEFINITION. The loader: the .rli image, its checks, relocations and decoded copy (R122, R125, R136, R151, R177, R179, R199,
R331-R341, R363). -/

namespace Sys2Proof.Machine

/-! ## Failures and reading -/

/-- Why an image is rejected (R341): cause, virtual address of the item, and for a word its group-relative core, context, PE, slot or
program offset; stall: a translation that failed, with its write flag. -/
structure Bad where
  cause : Nat
  va : Nat
  grel : Option Nat := none
  cctx : Nat := 0
  pe : Nat := 0
  slot : Nat := 0
  off : Nat := 0
  stall : Option (Nat × Nat × Bool) := none
  deriving DecidableEq, Repr

/-- The outcome of a part of the decoding. -/
abbrev Ld := Except Bad

/-- A check: the failure of an item at an address when it does not hold. -/
def need (b : Bool) (cause va : Nat) : Ld Unit := if b then .ok () else .error { cause := cause, va := va }

/-- n bytes of the image from a virtual address, page by page (R341). -/
def imgBytes (s : State) (ctx va n : Nat) : Ld (List Byte) :=
  (cutAt 65536 (n / 65536 + 2) va n).foldl (fun (r : Ld (List Byte)) p =>
    match r with
    | .error e => .error e
    | .ok l =>
      match schedAt s ctx p.1 .read with
      | .error (some e) => .error { cause := if e.2 = 1 ∨ e.2 = 2 then 9 else 8, va := p.1, stall := some (e.1, e.2, false) }
      | .error none => .error { cause := 7, va := p.1 }
      | .ok pa => .ok (l ++ readBytes s.mem pa p.2)) (.ok [])

/-- The little-endian number in n bytes at offset o. -/
def num (b : List Byte) (o n : Nat) : Nat := ofBytes ((b.drop o).take n)

/-- A fold over a list that stops at the first failure. -/
def eachLd {α β : Type} (f : β → α → Ld β) : β → List α → Ld β
  | x, [] => .ok x
  | x, a :: r => match f x a with | .ok y => eachLd f y r | .error e => .error e

/-! ## Header (R332) -/

/-- The header: shape, flags, sections as (offset, length), program sizes. -/
structure Hdr where
  gen : Nat
  rows : Nat
  cols : Nat
  ctxm : Nat
  det : Bool
  snap : Bool
  secs : List (Nat × Nat)
  seqw : Nat
  strw : Nat
  deriving DecidableEq, Repr

/-- Offset and length of section i. -/
def Hdr.sec (h : Hdr) (i : Nat) : Nat × Nat := h.secs.getD (i - 1) (0, 0)

/-- The header of an image, checked (R332, R341). -/
def readHdr (va : Nat) (b : List Byte) : Ld Hdr := do
  let dw := fun i => num b (8 * i) 8
  let d0 := dw 0
  let d1 := dw 1
  need (d0 % 2 ^ 32 == 0x00AB7C01 && fld d0 39 32 == 1) 1 va
  need (d1 / 256 == 0 && fld d1 3 2 == 0) 1 (va + 8)
  let secs := (List.range 10).map fun i => (dw (2 + i) % 2 ^ 32, dw (2 + i) / 2 ^ 32)
  let _ ← eachLd (fun (last : Nat) (p : Nat × Nat × Nat) =>
    let (i, o, n) := p
    if n = 0 then (need (o == 0) 1 (va + 16 + 8 * i)).map fun _ => last
    else (need (o % 64 == 0 && decide (last ≤ o)) 1 (va + 16 + 8 * i)).map fun _ => o + n) 128 ((List.range 10).zip secs)
  need (decide (dw 12 % 2 ^ 32 ≤ 16384) && decide (dw 12 / 2 ^ 32 ≤ 16384)) 1 (va + 96)
  need (dw 13 == 0) 1 (va + 104)
  need (dw 14 == 0) 1 (va + 112)
  need (dw 15 == 0) 1 (va + 120)
  .ok { gen := d0 / 2 ^ 48, rows := fld d0 43 40 + 1, cols := fld d0 47 44 + 1, ctxm := fld d1 7 4, det := bitAt d1 0, snap := bitAt d1 1, secs := secs, seqw := dw 12 % 2 ^ 32, strw := dw 12 / 2 ^ 32 }

/-! ## Configuration records (R333) -/

/-- A valid slot: where it stands in section 1 and its two words. -/
structure RawSlot where
  pe : Nat
  slot : Nat
  off : Nat
  w : Word
  lit : Word
  deriving DecidableEq, Repr

/-- A configuration record as read: slots, sf entries and token entries with their offsets. -/
structure RawRec where
  grel : Nat
  cctx : Nat
  slots : List RawSlot
  sfs : List (Nat × Nat × List Word)
  toks : List (Nat × List Byte)
  deriving DecidableEq, Repr

/-- The slots of the PEs that a mask marks, from offset o on; answers the offset after them. -/
def readSlots (b : List Byte) (pem o : Nat) : Nat × List RawSlot :=
  ((List.range 64).filter fun i => bitAt pem i).foldl (fun (r : Nat × List RawSlot) pe =>
    let mask := num b r.1 8
    let ns := (List.range 64).filter fun n => bitAt mask n
    let l := ((List.range ns.length).zip ns).map fun p =>
      let at_ := r.1 + 8 + 8 * p.1
      (⟨pe, p.2, at_, word (num b at_ 4), word (num b (at_ + 4) 4)⟩ : RawSlot)
    (r.1 + 8 + 8 * ns.length, r.2 ++ l)) (o, [])

/-- The records of section 1 from offset o on, whose bytes are b; key is one more than the (core, context) of the last. -/
def readRecs (h : Hdr) (va : Nat) (b : List Byte) : Nat → Nat → Nat → Ld (List RawRec)
  | 0, _, _ => .ok []
  | fuel + 1, o, key => do
    if b.length ≤ o then .ok [] else
    let dw := fun i => num b (o + 8 * i) 8
    let len := dw 0 / 2 ^ 32
    let grel := dw 0 % 256
    let cctx := fld (dw 0) 9 8
    need (decide (64 ≤ len) && len % 64 == 0 && decide (o + len ≤ b.length) && fld (dw 0) 31 10 == 0 && decide (key ≤ grel * 4 + cctx)) 1 (va + o)
    need (decide (grel < h.rows * h.cols) && bitAt h.ctxm cctx) 1 (va + o)
    let _ ← eachLd (fun (_ : Unit) (i : Nat) => need (dw i == 0) 1 (va + o + 8 * i)) () [3, 4, 5, 6, 7]
    let (o1, slots) := readSlots b (dw 1) (o + 64)
    let nsf := dw 2 % 2 ^ 32
    let ntk := dw 2 / 2 ^ 32
    let o2 := o1 + 72 * nsf
    need (decide (o2 + 80 * ntk ≤ o + len)) 1 (va + o)
    let sfs ← eachLd (fun (l : List (Nat × Nat × List Word)) (i : Nat) =>
      let e := o1 + 72 * i
      (need (decide (num b (e + 64) 1 < 64) && decide (num b (e + 65) 1 < 64) && num b (e + 66) 6 == 0) 1 (va + e)).map fun _ =>
        l ++ [(num b (e + 64) 1, num b (e + 65) 1, (List.range 16).map fun n => word (num b (e + 4 * n) 4))]) [] (List.range nsf)
    let toks := (List.range ntk).map fun i => (o2 + 80 * i, (b.drop (o2 + 80 * i)).take 80)
    let rest ← readRecs h va b fuel (o + len) (grel * 4 + cctx + 1)
    .ok (⟨grel, cctx, slots, sfs, toks⟩ :: rest)

/-! ## Windows, streams, frames and bindings (R334-R337, R125, R177, R199) -/

/-- A buffer window (R336): the space, the resolved base and the size. -/
def readWindow (va data : Nat) (b : List Byte) (i : Nat) : Ld (Nat × Nat × Nat) := do
  let d := num b (16 * i) 8
  let size := num b (16 * i + 8) 8
  let sp := fld d 57 56
  let base := fld d 55 0
  need (fld d 62 58 == 0 && (sp != 2 || decide (base < 2 ^ 25))) 1 (va + 16 * i)
  need (size != 0 && decide (size ≤ 2 ^ 56) && !(bitAt d 63 && sp != 0)) 17 (va + 16 * i)
  let at_ := if bitAt d 63 then data + base else base
  need (match sp with | 0 => decide (at_ + size ≤ 2 ^ 56) | 1 => decide (base + size ≤ 2 ^ 21) | 2 => decide (base % 2 ^ 21 + size ≤ 2 ^ 21) | _ => true) 17 (va + 16 * i)
  .ok (sp, at_, size)

/-- A channel that has a descriptor and nothing else. -/
def descChannel (d : List DWord) : Channel := ⟨.closed, d, 0, 0, 0, 0, 0, 0, 0, 0, 0, false, 0, []⟩

/-- A stream descriptor that R125 and R177 accept. -/
def descOk (d : List DWord) : Bool :=
  let dw := fun i => (d.getD i 0).toNat
  let d1 := dw 1
  let sp := fld (dw 0) 57 56
  let n := fld d1 10 9 + 1
  let att := d1 / 2 ^ 32
  fld (dw 0) 63 58 == 0 && (sp != 1 || decide (fld (dw 0) 55 0 < 2 ^ 21)) && (sp != 2 || decide (fld (dw 0) 55 0 < 2 ^ 25))
    && fld d1 31 12 == 0 && !bitAt d1 2 && fld d1 1 0 != 3 && (fld d1 1 0 == 2 || fld d1 8 3 == 0)
    && ((List.range 4).all fun j => if j < n then dw (2 + j) % 2 ^ 32 != 0 else dw (2 + j) == 0) && dw 6 == 0 && dw 7 == 0
    && fld att 19 16 == 0 && fld att 13 13 == 0 && fld att 7 0 == 0 && attrOk (if bitAt d1 11 then 0x71 else 0x70) att

/-- A stream-table entry with its descriptor, checked (R199, R337). -/
def readStream (data n : Nat) (desc : Nat → Ld (List Byte)) (wins : List (Nat × Nat × Nat)) (va : Nat) (b : List Byte) (i : Nat) :
    Ld (Nat × Nat × List DWord) := do
  let e := num b (8 * i) 8
  let doff := e / 2 ^ 32
  need (fld e 31 4 == 0 && doff % 64 == 0 && decide (doff + 64 ≤ n)) 1 (va + 8 * i)
  let raw ← desc doff
  let d := (List.range 8).map fun j => dword (num raw (8 * j) 8)
  need (descOk d) 1 (data + doff)
  let x := descChannel d
  need (wins.any (inWin x.space (x.span x.base))) 17 (data + doff)
  .ok (doff, e % 16, d)

/-- A frame class entry (R335): the cores it covers, its frames and the class. -/
def readFrames (h : Hdr) (va : Nat) (b : List Byte) (i : Nat) : Ld (List Nat × Nat × Nat × Cls) := do
  let e := num b (4 * i) 4
  let g := fld e 31 24
  let first := fld e 23 17
  let n := fld e 16 9
  need ((g == 255 || decide (g < h.rows * h.cols)) && fld e 8 2 == 0 && e % 4 != 3 && n != 0 && decide (first + n ≤ 128)) 1 (va + 4 * i)
  .ok (if g = 255 then List.range (h.rows * h.cols) else [g], first, n, match e % 4 with | 0 => .n80 | 1 => .h112 | _ => .w576)

/-- The frame classes of every core, no frame covered twice (R335, R341). -/
def frameMap (h : Hdr) (va : Nat) (b : List Byte) : Ld (AMap (AMap Cls)) :=
  eachLd (fun (m : AMap (AMap Cls)) (i : Nat) => do
    let (gs, first, n, cls) ← readFrames h va b i
    let fs := (List.range n).map (first + ·)
    need (!gs.any fun g => fs.any fun f => (AMap.find? (AMap.get m g []) f).isSome) 1 (va + 4 * i)
    .ok (gs.foldl (fun m g => AMap.put m g (fs.foldl (fun k f => AMap.put k f cls) (AMap.get m g []))) m)) [] (List.range (b.length / 4))

/-- The bindings of every core (R334): 16 a seam, else the channel. -/
def bindMap (h : Hdr) (va : Nat) (b : List Byte) : Ld (AMap (AMap Nat)) :=
  eachLd (fun (m : AMap (AMap Nat)) (i : Nat) => do
    let e := num b (4 * i) 4
    let g := fld e 31 24
    let cctx := fld e 23 22
    let kind := fld e 15 14
    need (decide (g < h.rows * h.cols) && bitAt h.ctxm cctx && (kind == 1 || kind == 2) && fld e 13 4 == 0 && (kind == 1 || e % 16 == 0)) 1 (va + 4 * i)
    .ok (AMap.put m g (AMap.put (AMap.get m g []) (64 * cctx + fld e 21 16) (if kind = 2 then 16 else e % 16)))) [] (List.range (b.length / 4))

/-- The group-relative core on a side of core g, inside the rectangle. -/
def relAt (h : Hdr) (g side : Nat) : Option Nat :=
  match side with
  | 0 => if g < h.cols then none else some (g - h.cols)
  | 1 => if g % h.cols + 1 = h.cols then none else some (g + 1)
  | 2 => if g / h.cols + 1 = h.rows then none else some (g + h.cols)
  | _ => if g % h.cols = 0 then none else some (g - 1)

/-- Whether a binding entry that is an inner seam has a seam bound at its facing port in the same context (R363). -/
def seamOk (h : Hdr) (m : AMap (AMap Nat)) (e : Nat) : Bool :=
  fld e 15 14 != 2 || (match relAt h (fld e 31 24) (fld e 21 16 / 16) with
    | none => true
    | some g => AMap.get (AMap.get m g []) (64 * fld e 23 22 + facingEp (fld e 21 16)) 0 == 16)

/-- Every inner seam faces a seam; a binding entry that lacks its facing one is the item that failed (R341, R363). -/
def seamsOk (h : Hdr) (va : Nat) (b : List Byte) (m : AMap (AMap Nat)) : Ld Unit :=
  eachLd (fun (_ : Unit) (i : Nat) => need (seamOk h m (num b (4 * i) 4)) 1 (va + 4 * i)) () (List.range (b.length / 4))

/-! ## Relocations (R339, R340) -/

/-- A relocation that is to be made: section, offset in it, and the word. -/
abbrev Reloc := Nat × Nat × Word

/-- The symbol table's (kind, value) pairs (R339). -/
def readSyms (va : Nat) (b : List Byte) : Ld (List (Nat × Nat)) := do
  if b.isEmpty then .ok [] else
  let n := num b 0 8
  need (decide (8 + 16 * n ≤ b.length)) 1 va
  eachLd (fun (l : List (Nat × Nat)) (i : Nat) =>
    let d1 := num b (16 + 16 * i) 8
    (need (fld d1 59 32 == 0 && decide (d1 / 2 ^ 60 ≤ 6)) 1 (va + 16 + 16 * i)).map fun _ => l ++ [(d1 / 2 ^ 60, num b (8 + 16 * i) 8)]) [] (List.range n)

/-- Whether word w of a program is the imm32 word of an instruction (R119, R338). -/
def immAt (pads : List Nat) (n : Nat) : List Word → Nat → Bool → Bool
  | [], _, _ => false
  | w :: r, i, imm => if i = n then imm else immAt pads n r (i + 1) (!imm && !pads.contains i && longWord w)

/-- The relocations of section 10, each checked against the field it names (R340). -/
def readRelocs (h : Hdr) (va data : Nat) (b : List Byte) (syms : List (Nat × Nat)) (wins : List (Nat × Nat × Nat)) (isField : Nat → Nat → Bool) :
    Ld (List Reloc) := do
  if b.isEmpty then .ok [] else
  let n := num b 0 8
  need (decide (8 + 16 * n ≤ b.length)) 1 va
  eachLd (fun (l : List Reloc) (i : Nat) => do
    let d0 := num b (8 + 16 * i) 8
    let d1 := num b (16 + 16 * i) 8
    let sec := fld d0 7 4
    let foff := d1 % 2 ^ 32
    let at_ := va + 8 + 16 * i
    need (fld d0 31 8 == 0 && fld d0 3 2 == 0 && decide (d0 % 4 ≤ 1) && foff % 4 == 0 && decide (foff + 4 ≤ (h.sec sec).2) && isField sec foff) 1 at_
    match syms[d0 / 2 ^ 32]? with
    | none => .error { cause := 1, va := at_ }
    | some (kind, v) =>
      let base : Option Nat := if kind = 0 then some (data + v) else if kind = 3 then (wins[v]?).map (·.2.1) else none
      match base with
      | none => .error { cause := 1, va := at_ }
      | some a =>
        let x := wrap 64 ((a : Int) + sext 32 (d1 / 2 ^ 32))
        .ok (l ++ [(sec, foff, word (if d0 % 4 = 0 then x % 2 ^ 32 else x / 2 ^ 32))])) [] (List.range n)

/-- The word at an offset of a section after the relocations, made in order: of two of one field the last stands (DESIGN CHOICE, log 28). -/
def relocated (rs : List Reloc) (sec off : Nat) (w : Word) : Word :=
  match rs.reverse.find? fun r => r.1 == sec && r.2.1 == off with
  | some r => r.2.2
  | none => w

/-! ## Programs (R119, R122, R338) -/

/-- Words and padding map of a program section. -/
def readProg (va : Nat) (b : List Byte) (w : Nat) : Ld (List Word × List Nat) := do
  need (decide (4 * w + (w + 7) / 8 ≤ b.length)) 1 va
  .ok ((List.range w).map (fun i => word (num b (4 * i) 4)), (List.range w).filter fun i => bitAt (num b (4 * w + i / 8) 1) (i % 8))

/-- Whether an instruction names only contexts and descriptors that the image has (R199, R341). -/
def namesOk (h : Hdr) (streams : List (Nat × Nat × List DWord)) : Instr → Bool
  | .fork f => bitAt h.ctxm (f.imm.toNat % 4)
  | .ctx f => bitAt h.ctxm (f.imm.toNat % 4)
  | .stage f => bitAt h.ctxm (f.imm.toNat % 4)
  | .sopen f imm => streams.any fun t => t.1 == imm.toNat && t.2.1 == f.d.toNat
  | _ => true

/-- The first word of a program that the loader rejects. -/
def progBad (ok : Word → Word → Bool) (pads : List Nat) : List Word → Nat → Bool → Option Nat
  | [], i, imm => if imm then some (i - 1) else none
  | w :: r, i, imm =>
    if imm then (if pads.contains i then some (i - 1) else progBad ok pads r (i + 1) false)
    else if pads.contains i then progBad ok pads r (i + 1) false
    else if ok w (r.headD 0) then progBad ok pads r (i + 1) (longWord w) else some i

/-- Decodes and checks a program (R122). -/
def checkProg (va : Nat) (p : List Word × List Nat) (dec : Word → Word → Option Instr) (good : Instr → Bool) : Ld Unit :=
  match progBad (fun w v => match dec w v with | some i => good i | none => false) p.2 p.1 0 false with
  | none => .ok ()
  | some i => .error { cause := 1, va := va + 4 * i, off := 4 * i }

/-! ## Node words (R122, R136, R151, R177, R179) -/

/-- The failure of a slot's node word, or of its literal or call word, which stands 4 bytes behind it. -/
def slotBad (va : Nat) (r : RawRec) (x : RawSlot) (lit : Bool) : Bad := { cause := 1, va := va + x.off + (if lit then 4 else 0), grel := some r.grel, cctx := r.cctx, pe := x.pe, slot := x.slot }

/-- The windows and frame images that a node's attribute word names (R177, R229, R230). -/
def winNamed (op lit : Nat) : Bool := (decide (0x70 ≤ op) && decide (op ≤ 0x80) && op != 0x74 && op != 0x75) || op == 0x83 || op == 0x84 || op == 0x96 || op == 0x97 || (op == 0x98 && decide (lit % 4 ≤ 2))

/-- Whether the SLOT of a CFWR with LEAF = 1 names a CFW with KEEP = 1 among the slots of its PE (R426). -/
def leafSlotOk (l : List RawSlot) (i : Instr) (lit : Nat) : Bool :=
  match i with
  | .cfwr _ => !bitAt lit 6 || l.any fun x => x.slot == lit % 64 && opOf x.w == 0xA0 && bitAt x.lit.toNat 0
  | _ => true

/-- The slots of one PE in ascending order: their instructions, with snippets checked word by word; end is the slot by which the
running snippet of SNIP node sn must have ended, 0 outside one; all are the PE's slots. -/
def decodePe (va nwin pe : Nat) (r : RawRec) (all : List RawSlot) : List RawSlot → NF → Nat → Nat → Ld (List (Nat × Slot))
  | [], _, end_, last => if end_ = 0 then .ok [] else .error (slotBad va r ((all.find? (·.slot == last)).getD ⟨pe, last, 0, 0, 0⟩) false)
  | x :: rest, sn, end_, last => do
    match decodeNode x.w with
    | none => .error (slotBad va r x false)
    | some i =>
      let op := opOf x.w
      if end_ ≠ 0 then
        if x.slot ≠ last + 1 ∨ end_ < x.slot ∨ !snipWordOk sn i (nfOf x.w) op then .error (slotBad va r x false) else
        if !snipOk sn i (nfOf x.w) op x.lit then .error (slotBad va r x true) else
        let l ← decodePe va nwin pe r all rest sn (if op = 0x30 then 0 else end_) x.slot
        .ok ((nkey r.cctx x.pe x.slot, ⟨i, x.lit⟩) :: l)
      else if !wordOk i (nfOf x.w) then .error (slotBad va r x false)
      else if !nodeOk i (nfOf x.w) x.lit ∨ !leafSlotOk all i x.lit.toNat ∨ (winNamed op x.lit.toNat ∧ nwin ≤ fld x.lit.toNat 19 16) then .error (slotBad va r x true)
      else
        let l ← decodePe va nwin pe r all rest (nfOf x.w) (if op = 0x2F then x.slot + 15 else 0) x.slot
        .ok ((nkey r.cctx x.pe x.slot, ⟨i, x.lit⟩) :: l)

/-- The nodes of a record. -/
def decodeRec (va nwin : Nat) (r : RawRec) : Ld (AMap Slot) :=
  eachLd (fun (m : AMap Slot) (pe : Nat) => do
    let xs := r.slots.filter fun x => x.pe == pe
    let l ← decodePe va nwin pe r xs xs ⟨15, 15, 15, 15, 0, 0⟩ 0 0
    .ok (l.foldl (fun m p => AMap.put m p.1 p.2) m)) [] (List.range 64)

/-- Whether a call word names a side of a node of the same core and context that reads a network port (R151). -/
def callOk (k : Core) (cctx : Nat) (lit : Word) : Bool :=
  let n := lit.toNat
  let pe := fld n 11 6
  let slot := n % 64
  (nodeSlots k cctx pe).contains slot && (match AMap.find? k.nodes (nkey cctx pe slot) with
    | some t => decide ((if bitAt n 12 then (nodeFields t.instr).b.toNat else (nodeFields t.instr).a.toNat) ≤ 8)
    | none => false)

/-- The first record slot whose call word R151 rejects. -/
def callBad (k : Core) (r : RawRec) : Option RawSlot :=
  r.slots.find? fun x => match AMap.find? k.nodes (nkey r.cctx x.pe x.slot) with
    | some t => (match t.instr with | .call _ => !callOk k r.cctx t.lit | _ => false)
    | none => false

/-- The memory nodes of an image that carry sequence numbers: (domain, SEQS, SEQB) (R179). -/
def seqNodes (cores : AMap Core) : List (Nat × Nat × Nat) :=
  cores.flatMap fun c => c.2.nodes.filterMap fun p =>
    let op := opOf ((encode p.2.instr).headD 0)
    let n := p.2.lit.toNat
    if 0x70 ≤ op ∧ op ≤ 0x81 then some (fld n 23 20, fld n 31 28, fld n 27 24) else none

/-- Whether the domains of a DET image are consistent (R179). -/
def domsOk (cores : AMap Core) (streams : List (Nat × Nat × List DWord)) : Bool :=
  let ns := seqNodes cores
  let pairs := (List.range ns.length).all fun i => (List.range i).all fun j =>
    let a := ns.getD i (0, 0, 0)
    let b := ns.getD j (0, 0, 0)
    a.1 != b.1 || (a.2.1 == b.2.1 && a.2.2 != b.2.2)
  pairs && streams.all fun t => !ns.any fun n => n.1 == fld ((t.2.2.getD 1 0).toNat / 2 ^ 32) 23 20

/-! ## Initial tokens (R333) -/

/-- A token entry as a token for a port of vector or scalar width; an ITAG of 0xFF_FFFF is 0, as R341 does not reject it and R76 lets no
token carry it (DEDUCED, log 28). -/
def entryToken (b : List Byte) (vec ct : Bool) : Token :=
  let ws := if vec then (List.range 16).map fun i => word (num b (4 * i) 4) else [if ct then word (num b 0 4 % 2) else word (num b 0 4)]
  let fl := num b 68 1
  ⟨ws, ⟨BitVec.ofNat 8 (num b 67 1), fixItag (BitVec.ofNat 24 (num b 64 3))⟩, none, bitAt fl 2, bitAt fl 1, bitAt fl 0⟩

/-- The buffer and mask a token entry names on a core, and its width: a destination port, or the next port of a channel. -/
def entryPlace (k : Core) (cctx pe port : Nat) : Option (Nat × (List Nat × Bool) × Bool) :=
  if port ≤ 8 then some (bkey cctx pe port, maskOf k cctx pe port, decide (4 ≤ port) && decide (port ≤ 7))
  else if 16 ≤ port ∧ port ≤ 31 then
    let ps := portsOf k (port - 16)
    if ps.isEmpty then none else
    match ps[queued k (port - 16) % ps.length]? with
    | none => none
    | some (ep, x) =>
      let (p, code) := edgePe ep
      some (ekey x ep, (readers k x p code, false), decide (4 ≤ code))
  else none

/-- A core with one token entry placed; n numbers the entries (R333, R341). -/
def placeEntry (va : Nat) (r : RawRec) (n : Nat) (k : Core) (e : Nat × List Byte) : Ld Core :=
  let b := e.2
  let pe := num b 69 1
  let port := num b 70 1
  let bad : Bad := { cause := 1, va := va + e.1 }
  if num b 71 9 ≠ 0 ∨ num b 68 1 ≥ 8 ∨ 64 ≤ pe ∨ (16 ≤ port ∧ pe ≠ 0) then .error bad else
  match entryPlace k r.cctx pe port with
  | none => .error bad
  | some (key, mask, vec) =>
    let l := AMap.get k.bufs key []
    if (mask.1.isEmpty ∧ !mask.2) ∨ (port ≤ 8 ∧ 4 ≤ l.length) ∨ (16 ≤ port ∧ 16 ≤ queued k (port - 16)) then .error bad
    else .ok { k with bufs := AMap.put k.bufs key (l ++ [⟨2 ^ 40 + n, some (entryToken b vec (port == 8)), mask.1, mask.2, 0⟩]) }

/-! ## The decoded image -/

/-- The core that a record's nodes and sf values are part of. -/
def addRec (va nwin : Nat) (cores : AMap Core) (r : RawRec) : Ld (AMap Core) := do
  let k := AMap.get cores r.grel Core.idle
  let nodes ← decodeRec va nwin r
  let k := { k with nodes := nodes.foldl (fun m p => AMap.put m p.1 p.2) k.nodes,
                    sf := r.sfs.foldl (fun m e => AMap.put m (nkey r.cctx e.1 e.2.1) e.2.2) k.sf }
  match callBad k r with
  | some x => .error (slotBad va r x true)
  | none => .ok (AMap.put cores r.grel k)

/-- The initial tokens of a record. -/
def addToks (va : Nat) (cores : AMap Core) (r : RawRec) : Ld (AMap Core) := do
  let k ← eachLd (fun (p : Core) (e : Nat × Nat × List Byte) => placeEntry va r e.1 p e.2) (AMap.get cores r.grel Core.idle) ((List.range r.toks.length).zip r.toks)
  .ok (AMap.put cores r.grel k)

/-- Decodes and checks the image at an address, for a launch record where one still waits; answers the image, where its
data section lies and the relocated data words (R332-R341). -/
def decodeImage (s : State) (ctx va : Nat) (r : Option (List DWord)) : Ld (Image × Nat × List Reloc) := do
  let hb ← imgBytes s ctx va 128
  let h ← readHdr va hb
  need (match r with | some r => recRows r == h.rows && recCols r == h.cols | none => true) 1 va
  need (match r with | some r => fitsRec r h.rows h.cols h.det h.snap | none => true) 1 (va + 8)
  let at_ := fun (i : Nat) => va + (h.sec i).1
  let get := fun (i : Nat) => imgBytes s ctx (at_ i) (h.sec i).2
  let data := at_ 8
  let b4 ← get 4
  need (b4.length % 16 == 0 && decide (b4.length ≤ 256)) 1 (at_ 4)
  let wins ← eachLd (fun (l : List (Nat × Nat × Nat)) (i : Nat) => (readWindow (at_ 4) data b4 i).map fun w => l ++ [w]) [] (List.range (b4.length / 16))
  let b1 ← get 1
  let recs ← readRecs h (at_ 1) b1 1024 0 0
  let b6 ← get 6
  let seq ← readProg (at_ 6) b6 h.seqw
  let b7 ← get 7
  let strm ← readProg (at_ 7) b7 h.strw
  let b9 ← get 9
  let syms ← readSyms (at_ 9) b9
  let b10 ← get 10
  let field := fun (sec off : Nat) => match sec with
    | 1 => recs.any fun r => r.slots.any fun x => x.off + 4 == off
    | 6 => immAt seq.2 (off / 4) seq.1 0 false
    | 7 => immAt strm.2 (off / 4) strm.1 0 false
    | 8 => true
    | _ => false
  let rs ← readRelocs h (at_ 10) data b10 syms wins field
  let prog := fun (sec : Nat) (p : List Word × List Nat) => (((List.range p.1.length).zip p.1).map fun w => relocated rs sec (4 * w.1) w.2, p.2)
  let seq := prog 6 seq
  let strm := prog 7 strm
  let recs := recs.map fun r => { r with slots := r.slots.map fun x => { x with lit := relocated rs 1 (x.off + 4) x.lit } }
  let desc := fun (doff : Nat) => (imgBytes s ctx (data + doff) 64).map fun b =>
    (List.range 16).flatMap fun i => toBytes 4 (relocated rs 8 (doff + 4 * i) (word (num b (4 * i) 4))).toNat
  let b5 ← get 5
  need (b5.length % 8 == 0) 1 (at_ 5)
  let streams ← eachLd (fun (l : List (Nat × Nat × List DWord)) (i : Nat) => (readStream data (h.sec 8).2 desc wins (at_ 5) b5 i).map fun t => l ++ [t]) [] (List.range (b5.length / 8))
  checkProg (at_ 6) seq decodeSeq fun i => seqOk i && namesOk h streams i
  checkProg (at_ 7) strm decodeStrm fun i => strmOk i && namesOk h streams i
  let b2 ← get 2
  need (b2.length % 4 == 0) 1 (at_ 2)
  let binds ← bindMap h (at_ 2) b2
  seamsOk h (at_ 2) b2 binds
  let b3 ← get 3
  need (b3.length % 4 == 0) 1 (at_ 3)
  let frames ← frameMap h (at_ 3) b3
  let cores : AMap Core := (List.range (h.rows * h.cols)).map fun g => (g, { Core.idle with bind := AMap.get binds g [], frameCls := AMap.get frames g [] })
  let cores ← eachLd (addRec (at_ 1) wins.length) cores recs
  need (!h.det || domsOk cores streams) 1 va
  let cores ← eachLd (addToks (at_ 1)) cores recs
  let bytes := h.secs.foldl (fun m p => max m (p.1 + p.2)) 128
  .ok (⟨h.rows, h.cols, h.det, h.snap, h.ctxm, wins, streams, seq.1, seq.2, strm.1, strm.2, cores, bytes⟩, data, rs.filter fun x => x.1 == 8)

/-- The relocated data words written into the image in memory (R340); the translation that fails, if one does. -/
def writeRelocs (s : State) (ctx data : Nat) (rs : List Reloc) : Ld State :=
  eachLd (fun (s : State) (r : Reloc) =>
    match schedAt s ctx (data + r.2.1) .write with
    | .error (some e) => .error { cause := if e.2 = 1 ∨ e.2 = 2 then 9 else 8, va := data + r.2.1, stall := some (e.1, e.2, true) }
    | .error none => .error { cause := 7, va := data + r.2.1 }
    | .ok pa => .ok (s.putPhys pa (toBytes 4 r.2.2.toNat))) s rs

/-! ## IMAGE_DECODE (R331, R341, R342) -/

/-- A waiting launch whose image is rejected: its queue enters ERROR and it is no more (R331). -/
def rejectLaunch (s : State) (n : Nat) : State :=
  match AMap.find? s.launches n with
  | none => s
  | some l =>
    (removeLaunch s n l).modQueue l.queue fun k =>
      { k with state := .error, launches := k.launches.filter (· != n), resv := [], victims := [], ending := none, pend := [] }

/-- The record of a rejection (R341), for launch l. -/
def badRec (s : State) (l : Launch) (b : Bad) : State :=
  let core := match b.grel with | some g => l.cores.getD g 0 | none => 0
  (s.record l.ctx { cause := b.cause, origin := 10, core := core, pe := b.pe, slot := b.slot, cctx := b.cctx, offset := b.off,
                    addr := b.va, queue := l.queue }).1

/-- The context's first image has been checked (R280): READY, or FAULTED. -/
def firstImage (s : State) (ctx : Nat) (ok : Bool) : State :=
  if (s.ctx ctx).state ≠ .loading then s
  else (s.modCtx ctx fun x => { x with state := if ok then .ready else .faulted }).refreshCtx ctx

/-- The image of an entry is rejected (R331, R341): one record, and every launch that waits for it ends. -/
def rejectImage (s : State) (key : Nat) (e : Entry) (b : Bad) : State :=
  let s := match e.users.findSome? fun n => AMap.find? s.launches n with
    | some l => badRec s l b
    | none => s
  let s := e.users.foldl rejectLaunch s
  let s := { s with entries := AMap.put s.entries key { e with state := .absent, users := [], img := none } }
  firstImage s e.ctx false

/-- The die's loader goes on to the next entry in decision order (R342). -/
def nextDecode (s : State) (key : Nat) : State :=
  let s := s.modDie (key / 64) fun d => { d with decoding := d.decoding.filter (· != key) }
  match (s.die (key / 64)).decoding with
  | [] => s
  | k :: _ =>
    match AMap.find? s.entries k with
    | some e => s.after (decodeTime s e.ctx e.image) .imageDecode [k]
    | none => s

/-- A loader access stalls (R341, R401): one record and a stall-table entry that names the image entry. -/
def loadStall (s : State) (key q : Nat) (b : Bad) (e : Nat × Nat × Bool) : State := schedAsk s q (1, key, b.va) e.2.2 (e.1, e.2.1) .imageDecode [key]

/-- A launch takes up its image: it loads, or is rejected when its record does not agree. -/
def takeImage (s : State) (im : Image) (n : Nat) : State :=
  match AMap.find? s.launches n with
  | none => s
  | some l => if l.fits im then beginLoad s n else rejectLaunch (badRec s l { cause := 1, va := recImage l.recd }) n

/-- The decoded image of an entry, and the state once its relocated data are written. -/
def loadImage (s : State) (e : Entry) (r : Option (List DWord)) : Ld (Image × State) :=
  match decodeImage s e.ctx e.image r with
  | .error b => .error b
  | .ok (im, data, rs) => (writeRelocs s e.ctx data rs).map fun t => (im, t)

/-- IMAGE_DECODE (R331, R341, R342): the image of entry [key] has been decoded: it is accepted and its launches load, or it is
rejected, or the decoding waits for a translation; an image whose launches have all left stays RESIDENT (DEDUCED, log 28); or, with [key, launch], a launch is held against an image decoded before. -/
def execImageDecode (s : State) : Res :=
  let key := s.arg 0
  match AMap.find? s.entries key with
  | none => .next s
  | some e =>
    if s.args.length = 2 then
      .next (match e.img with | some im => takeImage s im (s.arg 1) | none => s)
    else if e.state ≠ .decoding then .next s
    else match e.users.findSome? fun n => AMap.find? s.launches n with
      | none =>
        if (s.ctx e.ctx).state = .dead then .next (nextDecode { s with entries := AMap.put s.entries key { e with state := .absent, users := [], img := none } } key) else
        match loadImage s e none with
        | .error _ => .next (nextDecode { s with entries := AMap.put s.entries key { e with state := .absent, users := [], img := none } } key)
        | .ok (im, t) =>
          .next (nextDecode (firstImage
            { t with entries := AMap.put t.entries key { e with state := .resident, users := [], img := some im, gen := imageGen t e.ctx e.image } } e.ctx true) key)
      | some l =>
        match loadImage s e (some l.recd) with
        | .error b =>
          match b.stall with
          | some x => .next (loadStall s key l.queue b x)
          | none => .next (nextDecode (rejectImage s key e b) key)
        | .ok (im, t) =>
          let t := { t with entries := AMap.put t.entries key { e with state := .inUse, img := some im, gen := imageGen t e.ctx e.image } }
          let t := firstImage t e.ctx true
          .next (nextDecode (e.users.foldl (fun t n => takeImage t im n) t) key)

end Sys2Proof.Machine
end

