-- ==== Sys2Proof/Machine/Context.lean ====
section
/-! DEFINITION. The host's context commands: create, stop, resume, destroy, release (R280, R281, R287, R288, R310). -/

namespace Sys2Proof.Machine

/-- The answer to a context command: V set, STATUS and the context (R310). -/
def ctxAnswer (s : State) (status x : Nat) : State :=
  { s with ctxrsp := dword (2 ^ 63 + status * 2 ^ 60 + x % 4096) }

/-- Takes up a command written to CTXCMD (R310): one written while V = 0 is ignored; the named context goes to the body. RSV bits read 0
(R2); R310 gives no STATUS for one written otherwise, and the command is carried out as if they were 0 (DESIGN CHOICE, log 22). -/
def withCtxcmd (s : State) (body : State → Nat → State) : Res :=
  if !s.ctxrsp.msb then .next s
  else .next (body { s with ctxcmd := s.argVal &&& dword 0xFFFF3FFFFFFFFFFF, ctxrsp := 0 } (fld s.argVal.toNat 59 48))

/-- A context descriptor that R310 allows, as its six doublewords. -/
def ctxDescOk (d : List Nat) : Bool :=
  let at_ := fun i => d.getD i 0
  fld (at_ 0) 63 56 == 0 && at_ 0 % 2 ^ 16 == 0 && fld (at_ 1) 63 56 == 0 && fld (at_ 1) 7 5 == 0
    && decide (6 ≤ at_ 1 % 32) && decide (at_ 1 % 32 ≤ 16) && fld (at_ 2) 63 5 == 0 && !bitAt (at_ 2) 3 && decide (at_ 2 % 8 ≤ 5)
    && fld (at_ 3) 63 32 == 0 && fld (at_ 4) 63 32 == 0 && fld (at_ 4) 7 2 == 0 && !bitAt (at_ 4) 0
    && fld (at_ 5) 63 52 == 0 && at_ 5 % 2 ^ 13 == 0 && at_ 6 == 0 && at_ 7 == 0

/-- CTX_CREATE (R280, R310): takes the lowest free CTXID and loads the descriptor; the fault ring's header is zeroed. -/
def execCtxCreate (s : State) : Res :=
  let v := s.argVal.toNat
  withCtxcmd s fun s _ =>
    match (List.range 4096).find? fun x => (s.ctx x).state == .free with
    | none => ctxAnswer s 1 0
    | some x =>
      let pa := fld v 45 0 * 64
      let d := (List.range 8).map fun i => s.phys64 (pa + 8 * i)
      if (memRegion s pa).isNone ∨ !ctxDescOk d then ctxAnswer s 3 0 else
      let at_ := fun i => dword (d.getD i 0)
      let s := s.modCtx x fun _ => ⟨.loading, at_ 0, at_ 1, at_ 2, at_ 3, at_ 4, d.getD 5 0⟩
      ctxAnswer (s.ctxPut x (s.ctx x).ring.1 (List.replicate 64 0)) 0 x

/-- A launch that is loading goes back to the head of its queue (DEDUCED, log 22: a stop leaves nothing of its context loading). -/
def unload (s : State) (n : Nat) (l : Launch) : State :=
  if l.state ≠ .loading then s else
  let all := fun (s : State) (f : Launch → Bool) => (s.queue l.queue).launches.all fun m => match AMap.find? s.launches m with | some x => f x | none => true
  let alone := all s (!·.started)
  let s := abandonLoad s n alone
  let saved := all s (·.state == .saved)
  s.modQueue l.queue fun k =>
    if k.state ≠ .active then k
    else if alone then { k with state := .armed, launches := k.launches.filter (· != n) }
    else if saved then { k with state := .armed, saved := true } else k

/-- CTX_STOP (R280, R287, R310): a RUNNING or GATING context freezes to FROZEN. -/
def execCtxStop (s : State) : Res :=
  withCtxcmd s fun s x =>
    if (s.ctx x).state ≠ .running ∧ (s.ctx x).state ≠ .gating then ctxAnswer s 2 x else
    let mine := s.launches.filter fun p => p.2.ctx == x
    let s := mine.foldl (fun s p => unload s p.1 p.2) s
    let s := match mine.find? fun p => p.2.live? with
      | some (n, l) => s.freeze n l.origin .frozen
      | none => s.modCtx x fun c => { c with state := .frozen }
    ctxAnswer s 0 x

/-- CTX_RESUME (R280, R288, R310): a FROZEN or FAULTED context runs again. -/
def execCtxResume (s : State) : Res :=
  withCtxcmd s fun s x =>
    if (s.ctx x).state ≠ .frozen ∧ (s.ctx x).state ≠ .faulted then ctxAnswer s 2 x
    else if s.launches.any fun p => p.2.ctx == x then ctxAnswer (s.resumeCtx x) 0 x
    else ctxAnswer (s.modCtx x fun c => { c with state := .ready }) 0 x

/-- The image entries of a DEAD context become ABSENT, but those that launches still hold (R331); where a die's loader was decoding one, it goes on
to the next (R342). -/
def clearEntries (s : State) (x : Nat) : State :=
  let gone := s.entries.filter fun p => p.2.ctx == x && (p.2.state == .resident || p.2.state == .decoding)
  let drop := fun (s : State) (p : Nat × Entry) =>
    let first := (s.die (p.1 / 64)).decoding.head? == some p.1
    let s := { s with entries := AMap.put s.entries p.1 { p.2 with state := EState.absent, users := [], img := none } }
    if first then nextDecode (s.cancelEv .imageDecode fun l => l == [p.1]) p.1
    else s.modDie (p.1 / 64) fun d => { d with decoding := d.decoding.filter (· != p.1) }
  gone.foldl drop s

/-- What a DEAD context loses (R331, R380, R385): image copies, barrier entries, counters, stalled pages. -/
def clearContext (s : State) (x : Nat) : State :=
  let s := (s.bars.filter fun p => p.2.state != .idle && p.2.owner == x).foldl (fun s p => dropBar s p.1 .idle) s
  let dies := s.dies.map fun (p : Nat × Die) => (p.1, { p.2 with stalls := p.2.stalls.filter (·.ctx != x) })
  clearEntries { s with dies := dies, wcnts := s.wcnts.filter fun p => p.2.owner != x } x

/-- The queues of a DEAD context enter ERROR, without a record (R314). -/
def killQueues (s : State) (x : Nat) : State :=
  s.queues.foldl (fun s p =>
    if p.2.ctx ≠ x ∨ p.2.state = .error then s
    else s.modQueue p.1 fun k => { k with state := .error, resv := [], victims := [], ending := none, pend := [] }) s

/-- CTX_DESTROY (R107, R280, R310, R314): every launch of the context is cancelled, its queues enter ERROR and it is DEAD. -/
def execCtxDestroy (s : State) : Res :=
  withCtxcmd s fun s x =>
    if (s.ctx x).state = .free ∨ (s.ctx x).state = .dead then ctxAnswer s 2 x else
    let s := s.modCtx x fun c => { c with state := .dead }
    let mine := (s.launches.filter fun p => p.2.ctx == x).map (·.1)
    ctxAnswer (clearContext (killQueues (mine.foldl (fun s n => finishLaunch s n true) s) x) x) 0 x

/-- CTX_RELEASE (R280, R310): a DEAD context's CTXID is free, unless a queue bound to it is enabled. -/
def execCtxRelease (s : State) : Res :=
  withCtxcmd s fun s x =>
    if (s.ctx x).state ≠ .dead ∨ (s.queues.any fun q => q.2.ctx == x && q.2.en) then ctxAnswer s 2 x
    else ctxAnswer (s.modCtx x fun _ => Ctx.none) 0 x

/-- CTXCMD_BAD_OP (R310). -/
def execCtxcmdBadOp (s : State) : Res := withCtxcmd s fun s x => ctxAnswer s 4 x

end Sys2Proof.Machine
end

