-- ==== Sys2Proof/Machine/CtlNode.lean ====
section
/-! DEFINITION. Dataflow-control node operations (R140-R156) and the snippet's SNIP and END (R92-R94, R154). -/

namespace Sys2Proof.Machine

/-- A value with a firing's own tag rule replaced: a token for a destination from an explicit tag, no action. -/
def rawTok (v : Val) (tag : Tag) (m l e : Bool) (port : Nat) : Option Token :=
  (mkTok v tag 0 tag m l port).map fun t => { t with e := e }

/-- STEER (R141): A to x if lane 0 of B is not 0, else to y. -/
def execSteer (_ : NF) (s : State) : Res :=
  withFiring s 1 true fun q =>
    if q.bl 0 ≠ 0 then finish2 s q 1 (some q.a.val) none else finish2 s q 1 none (some q.a.val)

/-- MERGE (R142): whichever input fired, to x and y. -/
def execMerge (_ : NF) (s : State) : Res := withFiring s 1 true fun q => finish s q 1 q.a.val

/-- GATE (R143): A, released by B. -/
def execGate (_ : NF) (s : State) : Res := withFiring s 1 true fun q => finish s q 1 q.a.val

/-- COPY (R144). -/
def execCopy (_ : NF) (s : State) : Res := withFiring s 1 true fun q => finish s q 1 q.a.val

/-- SINK (R145): consumes A; an error token writes its fault record (R100). -/
def execSink (_ : NF) (s : State) : Res :=
  withNode s true fun q =>
    let w := (q.a.lane 0).toNat
    let s := if q.e then s.note
        { cause := w % 2 ^ 16, origin := 0, core := q.core, pe := fld w 21 16, slot := fld w 27 22, cctx := fld w 29 28
          etk := true, tag := (q.tag.ctag ++ q.tag.itag).toNat, detail := w } else s
    startFiring s q 1 [] none

/-- CONST (R146): B's data with A's tag and flags. -/
def execConst (_ : NF) (s : State) : Res :=
  withFiring s 1 false fun q => finish s q 1 (match q.b with | some b => b.val | none => q.a.val)

/-- FILT (R147): A to x if the condition holds in lane 0. -/
def execFilt (f : NF) (s : State) : Res :=
  withFiring s 1 false fun q =>
    finish2 s q 1 (if cmpS f.m.toNat (q.a.lane 0) (q.bl 0) then some q.a.val else none) none

/-- CMPCT (R147): the lanes that pass, packed with a sidecar, to x with A's flags; their number to y. -/
def execCmpct (f : NF) (s : State) : Res :=
  withFiring s 1 false fun q =>
    let ls := (List.range 16).filter fun l => cmpS f.m.toNat (q.a.lane l) (q.bl l)
    let n := ls.length
    let v : Val := ⟨ls.map q.a.lane ++ List.replicate (16 - n) 0, true,
      some (List.replicate n q.tag.itag ++ List.replicate (16 - n) 0xFFFFFF)⟩
    let am := (q.a.tok.map (·.m)).getD false
    let al := (q.a.tok.map (·.l)).getD false
    let one := fun (p : Nat) (t : Option Token) => if p ≤ 8 ∨ p = 11 then [(p, t)] else []
    let x := if n = 0 then none else some v
    startFiring s q 1
      (one q.f.x.toNat (x.bind fun v => mkTok v q.tag q.f.tg.toNat q.btag am al q.f.x.toNat)
        ++ one q.f.y.toNat (mkTok (Val.scalar (word n)) q.tag q.f.tg.toNat q.btag q.m q.l q.f.y.toNat))
      (if q.f.x = 10 then x.bind sfSent else if q.f.y = 10 then sfSent (Val.scalar (word n)) else none)

/-- ITER (R148): by A's L flag, errors included: to x with the tag action, or to y with L cleared and ITAG 0. -/
def execIter (_ : NF) (s : State) : Res :=
  withNode s true fun q =>
    if q.x then nodeFault s q 1 else
    let v : Val := { q.a.val with side := none }
    let one := fun (p : Nat) (t : Option Token) => if p ≤ 8 ∨ p = 11 then [(p, t)] else []
    let x := q.f.x.toNat
    let y := q.f.y.toNat
    if q.l then
      startFiring s q 1 (one x none ++ one y (rawTok v { q.tag with itag := 0 } q.m false q.e y))
        (if y = 10 then some (sfVal v) else none) q.e
    else
      startFiring s q 1 (one x ((mkTok v q.tag q.f.tg.toNat q.btag q.m q.l x).map fun t => if q.e then t.asError q.m q.l else t) ++ one y none)
        (if x = 10 then some (sfVal v) else none) q.e

/-- The DONE nodes of a launch's image, by core and node key (R149). -/
def doneNodes (s : State) (l : Launch) : List (Nat × Nat) :=
  l.cores.flatMap fun c => ((s.core c).nodes.filter fun p =>
    match p.2.instr with | .done _ => true | _ => false).map fun p => (c, p.1)

/-- A DONE firing counted (R149, R346): SCNT grows; its node's first L firing may complete the launch's set, whose end
token reaches the sequencers 2 cycles later. -/
def countDone (s : State) (q : Firing) : State :=
  let s := s.modCore q.core fun k => { k with scnt := (k.scnt + 1) % 2 ^ 32 }
  if !q.l then s else
  let key := nkey q.cctx q.pe q.slot
  if (s.core q.core).doneSet.contains key then s else
  let s := s.modCore q.core fun k => { k with doneSet := k.doneSet ++ [key] }
  match s.launchOf q.core with
  | none => s
  | some (n, l) =>
    if (doneNodes s l).all fun p => (s.core p.1).doneSet.contains p.2 then s.after 2 .fabricEndToken [n] else s

/-- DONE (R149): A to x, errors included; counts. -/
def execDone (_ : NF) (s : State) : Res :=
  withNode s true fun q =>
    if q.x then nodeFault s q 1
    else if q.e then countDone (fireError s q 1) q
    else countDone (finish2 s q 1 (some q.a.val) none) q

/-- The MARK nodes of a launch, by core and node key. -/
def markNodes (s : State) (l : Launch) : List (Nat × Nat) :=
  l.cores.flatMap fun c => ((s.core c).nodes.filter fun p =>
    match p.2.instr with | .mark _ => true | _ => false).map fun p => (c, p.1)

/-- A MARK firing registers its arrival at the current cut when snapshots are on; with MK, the last arrival triggers
the cut (R150, R289). -/
def arriveMark (s : State) (q : Firing) : State :=
  match s.launchOf q.core with
  | none => s
  | some (n, l) =>
    let cfg := timed s.now 0 l.snapcfg
    if !cfg.getLsbD 0 then s else
    let key := nkey q.cctx q.pe q.slot
    let s := s.modCore q.core fun k => if k.markSet.contains key then k else { k with markSet := k.markSet ++ [key] }
    if cfg.getLsbD 1 && (markNodes s l).all (fun p => (s.core p.1).markSet.contains p.2) then s.after 0 .cut [n] else s

/-- MARK (R150): A with M set, to x and y. -/
def execMark (_ : NF) (s : State) : Res :=
  withFiring s 1 false fun q => arriveMark (finish s { q with m := true } 1 q.a.val) q

/-- Whether context tag t is free for a CALL in this cycle: a tag freed in cycle n is free from n + 1 on (R151). -/
def tagIsFree (k : Core) (now t : Nat) : Bool :=
  (AMap.find? k.tags t).isNone && !(k.tagFree.any fun p => p.1 == t && decide (now ≤ p.2))

/-- CALL (R88, R102, R151): without a free tag it is not ready, whatever A is; it takes the lowest free tag, records the return entry and
sends A retagged; an error token passes with its tag and allocates nothing. -/
def execCall (_ : NF) (s : State) : Res :=
  withNode s true fun q =>
    match (List.range 255).find? fun i => tagIsFree (s.core q.core) s.now (i + 1) with
    | none => s
    | some i =>
      if q.e then
        startFiring s q 1 ((outPorts q.f).map fun p => (p, rawTok { q.a.val with side := none } q.tag q.m q.l true p))
          (if q.f.x = 10 ∨ q.f.y = 10 then some (sfVal { q.a.val with side := none }) else none) true
      else if q.x then nodeFault s q 1
      else
        let s := s.modCore q.core fun k => { k with tags := AMap.put k.tags (i + 1) (q.tag, q.lit, q.cctx) }
        let t : Tag := ⟨BitVec.ofNat 8 (i + 1), 0⟩
        startFiring s q 1 ((outPorts q.f).map fun p => (p, rawTok q.a.val t q.m q.l false p))
          (if q.f.x = 10 ∨ q.f.y = 10 then some (sfVal q.a.val) else none)

/-- Whether the matching store of a destination node could take a returned token now (R86, R152). -/
def canReturn (k : Core) (cctx pe slot : Nat) (t : Token) (sideB : Bool) : Bool :=
  (offer (k.store cctx pe) slot t sideB).isSome

/-- RET (R76, R102, R152): A's data and flags with the recorded caller tag to the recorded slot and side; frees the tag; an
unallocated tag faults ILLEGAL and the firing is withdrawn; not ready while the destination could not accept. -/
def execRet (_ : NF) (s : State) : Res :=
  withNode s true fun q =>
    if q.x then nodeFault s q 1 else
    let k := s.core q.core
    let ct := q.tag.ctag.toNat
    match (if ct = 0 then none else AMap.find? k.tags ct) with
    | none => nodeFault s q 1
    | some (caller, cw, cctx) =>
      let pe := fld cw.toNat 11 6
      let slot := fld cw.toNat 5 0
      let t : Token := ⟨if q.a.vec then q.a.lanes else [q.a.lane 0], { caller with itag := fixItag caller.itag }, none, q.m, q.l, q.e⟩
      if !canReturn k cctx pe slot t (bitAt cw.toNat 12) then s else
      let d := absDiff (q.pe / 8) (pe / 8) + absDiff (q.pe % 8) (pe % 8)
      let s := s.modCore q.core fun k => { k with tags := AMap.del k.tags ct, tagFree := k.tagFree ++ [(ct, s.now)] }
      let s := startFiring s q (1 + d) [] none
      let back : OutRes := ⟨8192 + ((64 * cctx + pe) * 64 + slot) * 2 + b2n (bitAt cw.toNat 12), 0, some t⟩
      s.modCore q.core fun k =>
        { k with flights := k.flights.dropLast ++ (k.flights.getLast?.map fun fl => { fl with outs := [back] }).toList }

/-- TAGRD (R153): A's tag as data. -/
def execTagrd (_ : NF) (s : State) : Res :=
  withFiring s 1 false fun q => finish s q 1 (Val.scalar (q.tag.ctag ++ q.tag.itag))

/-- TAGWR (R153): A with the tag of B's lane 0, then the tag action; an ITAG of 0xFF_FFFF that results becomes 0. -/
def execTagwr (_ : NF) (s : State) : Res :=
  withFiring s 1 false fun q =>
    let w := q.bl 0
    let itag := w.extractLsb' 0 24
    finish s { q with tag := ⟨w.extractLsb' 24 8, if q.f.tg = 1 then itag else fixItag itag⟩ } 1 q.a.val

/-- SNIP (R92, R154): takes its operands, reserves its outputs, and holds the issue slot until END. -/
def execSnip (_ : NF) (s : State) : Res :=
  withFiring s 1 false fun q =>
    let t : Token := ⟨if q.a.vec then q.a.lanes else [q.a.lane 0], q.tag, none, q.m, q.l, false⟩
    let b := q.b.map fun b => (⟨if b.vec then b.lanes else [b.lane 0], q.btag, none, false, false, false⟩ : Token)
    match AMap.find? (s.core q.core).nodes (nkey q.cctx q.pe q.slot) with
    | none => s
    | some w =>
      let back := backOf (s.core q.core) q.cctx q.pe q.slot w.instr q.pick
      let s := s.modCore q.core fun k => consume k q.cctx q.pe q.slot w.instr q.pick
      let (outs, s) := reserveAll s q.core q.cctx q.pe q.slot (outPorts q.f)
      let run : SnipRun :=
        { cctx := q.cctx, slot := q.slot, pc := q.slot + 1, a := t, b := b
          bv := (match q.b with | some b => b.vec | none => false), temps := [], outx := none, outy := none, sfNew := none, endAt := 0
          outs := outs, act := q.f.tg.toNat, fromBufs := back.1, fromStore := back.2 }
      markIssued (s.modCore q.core fun k => { k with snips := AMap.put k.snips q.pe run }) q.core q.pe

/-- The token END sends for a destination code of the SNIP node, with its tag action (R94, R135). -/
def snipOut (r : SnipRun) (o : Option (List Word × Bool × Nat)) (port : Nat) : Option Token :=
  match o with
  | none => none
  | some (w, vec, _) => mkTok ⟨w, vec, none⟩ r.a.tag r.act (r.b.getD r.a).tag r.a.m r.a.l port

/-- END (R94): once every word that wrote an output or sf is at its latency, sends what was written, releases the other entries,
writes sf, discards the temporaries and frees the issue slot. -/
def execSnipEnd (_ : NF) (s : State) : Res :=
  match s.cur with
  | .snip c pe =>
    let k := s.core c
    match AMap.find? k.snips pe with
    | none => .next s
    | some r =>
      if AMap.get k.issued pe 0 == s.now + 1 || decide (s.now < r.endAt) then .next s
      else match AMap.find? k.nodes (nkey r.cctx pe r.slot) with
        | none => .next s
        | some w =>
          let x := (nodeFields w.instr).x.toNat
          let y := (nodeFields w.instr).y.toNat
          let outs := r.outs.map fun o =>
            { o with tok := if o.port % 16 = x then snipOut r r.outx x else snipOut r r.outy y }
          let sf := if x = 10 then r.outx.map fun v => sfVal ⟨v.1, v.2.1, none⟩
            else if y = 10 then r.outy.map fun v => sfVal ⟨v.1, v.2.1, none⟩ else none
          let sf := sf <|> r.sfNew.map (·.1)
          let (id, s) := s.fresh
          let s := s.modCore c fun k =>
            { k with snips := AMap.del k.snips pe, flights := k.flights ++ [⟨id, r.cctx, pe, r.slot, outs, sf, false⟩] }
          .next ((markIssued s c pe).after 1 .resultDelivery [c, id])
  | _ => .next s

/-- ERRCHK (R155): A to x with the tag action when E is clear, unchanged to y when E is set. -/
def execErrchk (_ : NF) (s : State) : Res :=
  withNode s true fun q =>
    let one := fun (p : Nat) (t : Option Token) => if p ≤ 8 ∨ p = 11 then [(p, t)] else []
    if q.e then
      startFiring s q 1 (one q.f.x.toNat none ++ one q.f.y.toNat (rawTok q.a.val q.tag q.m q.l true q.f.y.toNat))
        (if q.f.y = 10 then some (sfVal q.a.val) else none) true
    else finish2 s q 1 (some q.a.val) none

/-- SYNC (R143): A to x, B to y with B's own tag, the tag action on both. -/
def execSync (_ : NF) (s : State) : Res :=
  withFiring s 1 false fun q =>
    let one := fun (p : Nat) (t : Option Token) => if p ≤ 8 ∨ p = 11 then [(p, t)] else []
    let bv := match q.b with | some b => b.val | none => q.a.val
    startFiring s q 1
      (one q.f.x.toNat (mkTok q.a.val q.tag q.f.tg.toNat q.btag q.m q.l q.f.x.toNat)
        ++ one q.f.y.toNat (mkTok bv q.btag q.f.tg.toNat q.btag q.m q.l q.f.y.toNat))
      (if q.f.x = 10 then some (sfVal q.a.val) else if q.f.y = 10 then some (sfVal bv) else none)

/-- COUNT (R156): counts in sf lane 0; reports and clears at the limit or at L. -/
def execCount (_ : NF) (s : State) : Res :=
  withFiring s 1 false fun q =>
    let c := q.sf.getD 0 0 + 1
    let b := q.bl 0
    if (b ≠ 0 ∧ c = b) ∨ q.l then
      startFiring s q 1 ((outPorts q.f).map fun p => (p, mkTok (Val.scalar c) q.tag q.f.tg.toNat q.btag q.m q.l p))
        (some (q.sf.set 0 0))
    else startFiring s q 1 ((outPorts q.f).map fun p => (p, none)) (some (q.sf.set 0 c))

end Sys2Proof.Machine
end

