-- ==== Sys2Proof/Machine/IntNode.lean ====
section
/-! DEFINITION. Integer and address node operations (R138, R139): one lane function each, over the lane-wise operation
of Operands. -/

namespace Sys2Proof.Machine

/-- A signed value clamped to 32 bits (R138). -/
def clamp32 (z : Int) : Word := word (intClamp 10 z)

/-- Leading zero bits of a word, by bits from n down. -/
def clzFrom (w : Word) : Nat → Nat
  | 0 => 0
  | n + 1 => if w.getLsbD n then 0 else 1 + clzFrom w n

/-- One bits among the n lowest. -/
def popFrom (w : Word) : Nat → Nat
  | 0 => 0
  | n + 1 => (if w.getLsbD n then 1 else 0) + popFrom w n

/-- The n lowest bits reversed into the top of a word. -/
def brevFrom (w : Word) : Nat → Nat
  | 0 => 0
  | n + 1 => (if w.getLsbD n then 2 ^ (31 - n) else 0) + brevFrom w n

/-- ADD (R138). -/
def execAdd (_ : NF) (s : State) : Res := laneOp s 1 fun a b _ => a + b
/-- SUB (R138). -/
def execSub (_ : NF) (s : State) : Res := laneOp s 1 fun a b _ => a - b
/-- ADDS (R138). -/
def execAdds (_ : NF) (s : State) : Res := laneOp s 1 fun a b _ => clamp32 (a.toInt + b.toInt)
/-- SUBS (R138). -/
def execSubs (_ : NF) (s : State) : Res := laneOp s 1 fun a b _ => clamp32 (a.toInt - b.toInt)
/-- MUL (R138). -/
def execMul (_ : NF) (s : State) : Res := laneOp s 1 fun a b _ => a * b
/-- MULH (R138). -/
def execMulh (_ : NF) (s : State) : Res := laneOp s 1 fun a b _ => word (wrap 64 (a.toInt * b.toInt) / 2 ^ 32)
/-- MULHN (R138). -/
def execMulhn (_ : NF) (s : State) : Res := laneOp s 1 fun a b _ => word (a.toNat * b.toNat / 2 ^ 32)
/-- MIN (R138). -/
def execMin (_ : NF) (s : State) : Res := laneOp s 1 fun a b _ => if a.toInt ≤ b.toInt then a else b
/-- MAX (R138). -/
def execMax (_ : NF) (s : State) : Res := laneOp s 1 fun a b _ => if a.toInt ≤ b.toInt then b else a
/-- MINN (R138). -/
def execMinn (_ : NF) (s : State) : Res := laneOp s 1 fun a b _ => if a.toNat ≤ b.toNat then a else b
/-- MAXN (R138). -/
def execMaxn (_ : NF) (s : State) : Res := laneOp s 1 fun a b _ => if a.toNat ≤ b.toNat then b else a
/-- ABS (R138). -/
def execAbs (_ : NF) (s : State) : Res := laneOp s 1 fun a _ _ => if a.msb then -a else a
/-- NEG (R138). -/
def execNeg (_ : NF) (s : State) : Res := laneOp s 1 fun a _ _ => -a
/-- AND (R138). -/
def execAnd (_ : NF) (s : State) : Res := laneOp s 1 fun a b _ => a &&& b
/-- OR (R138). -/
def execOr (_ : NF) (s : State) : Res := laneOp s 1 fun a b _ => a ||| b
/-- XOR (R138). -/
def execXor (_ : NF) (s : State) : Res := laneOp s 1 fun a b _ => a ^^^ b
/-- ANDN (R138). -/
def execAndn (_ : NF) (s : State) : Res := laneOp s 1 fun a b _ => a &&& ~~~b
/-- NOT (R138). -/
def execNot (_ : NF) (s : State) : Res := laneOp s 1 fun a _ _ => ~~~a
/-- SHL: 0 from 32 on (R138). -/
def execShl (_ : NF) (s : State) : Res := laneOp s 1 fun a b _ => if 32 ≤ b.toNat then 0 else a <<< b.toNat
/-- SHR: 0 from 32 on (R138). -/
def execShr (_ : NF) (s : State) : Res := laneOp s 1 fun a b _ => if 32 ≤ b.toNat then 0 else a >>> b.toNat
/-- SAR by at most 31 (R138). -/
def execSar (_ : NF) (s : State) : Res := laneOp s 1 fun a b _ => a.sshiftRight (min b.toNat 31)
/-- ROT left by B[4:0] (R138). -/
def execRot (_ : NF) (s : State) : Res := laneOp s 1 fun a b _ => a.rotateLeft (b.toNat % 32)
/-- CLZ (R138). -/
def execClz (_ : NF) (s : State) : Res := laneOp s 1 fun a _ _ => word (clzFrom a 32)
/-- POPC (R138). -/
def execPopc (_ : NF) (s : State) : Res := laneOp s 1 fun a _ _ => word (popFrom a 32)
/-- BREV (R138). -/
def execBrev (_ : NF) (s : State) : Res := laneOp s 1 fun a _ _ => word (brevFrom a 32)
/-- LEA: A + (B << sf[4:0]) of the same lane (R137, R138). -/
def execLea (_ : NF) (s : State) : Res := laneOp s 1 fun a b v => a + (b <<< (v.toNat % 32))
/-- CMP under the condition in m (R113, R138). -/
def execCmp (f : NF) (s : State) : Res := laneOp s 1 fun a b _ => boolWord (cmpS f.m.toNat a b)
/-- CMPN under the condition in m (R113, R138). -/
def execCmpn (f : NF) (s : State) : Res := laneOp s 1 fun a b _ => boolWord (cmpN f.m.toNat a b)
/-- TST by m (R138). -/
def execTst (f : NF) (s : State) : Res := laneOp s 1 fun a b _ => boolWord (tstW f.m.toNat a b)
/-- SEL: A where sf's lane is not 0, else B (R137, R138). -/
def execSel (_ : NF) (s : State) : Res := laneOp s 1 fun a b v => if v ≠ 0 then a else b
/-- MOV (R138). -/
def execMov (_ : NF) (s : State) : Res := laneOp s 1 fun a _ _ => a

end Sys2Proof.Machine
end

