-- ==== Sys2Proof/Machine/Mgmt.lean ====
section
/-! DEFINITION. The management controller: power-on, resets, telemetry, logs, the topology record and firmware (R26-R29, R458). -/

namespace Sys2Proof.Machine

/-- The controller's commands, which work whenever 48 V is present (R26, R458). -/
def managed : List Instr :=
  [.powerOn, .moduleReset, .dieReset, .readTelemetry, .readFaultLog, .readTopology, .replaceTopology, .clearPort, .stageFirmware,
   .operatorCap]

/-- Whether an event is served: with the main side off, only the controller's (R26, R27). -/
def serves (s : State) (i : Instr) : Bool := s.powered || managed.contains i

/-- What comes to the package from outside, so that a reset does not undo it when it is still to come. -/
def fromOutside : List Instr :=
  managed ++ [.uncorrectableError, .registerWrite, .qbaseWrite, .qcfgWrite, .qtailWrite, .ctxCreate, .ctxStop, .ctxResume, .ctxDestroy,
    .ctxRelease, .ctxcmdBadOp, .pgRetry, .pgRefuse, .pgInvalidatePage, .pgInvalidateContext, .pgcmdBadOp, .lkctlEnSet, .lkctlEnClear,
    .laneLock, .laneLockLost, .attestation, .attestFlit, .dataFlit, .ackFlit, .nakFlit, .creditFlit, .timeFlit]

/-- Whether both signatures of a firmware image verify and its version is not below the minimum (R27, R458). -/
def fwGood (s : State) (f : FwImage) : Bool := f.sigEd && f.sigMl && decide (s.fwMin ≤ f.version)

/-- Whether both signatures of a topology record verify (R458). -/
def topoGood (t : TopoRec) : Bool := t.sigEd && t.sigMl

/-- Whether the device record is accepted: both its signatures verify (R28, R458). -/
def deviceGood (d : DeviceRec) : Bool := d.sigEd && d.sigMl

/-- The firmware writes the topology record's table into both hubs' blocks (R455). -/
def writeRoutes (t : TopoRec) : AMap DWord :=
  t.routes.foldl (fun r p => AMap.put (AMap.put r (p.1 % 256) p.2) (256 + p.1 % 256) p.2) []

/-- The reset package with what outlasts a reset: time as the model counts it, the flash and the controller's own records. The boot ROM
starts the firmware, which writes the route tables from the topology record, only if the image verifies; else the main side stays off
and the controller reports it (R27, R455). A device record that does not verify gives no configuration, and the main side stays off
too (DESIGN CHOICE, log 25). -/
def boot (s : State) : State :=
  let good := fwGood s s.fwActive && deviceGood s.device
  { State.reset with
    now := s.now, agenda := s.agenda.filter (fun e => decide (s.now < e.1) && fromOutside.contains e.2.1), settledAt := s.settledAt,
    offered := s.offered, freeCtr := s.freeCtr, nextId := s.nextId, faultLog := s.faultLog, device := s.device, topo := s.topo, fwActive := s.fwActive,
    fwStaged := s.fwStaged, fwMin := s.fwMin, mgmtOut := s.mgmtOut, powered := good,
    mgmtLog := s.mgmtLog ++ (if fwGood s s.fwActive then [] else [(1, s.fwActive.version)]) ++ (if deviceGood s.device then [] else [(4, 0)]),
    routes := if topoGood s.topo then writeRoutes s.topo else [] }

/-- POWER_ON (R27). -/
def execPowerOn (s : State) : Res := .next (boot s)

/-- MODULE_RESET (R458): the whole main side is as after power-on; ports that had failed are DOWN (R451). -/
def execModuleReset (s : State) : Res := .next (boot s)

/-- The launches of a die end without their end (DESIGN CHOICE, log 25). -/
def dropLaunches (s : State) (f : Launch → Bool) : State :=
  (s.launches.filter fun p => f p.2).foldl (fun s p =>
    let s := dropUser (vacateGroup s p.1 p.2) p.2.entry p.1
    ({ s with launches := AMap.del s.launches p.1 }).refreshCtx p.2.ctx) s

/-- The access-table entries outside a register block. -/
def dropAccess (s : State) (base : Nat) : State := { s with access := s.access.filter fun p => !(decide (base ≤ p.1) && decide (p.1 < base + 32)) }

/-- Ports are as after reset; what they had not delivered fails over (R454). -/
def resetPorts (s : State) (l : List Nat) : State :=
  l.foldl (fun s p => let s := failover s p; { s with ports := AMap.del s.ports p }) s

/-- DIE_RESET (R458) of [die]: what the die holds is as after die reset: 0-3 a compute die, 4 HD0 with the scheduler block, the package
count and counters 0-4,095, 5 HD1 with counters 4,096-8,191 (R14, R21, R299, R308, R310, R322, R378, R385, R455). -/
def execDieReset (s : State) : Res :=
  let d := s.arg 0
  if d < 4 then
    let s := dropLaunches s (·.die == d)
    .next (dropAccess { s with
      cores := s.cores.filter (fun p => dieOf p.1 != d), dies := AMap.del s.dies d, bars := s.bars.filter (fun p => p.1 / 4096 != d),
      pqs := s.pqs.filter (fun p => p.1 / 64 != d), entries := s.entries.filter (fun p => p.1 / 64 != d),
      accs := s.accs.filter (fun p => dieOf p.2.core != d), ops := s.ops.filter (fun p => dieOf p.2.core != d),
      msgs := s.msgs.filter (fun p => dieOf p.2.src != d && dieOf p.2.dst != d) } (0x4000002000000 + d * 0x10000))
  else if d = 4 then
    let s := dropLaunches s fun _ => true
    let s := dropAccess (dropAccess s 0x4000001000000) 0x4000003000000
    let s := resetPorts s (List.range 8)
    .next { s with
      ctxs := [], queues := [], ctxcmd := 0, ctxrsp := State.reset.ctxrsp, pgcmd := 0, pgrsp := State.reset.pgrsp, gangbase := 0,
      gangPosts := [], routes := s.routes.filter (fun p => decide (256 ≤ p.1)), peerResp := [], count := 0, timeSet := false, timeSlew := 0,
      wcnts := s.wcnts.filter fun p => decide (4096 ≤ p.1) }
  else if d = 5 then
    let s := resetPorts (dropAccess s 0x4000003100000) ((List.range 8).map (· + 8))
    .next { s with wcnts := s.wcnts.filter (fun p => decide (p.1 < 4096)), routes := s.routes.filter fun p => decide (p.1 < 256) }
  else .next s

/-- READ_TELEMETRY (R21, R458): the dies' temperatures, coolant supply and power draw, which are sensors' readings (log 2), CAP and D of
each die, and the sixteen link status words. -/
def execReadTelemetry (s : State) : Res :=
  let (n, s) := s.freeArg
  let sensors := (List.range 6).map fun i => Config.sensor (4 * (n + i) + 3)
  let power := (List.range 4).flatMap fun d => [(s.die d).cap, (s.die d).d]
  .next { s with mgmtOut := sensors ++ power ++ (List.range 16).map (fun p => (s.port p).status), freeCtr := s.freeCtr + 5 }

/-- READ_FAULT_LOG (R458): the records of the device-level fault log, as their doublewords. -/
def execReadFaultLog (s : State) : Res := .next { s with mgmtOut := s.faultLog.flatMap fun r => r.map (·.toNat) }

/-- READ_TOPOLOGY (R458): package, time master, retired cores, neighbours and routes, each list after its length. -/
def execReadTopology (s : State) : Res :=
  let t := s.topo
  .next { s with mgmtOut := [t.pkg.toNat, t.master, t.retired.length] ++ t.retired ++ [t.ports.length] ++ t.ports.flatMap (fun p => [p.1, p.2])
    ++ [t.routes.length] ++ t.routes.flatMap fun p => [p.1, p.2.toNat] }

/-- REPLACE_TOPOLOGY (R455, R458): a record is accepted only if both signatures verify; the firmware writes its routes. -/
def execReplaceTopology (s : State) : Res :=
  match s.cur with
  | .ev (.topo t) =>
    if topoGood t then
      .next { s with topo := t, routes := if s.powered then writeRoutes t else s.routes }
    else .next { s with mgmtLog := s.mgmtLog ++ [(3, t.pkg.toNat)] }
  | _ => .next s

/-- CLEAR_PORT (R451): a FAILED port [p] is DOWN. -/
def execClearPort (s : State) : Res :=
  let p := s.arg 0
  .next (if (s.port p).state = .failed then downPort s p else s)

/-- STAGE_FIRMWARE (R27, R458): the image is written to the inactive slot; only one that verifies and is not below the minimum version
is marked active, and the slot it replaces is then the inactive one. -/
def execStageFirmware (s : State) : Res :=
  match s.cur with
  | .ev (.fw f) =>
    if fwGood s f then .next { s with fwActive := f, fwStaged := some s.fwActive }
    else .next { s with fwStaged := some f, mgmtLog := s.mgmtLog ++ [(1, f.version)] }
  | _ => .next s

end Sys2Proof.Machine
end

