-- ==== Sys2Proof/Machine/Page.lean ====
section
/-! DEFINITION. The page instructions, promotions, the pager's commands and the Banker (R401, R402, R405-R418). -/

namespace Sys2Proof.Machine

/-! ## PROMOTE and DEMOTE (R405, R413, R418) -/

/-- Puts a job into its bank's queue, in the order of arrival. -/
def insertJob (j : PJob) : List PJob → List PJob
  | [] => [j]
  | x :: r => if j.since < x.since then j :: x :: r else x :: insertJob j r

/-- Sends the 64 jobs of an operation to the banks of a block, where they arrive in cycle t. -/
def sendJobs (s : State) (id pa leaf : Nat) (demote pin : Bool) (t : Nat) : State :=
  (blockRows pa).foldl (fun s a =>
    let (b, r) := bankRow a
    let d := homeDie a
    let s := s.modBank d b fun k => { k with jobs := insertJob ⟨r, demote, pin, leaf, id, t⟩ k.jobs }
    (s.at t .promotionRun [d, b]).at (t + 4096) .promotionForce [d, b]) s

/-- The leaf of a 64 KiB page after its rows have been promoted or demoted (R402): written only over the entry that the device has
read, its own changes of STATE apart. -/
def leafAfter (s : State) (o : UnitOp) : State :=
  let pa := o.victims.getD 3 0
  let pin := o.victims.getD 2 0 == 1
  let full := (blockRows pa).all (promoted s)
  let e := dword (s.phys64 o.target)
  if withState e 0 ≠ withState o.val 0 ∨ o.target = 0 then s
  else if o.op = 0x41 then (if pin then leafTo s o.target [3] 2 else leafTo s o.target [2, 3] 1)
  else if !full then s
  else if pin then leafTo s o.target [1, 2] 3 else leafTo s o.target [1] 2

/-- A row of operation id is done: with the last one the leaf is updated and the requester goes on; the Banker's next move starts. -/
def rowDone (s : State) (id : Nat) (failed : Bool) : State :=
  match AMap.find? s.ops id with
  | none => s
  | some o =>
    let left := o.victims.getD 0 0 - 1
    let f := if failed then 1 else o.victims.getD 1 0
    let o : UnitOp := { o with victims := left :: f :: o.victims.drop 2 }
    if left ≠ 0 then { s with ops := AMap.put s.ops id o } else
    let s := leafAfter { s with ops := AMap.del s.ops id } o
    if 1024 ≤ o.core then
      wakeBanker (s.modDie (o.core - 1024) fun k => { k with bkrun := none }) (o.core - 1024)
    else seqReply s o (if f = 1 then 3 else 0) (s.now + o.half)

/-- Whether no request is queued for a bank: none on its way to it that misses its slice (R251). -/
def bankIdle (s : State) (d b : Nat) : Bool :=
  !(s.accs.any fun p => p.2.stage == .sent && p.2.space == .phys && p.2.todo.any fun q =>
    decide (q.addr < 2 ^ 49) && homeDie q.addr == d && (bankRow q.addr).1 == b && s.missesSlice q.addr)

/-- One job of a bank runs (R405): one that copies a row holds the bank 60 cycles, the others are done at once. -/
def runJob (s : State) (d b : Nat) : State :=
  match (s.bankAt d b).jobs with
  | [] => s
  | j :: r =>
    if s.now < j.since then s else
    let s := s.modBank d b fun k => { k with jobs := r }
    let (s, slot, failed) := if j.demote then (let x := demoteRow s d b j; (x.1, x.2, false)) else promoteRow s d b j
    match slot with
    | some i => (s.modBank d b fun k => { k with held := s.now + 60, running := some (j, i) }).after 60 .promotionRun [d, b]
    | none =>
      let s := rowDone s j.op failed
      if r.isEmpty then s else s.after 0 .promotionRun [d, b]

/-- A bank whose hold has ended is done with its job: the slot changes its row now (R405). -/
def endHold (s : State) (d b : Nat) : State :=
  let k := s.bankAt d b
  match k.running with
  | some (j, i) => if k.held ≤ s.now then rowDone (slotTaken (s.modBank d b fun k => { k with running := none }) d b j i) j.op false else s
  | none => s

/-- PROMOTION_RUN (R251, R402, R405): bank [die, bank] ends a hold, and runs its next job in an idle cycle. -/
def execPromotionRun (s : State) : Res :=
  let d := s.arg 0
  let b := s.arg 1
  let s := endHold s d b
  let k := s.bankAt d b
  if k.running.isSome ∨ k.jobs.isEmpty then .next s
  else if bankIdle s d b then .next (runJob s d b)
  else .next ((s.cancelEv .promotionRun fun l => l == [d, b]).after 1 .promotionRun [d, b])

/-- PROMOTION_FORCE (R251, R405): a job of bank [die, bank] that has waited 4,096 cycles is forced, once no hold runs. -/
def execPromotionForce (s : State) : Res :=
  let d := s.arg 0
  let b := s.arg 1
  let s := endHold s d b
  let k := s.bankAt d b
  match k.jobs with
  | [] => .next s
  | j :: _ =>
    if s.now < j.since + 4096 then .next s
    else if k.running.isSome then .next (s.at k.held .promotionForce [d, b])
    else .next (runJob s d b)

/-- Sends a promotion or demotion of the block that holds g_a (R413). -/
def promoteOp (f : CF) (s : State) (demote : Bool) : Res :=
  withSeq s [f.a.toNat, f.d.toNat] fun c k =>
    let va := (greg k f.a.toNat).toNat / 65536 * 65536
    let ctx := s.ctxOf c
    match translate s c ctx va .read with
    | .error _ => awaitPage s c false va 8
    | .ok (t, n) =>
      let st := fld t.leaf 61 59
      let half := n + 24 * crossings (dieOf c) (homeDie t.pa) + 8
      let done := fun (v : DWord) => seqResult (fillTlb s 0 c ctx va t) c f.d.toNat v half 4 half
      if st = 5 then s
      else if t.pa / 2 ^ 48 = 1 then done 1
      else if t.pa / 2 ^ 48 ≠ 0 then done 2
      else if st = 6 then done 5
      else if (memRegion s t.pa).isNone then seqFault s c 7
      else
        let (id, s) := (fillTlb s 0 c ctx va t).fresh
        let leaf := if t.level = 4 then t.leafPa else 0
        let pin := f.imm.toNat % 2
        let o : UnitOp := seqOp s c (if demote then 0x41 else 0x40) leaf (dword t.leaf) f.d.toNat (half / 2) [64, 0, pin, t.pa]
        let s := awaitAnswer { s with ops := AMap.put s.ops id o } c
        sendJobs s id t.pa leaf demote (pin == 1) (s.now + (half - half / 2))

/-- PROMOTE (R405, R413). -/
def execPromote (f : CF) (s : State) : Res := promoteOp f s false

/-- DEMOTE (R405, R413). -/
def execDemote (f : CF) (s : State) : Res := promoteOp f s true

/-! ## TLBINV and the pager's invalidations (R401, R403, R407, R414) -/

/-- The outstanding accesses translated by entries of TLBs (R409, R414): those of their context whose bytes lie in the entries' frames, or in
a window slot that stands for them; NT and WC stores still in a write-combining buffer under their numbers there. -/
def translatedBy (s : State) (es : List TlbEnt) : List Nat :=
  let hit := fun (ctx pa : Nat) => es.any fun t =>
    let z := 16 + 10 * (4 - t.level)
    t.ctx == ctx && fld t.leaf.toNat 51 13 * 2 ^ 13 / 2 ^ z == pa / 2 ^ z
  (s.accs.filter fun p => p.2.stage != .performed &&
    ((p.2.space == .phys && p.2.todo.any fun q => hit (s.ctxOf p.2.core) q.addr)
      || (p.2.space == .window && es.any fun t => t.ctx == s.ctxOf p.2.core))).map (·.1)
    ++ s.cores.flatMap fun k => k.2.wc.flatMap fun e => if hit (s.ctxOf k.1) (e.line * 128) then e.stores.map fun x => 2 ^ 68 + x.2.1 else []

/-- Whether nothing that an operation waits for is still to perform, whichever core issued it (R414). -/
def allSettled (s : State) (ids : List Nat) : Bool :=
  ids.all fun i => if 2 ^ 68 ≤ i then s.cores.all fun k => allPerformed s k.1 [i] else allPerformed s 0 [i]

/-- Pages of a context leave every TLB and every Banker window (R402, R414): the page of an address, or all. Answers the accesses to
wait for. -/
def invalidate (s : State) (ctx : Nat) (va : Option Nat) : State × List Nat :=
  let hit := fun (t : TlbEnt) => match va with | some a => t.hit ctx a | none => t.ctx == ctx
  let ids := translatedBy s (tlbEntries s hit)
  let s := dropTlb s hit
  let slots := s.launches.flatMap fun p => if p.2.ctx ≠ ctx then [] else match p.2.window with
    | some w => (w.slots.filter fun x => match va with | some a => x.2.1 == a / 65536 * 65536 | none => true).map fun x => (p.1, x.1)
    | none => []
  let s := slots.foldl (fun s x => returnSlot s x.1 x.2) s
  let s := match va with
    | some _ => s
    | none => { s with dies := s.dies.map fun (d : Nat × Die) => (d.1, { d.2 with bkcnt := d.2.bkcnt.map fun e => if e.ctx == ctx then BkCnt.free else e }) }
  (s, ids)

/-- TLBINV (R402, R407, R414, R418). -/
def execTlbinv (f : CF) (s : State) : Res :=
  withSeq s [f.a.toNat] fun c k =>
    let v := (greg k f.a.toNat).toNat
    let all := f.imm.toNat == 1
    if (all && v != 0) || (!all && decide (2 ^ 56 ≤ v)) then seqFault s c 1 else
    let (s, ids) := invalidate s (s.ctxOf c) (if all then none else some v)
    let (id, s) := s.fresh
    awaitAnswer { s with ops := AMap.put s.ops id (seqOp s c 0x42 0 0 0 0 ids) } c

/-! ## SLWAYS and BNKHINT (R246, R407, R410, R415, R416) -/

/-- The outstanding accesses to the window of a launch's group. -/
def windowAccesses (s : State) (n : Nat) : List Nat :=
  (s.accs.filter fun p => p.2.space == .window && p.2.stage != .performed && (s.core p.2.core).launch == some n).map (·.1)

/-- SLWAYS (R246, R415): the operation applies when the accesses to the window issued before it have performed. -/
def execSlways (f : CF) (s : State) : Res :=
  withSeq s [f.a.toNat, f.d.toNat] fun c k =>
    let w := (greg k f.a.toNat).toNat
    match s.launchOf c with
    | none => s
    | some (n, _) =>
      if 12 < w then seqFault s c 1 else
      let (id, s) := s.fresh
      awaitAnswer { s with ops := AMap.put s.ops id (seqOp s c 0x43 0 (dword w) f.d.toNat 0 (windowAccesses s n)) } c

/-- Cycles of an SLWAYS to v once its wait has ended (R418), the write-backs of the ways that enter scratch among them (R246). -/
def slwaysTime (s : State) (l : Launch) (v : Nat) : Nat :=
  16 + 256 * absDiff l.ways v + dirtyWays s l (16 - v) (16 - l.ways)

/-- Cycles that an operation takes once its wait has ended (R418): 40 of TLBINV, 4 of BNKHINT. -/
def pageTime (s : State) (o : UnitOp) : Nat :=
  if o.op = 0x42 then 40 else if o.op = 0x44 then 4
  else match AMap.find? s.launches o.launch with
    | some l => slwaysTime s l o.val.toNat
    | none => 0

/-- The parts of a cycle's end in which the operations of TLBINV, SLWAYS and BNKHINT go on: those whose accesses have performed
complete in time, the SLWAYS of a group one after another (R414-R416, R418). -/
def servePage (s : State) : State :=
  s.ops.foldl (fun s p =>
    let o := p.2
    let first := !(s.ops.any fun q => q.2.op == 0x43 && q.2.launch == o.launch && decide (q.1 < p.1))
    if (o.op ≠ 0x42 ∧ o.op ≠ 0x43 ∧ o.op ≠ 0x44) ∨ !allSettled s o.victims ∨ (o.op = 0x43 ∧ !first) then s
    else if o.half = 0 then { s with ops := AMap.put s.ops p.1 { o with half := s.now + pageTime s o } }
    else if s.now + 1 < o.half then s
    else
      let s := { s with ops := AMap.del s.ops p.1 }
      if o.op = 0x43 then
        match AMap.find? s.launches o.launch with
        | none => s
        | some l => seqReply (applyWays s o.launch l o.val.toNat) o (dword l.ways) (s.now + 1)
      else if o.core = 4096 then { s with pgrsp := dword (2 ^ 63) } else seqReply s o 0 (s.now + 1)) s

/-- The leaf of an address, with no permission asked (R416, R417). -/
def lookLeaf (s : State) (ctx va : Nat) : Except (Nat × Nat) Trans := s.walk ctx va .look

/-- BNKHINT (R407, R410, R416). -/
def execBnkhint (f : CF) (s : State) : Res :=
  withSeq s [f.a.toNat, f.b.toNat] fun c k =>
    let va := (greg k f.a.toNat).toNat
    let v := (greg k f.b.toNat).toNat
    let ctx := s.ctxOf c
    match s.launchOf c with
    | none => s
    | some (n, l) =>
      let wait := fun (s : State) =>
        let (id, s) := s.fresh
        awaitAnswer { s with ops := AMap.put s.ops id (seqOp s c 0x44 0 0 0 0 (windowAccesses s n)) } c
      match f.imm.toNat with
      | 0 =>
        if va % 65536 ≠ 0 ∨ 65536 ≤ v then seqFault s c 1 else
        let s := match lookLeaf s ctx va with
          | .ok t => if bitAt t.leaf 56 then countPage s (dieOf c) ctx va v t.leafPa else s
          | .error _ => s
        seqNext s c 4 4
      | 1 =>
        let off := fld v 47 36
        let nsl := fld v 35 24
        let nvp := fld v 23 0
        if va % 65536 ≠ 0 ∨ 2 ^ 48 ≤ v ∨ nsl = 0 ∨ 768 < nsl ∨ nvp = 0 ∨ l.winSize < (off + nsl) * 65536 then seqFault s c 1
        else wait ((returnWindow s n).modLaunch n fun l => { l with window := some ⟨off, nsl, nvp, va, []⟩ })
      | _ => if v ≠ 0 then seqFault s c 1 else wait (returnWindow s n)

/-! ## PSTAT (R417) -/

/-- What PSTAT reads of a leaf (R417). -/
def pstatValue (s : State) (d ctx va : Nat) (t : Trans) : Nat :=
  let rows := if t.pa / 2 ^ 48 = 0 then blockRows t.pa else []
  let pinned := fun (a : Nat) => match (s.bankAt (homeDie a) (bankRow a).1).holding (bankRow a).2 with | some p => p.2.pin | none => false
  let cnt := match (s.die d).bkcnt.find? fun e => e.ctx == ctx && e.va == va / 65536 * 65536 with | some e => e.n | none => 0
  2 ^ 63 + fld t.leaf 61 59 * 2 ^ 60 + (4 - t.level) * 2 ^ 58 + fld t.pa 51 48 * 2 ^ 54 + b2n (bitAt t.leaf 58) * 2 ^ 53
    + b2n (bitAt t.leaf 57) * 2 ^ 52 + b2n (bitAt t.leaf 56) * 2 ^ 51 + (rows.filter (promoted s)).length * 2 ^ 40
    + (rows.filter pinned).length * 2 ^ 32 + cnt

/-- PSTAT (R417, R418). -/
def execPstat (f : CF) (s : State) : Res :=
  withSeq s [f.a.toNat, f.d.toNat] fun c k =>
    let va := (greg k f.a.toNat).toNat
    let ctx := s.ctxOf c
    match lookLeaf s ctx va with
    | .error e =>
      let lat := missTime s c ctx va e.1 + 12
      seqResult s c f.d.toNat (if e.2 = 3 then dword (7 * 2 ^ 60) else 0) lat 4 lat
    | .ok t =>
      let n := match translate s c ctx va .look with | .ok x => x.2 | .error _ => 260
      let lat := n + 24 * crossings (dieOf c) (homeDie t.pa) + 12
      seqResult s c f.d.toNat (dword (pstatValue s (dieOf c) ctx va t)) lat 4 lat

/-! ## The pager's commands (R401, R497) -/

/-- The answer to a pager command (R401). -/
def pgAnswer (s : State) (status : Nat) : State := { s with pgrsp := dword (2 ^ 63 + status * 2 ^ 60) }

/-- Takes up a command written to PGCMD (R401): one written while V = 0 is ignored; RSV bits must be 0 (STATUS 3),
and read 0 (R2). -/
def withPgcmd (s : State) (body : State → Nat → Nat → State) : Res :=
  let v := s.argVal.toNat
  if !s.pgrsp.msb then .next s
  else
    let t := { s with pgcmd := s.argVal &&& dword 0xFFFF00FFFFFFFFFF, pgrsp := 0 }
    .next (if fld v 47 40 ≠ 0 then pgAnswer t 3 else body t (fld v 59 48) (v % 2 ^ 40))

/-- The stalled page of a context whose record stands at an index: the die of its table, and the entry. -/
def stalledAt (s : State) (ctx ix : Nat) : Option (Nat × Stall) :=
  s.dies.findSome? fun (d : Nat × Die) => (d.2.stalls.find? fun t => t.ctx == ctx && t.recIdx == ix).map fun t => (d.1, t)

/-- The stall table of a die without an entry. -/
def unstall (s : State) (d : Nat) (t : Stall) : State := s.modDie d fun k => { k with stalls := k.stalls.erase t }

/-- A command that names a stalled record: STATUS 3 for a bad field, 2 for none. -/
def withStalled (s : State) (body : State → Nat → Stall → State) : Res :=
  withPgcmd s fun s ctx arg =>
    if 2 ^ 32 ≤ arg then pgAnswer s 3
    else match stalledAt s ctx arg with
      | none => pgAnswer s 2
      | some (d, t) => pgAnswer (body (unstall s d t) d t) 0

/-- The walk of a stalled access is made again, in its time (R400, R401). -/
def walkAgain (s : State) (id : Nat) : State :=
  match AMap.find? s.accs id with
  | none => s
  | some a =>
    let n := match transPieces s a.core (s.ctxOf a.core) a.kind.acc a.todo with | .ok (_, n) => n | .error (va, e) => missTime s a.core (s.ctxOf a.core) va e.1
    s.after n .pageWalk [id]

/-- PG_RETRY (R401, R497): every request of the entry is translated again. -/
def execPgRetry (s : State) : Res :=
  withStalled s fun s _ t =>
    t.asks.foldl (fun s x => if x.1 = 1 then s.after 0 .imageDecode [x.2.1] else retryQueue s x.2.1) (t.ids.foldl walkAgain s)

/-- A stalled access is refused: it faults, freezing its group (R401). -/
def refuseAccess (s : State) (t : Stall) (id : Nat) : State :=
  match AMap.find? s.accs id with
  | none => s
  | some a =>
    let va := match a.todo.find? fun p => p.addr / 65536 == t.va with | some p => p.addr | none => t.va * 65536
    faultAccess s id a t.cause va

/-- A refused request of the scheduler or its loader (R341, R497): the queue enters ERROR, its counter write left unwritten, or the image is
rejected. -/
def refuseAsk (s : State) (cause : Nat) (x : Nat × Nat × Nat) : State :=
  if x.1 = 1 then
    match AMap.find? s.entries x.2.1 with
    | some e => nextDecode (rejectImage s x.2.1 e { cause := cause, va := x.2.2 }) x.2.1
    | none => s
  else (queueError s x.2.1 cause x.2.2 0).modQueue x.2.1 fun k => { k with pend := k.pend.filter fun p => p.1 != x.2.2 }

/-- PG_REFUSE (R401, R497): every request of the entry ends in a fault; a queue's, in ERROR; a decoding, in the image's rejection. -/
def execPgRefuse (s : State) : Res :=
  withStalled s fun s _ t => t.asks.foldl (fun s x => refuseAsk s t.cause x) (t.ids.foldl (fun s i => refuseAccess s t i) s)

/-- An invalidation by the pager completes as TLBINV does (R401, R414). -/
def pgInvalidate (s : State) (ctx : Nat) (va : Option Nat) : State :=
  let (s, ids) := invalidate s ctx va
  let (id, s) := s.fresh
  { s with ops := AMap.put s.ops id { seqOp s 4096 0x42 0 0 0 0 ids with launch := 2 ^ 64 } }

/-- PG_INVALIDATE_PAGE (R401, R414): ARG holds VA[55:16]. -/
def execPgInvalidatePage (s : State) : Res := withPgcmd s fun s ctx arg => pgInvalidate s ctx (some (arg * 65536))

/-- PG_INVALIDATE_CONTEXT (R401, R414): ARG is 0. -/
def execPgInvalidateContext (s : State) : Res :=
  withPgcmd s fun s ctx arg => if arg ≠ 0 then pgAnswer s 3 else pgInvalidate s ctx none

/-- PGCMD_BAD_OP (R401). -/
def execPgcmdBadOp (s : State) : Res := withPgcmd s fun s _ _ => pgAnswer s 4

/-! ## The Banker (R406-R410) -/

/-- Entries of a ring of pointers: the next one's index, and how many there are. -/
def ringCount (head tail : Nat) : Nat := (tail + 65536 - head) % 65536

/-- The address of entry i of a frame ring (R406). -/
def ringEntry (r : DWord) (i : Nat) : Nat := fld r.toNat 51 16 * 65536 + 8 * (i % 2 ^ fld r.toNat 4 0)

/-- FHEAD, FTAIL, RHEAD or RTAIL (R406). -/
def bkptrField (p : DWord) (lo : Nat) : Nat := fld p.toNat (lo + 15) lo

/-- BKPTR with one field replaced. -/
def setBkptr (p : DWord) (lo v : Nat) : DWord := (p &&& ~~~(dword (0xFFFF * 2 ^ lo))) ||| dword (v % 65536 * 2 ^ lo)

/-- Takes the next free frame (R406, R408): a spare one first; entries that are no region-0x0 frame of this die are discarded. -/
def takeFrame (d : Nat) : Nat → State → State × Option Nat
  | 0, s => (s, none)
  | f + 1, s =>
    let k := s.die d
    match k.bkspare with
    | x :: r => (s.modDie d fun k => { k with bkspare := r }, some x)
    | [] =>
      let h := bkptrField k.bkptr 48
      if ringCount h (bkptrField k.bkptr 32) = 0 then (s, none) else
      let e := s.phys64 (ringEntry k.bkfree h)
      let s := s.modDie d fun k => { k with bkptr := setBkptr k.bkptr 48 (h + 1) }
      let pa := fld e 51 16 * 65536
      if pa = e ∧ memRegion s pa = some 0 ∧ homeDie pa = d then (s, some pa) else takeFrame d f s

/-- Whether the return ring of a die is full. -/
def returnFull (k : Die) : Bool := ringCount (bkptrField k.bkptr 16) (bkptrField k.bkptr 0) == 2 ^ fld k.bkret.toNat 4 0

/-- The TLB entries that hold a leaf. -/
def leafEntries (s : State) (pa : Nat) : List TlbEnt := tlbEntries s (·.leafPa == pa)

/-- The Banker of a die looks at its next move. -/
def nextMove (s : State) (d : Nat) : State := wakeBanker (s.modDie d fun k => { k with bkrun := none }) d

/-- Cycles of a 64 KiB copy by the Banker of a die (R408). -/
def copyTime (s : State) (d pa : Nat) : Nat := levelPhys s (256 * d) pa 64 false true + 256

/-- An up-move starts (R408, R409): the page becomes MIGRATING and leaves every TLB; the copy waits for the accesses that the old
entry translated. -/
def startUp (s : State) (d : Nat) (m : BkMove) (e : DWord) : State :=
  if returnFull (s.die d) then nextMove s d else
  match takeFrame d 65536 s with
  | (s, none) => nextMove s d
  | (s, some frame) =>
    let ids := translatedBy s (leafEntries s m.leafPa)
    let mig := withState e 5
    let (s, ok) := casLeaf s m.leafPa e mig
    if !ok then nextMove (s.modDie d fun k => { k with bkspare := k.bkspare ++ [frame] }) d
    else (s.modDie d fun k => { k with bkrun := some (m, frame, mig) }).after 1 .bankerMove (d :: ids)

/-- The window of a group on die d whose range holds a page (R410). -/
def windowOf (s : State) (d ctx va : Nat) : Option (Nat × Launch × BkWindow) :=
  s.launches.findSome? fun p =>
    if p.2.die ≠ d ∨ p.2.ctx ≠ ctx ∨ p.2.gstate = .released then none else
    match p.2.window with
    | some w => if w.va ≤ va ∧ va < w.va + w.nvp * 65536 then some (p.1, p.2, w) else none
    | none => none

/-- The Banker's count of a page on a die. -/
def pageCount (k : Die) (ctx va : Nat) : Nat := match k.bkcnt.find? fun e => e.ctx == ctx && e.va == va with | some e => e.n | none => 0

/-- The slot that a fill takes (R410): the lowest free one, else that of lowest count when below the candidate's. -/
def fillSlot (s : State) (d ctx va : Nat) (w : BkWindow) : Option Nat :=
  match (List.range w.nsl).find? fun i => (AMap.find? w.slots i).isNone with
  | some i => some i
  | none =>
    match leastBy (fun (x y : Nat × Nat) => decide (x.1 < y.1)) (w.slots.map fun p => (pageCount (s.die d) ctx p.2.1, p.1)) with
    | some x => if x.1 < pageCount (s.die d) ctx va then some x.2 else none
    | none => none

/-- What the slices see of the Banker's copy of 64 KiB (R241, R242, R264, R408): its reads of a frame, or its writes, on the BNK path. -/
def touchCopy (s : State) (d pa : Nat) (wrote : Bool) : State :=
  if 2 ^ 49 ≤ pa then s else (List.range 512).foldl (fun s i => touchSlice s d .bnk 0 (pa + 128 * i) 128 (!wrote) wrote) s

/-- A window fill ends (R408, R410): the slot holds the page's bytes, the leaf is SCRATCH-RESIDENT. -/
def endFill (s : State) (d : Nat) (m : BkMove) (slot : Nat) (e : DWord) : State :=
  match windowOf s d m.ctx m.va with
  | none => s
  | some (n, l, w) =>
    if w.nsl ≤ slot ∨ (AMap.find? w.slots slot).isSome then s else
    let (t, ok) := casLeaf s m.leafPa e (withState e 4)
    if !ok then s else
    let src := fld e.toNat 51 13 * 2 ^ 13
    let t := touchCopy t d src false
    let base := (w.off + slot) * 65536
    let m0 := (List.range 512).foldl (fun x i => clearRange x (winAddr l (base + 128 * i)) 128) t.mem
    let t := { t with mem := copyCells m0 src 65536 fun a => winAddr l (base + (a - src)) }
    t.modLaunch n fun l => { l with window := some { w with slots := AMap.put w.slots slot (m.va, m.leafPa) } }

/-- The outstanding reads that go to a slot of a window (R410). -/
def slotReads (s : State) (n : Nat) (w : BkWindow) (i : Nat) : List Nat :=
  let lo := (w.off + i) * 65536
  (s.accs.filter fun p => (s.core p.2.core).launch == some n && p.2.stage != .performed && p.2.todo.any fun q =>
    if p.2.space = .window then decide (lo ≤ q.addr) && decide (q.addr < lo + 65536) else p.2.space == .phys && decide (2 ^ 53 ≤ q.addr)).map (·.1)

/-- The Banker of die d starts the first move of its queue (R408): only for 64 KiB leaves with BM, never PINNED. -/
def startMove (s : State) (d : Nat) (m : BkMove) : State :=
  let e := dword (s.phys64 m.leafPa)
  let st := leafState e
  match lookLeaf s m.ctx m.va with
  | .error _ => nextMove s d
  | .ok t =>
    if t.level ≠ 4 ∨ t.leafPa ≠ m.leafPa ∨ !e.getLsbD 56 then nextMove s d
    else match m.kind with
    | 0 => if st = 0 then startUp s d m e else nextMove s d
    | 1 =>
      if st ≠ 1 ∨ t.pa / 2 ^ 48 ≠ 0 ∨ (memRegion s t.pa).isNone then nextMove s d else
      let (id, s) := s.fresh
      let o : UnitOp := { seqOp s (1024 + d) 0x40 m.leafPa e 0 0 [64, 0, 0, t.pa] with launch := 2 ^ 64 }
      let s := ({ s with ops := AMap.put s.ops id o }).modDie d fun k => { k with bkrun := some (m, 0, e) }
      sendJobs s id t.pa m.leafPa false false (s.now + 12 * crossings d (homeDie t.pa) + 1)
    | _ =>
      match windowOf s d m.ctx m.va with
      | none => nextMove s d
      | some (n, _, w) =>
        if (st ≠ 1 ∧ st ≠ 2) ∨ e.getLsbD 58 then nextMove s d else
        match fillSlot s d m.ctx m.va w with
        | none => nextMove s d
        | some i =>
          let ids := slotReads s n w i
          let s := returnSlot s n i
          let s := s.modDie d fun k => { k with bkrun := some (m, i, e) }
          if ids.isEmpty then s.after (copyTime s d t.pa) .bankerMove [d] else s.after 1 .bankerMove (d :: ids)

/-- BANKER_MOVE (R402, R406, R408-R410): the Banker of die [die] starts its next move, or goes on with the one that runs: an up-move
[die, accesses...] whose copy may begin, or a window fill whose copy may begin once reads of the slot's old page have performed, or has ended. -/
def execBankerMove (s : State) : Res :=
  let d := s.arg 0
  let k := s.die d
  match k.bkrun with
  | some (m, x, e) =>
    .next (if m.kind = 1 then s
      else if m.kind = 2 ∧ s.args.length = 1 then nextMove (endFill s d m x e) d
      else if allSettled s (s.args.drop 1) then
        s.after (copyTime s d (fld e.toNat 51 13 * 2 ^ 13)) (if m.kind = 2 then .bankerMove else .migrationComplete) [d]
      else s.after 1 .bankerMove s.args)
  | none =>
    match k.bkq with
    | [] => .next s
    | m :: r => .next (if !k.bkctl.msb then s else startMove (s.modDie d fun k => { k with bkq := r }) d m)

/-- MIGRATION_COMPLETE (R402, R406, R408, R409): the copy of die [die]'s up-move is complete: the leaf takes the new frame by
compare-and-swap and the old frame goes to the return ring; or the copy is discarded and the new frame kept. -/
def execMigrationComplete (s : State) : Res :=
  let d := s.arg 0
  match (s.die d).bkrun with
  | none => .next s
  | some (m, frame, e) =>
    let old := fld e.toNat 51 13 * 2 ^ 13
    let new := withState ((e &&& ~~~(dword ((2 ^ 39 - 1) * 2 ^ 13))) ||| dword frame) 1
    let s := touchCopy (touchCopy s d old false) d frame true
    let (t, ok) := casLeaf s m.leafPa e new
    if !ok then .next (nextMove (s.modDie d fun k => { k with bkspare := k.bkspare ++ [frame] }) d) else
    let hot := (t.poison.filter fun x => decide (old ≤ x) && decide (x < old + 65536)).map fun x => frame + (x - old)
    let t := { t with mem := copyCells (clearRange t.mem frame 65536) old 65536 fun a => frame + (a - old),
                      poison := (t.poison.filter fun x => !(decide (frame ≤ x) && decide (x < frame + 65536))) ++ hot }
    let k := t.die d
    let i := bkptrField k.bkptr 0
    let t := t.putPhys (ringEntry k.bkret i) (toBytes 8 old)
    .next (nextMove (t.modDie d fun k => { k with bkptr := setBkptr k.bkptr 0 (i + 1) }) d)

/-- BANKER_HALVE (R407): every counter of die [die] is halved; one that reaches 0 is freed. -/
def execBankerHalve (s : State) : Res :=
  .next (s.modDie (s.arg 0) fun k =>
    { k with bkcnt := k.bkcnt.map fun e => if e.n / 2 = 0 then BkCnt.free else { e with n := e.n / 2 } })

end Sys2Proof.Machine
end

