-- ==== Sys2Proof/Machine/Dispatch.lean ====
section
/-! DEFINITION. The one match of the machine: each instruction and event calls its meaning. -/

namespace Sys2Proof.Machine

/-- What instruction or event i does in state s, issued by or happening to the party that s.cur names. -/
def exec (i : Instr) (s : State) : Host.Outcome State Fault Refusal :=
  match i with
  | .add f => Sys2Proof.Machine.execAdd f s
  | .sub f => Sys2Proof.Machine.execSub f s
  | .adds f => Sys2Proof.Machine.execAdds f s
  | .subs f => Sys2Proof.Machine.execSubs f s
  | .mul f => Sys2Proof.Machine.execMul f s
  | .mulh f => Sys2Proof.Machine.execMulh f s
  | .mulhn f => Sys2Proof.Machine.execMulhn f s
  | .min f => Sys2Proof.Machine.execMin f s
  | .max f => Sys2Proof.Machine.execMax f s
  | .minn f => Sys2Proof.Machine.execMinn f s
  | .maxn f => Sys2Proof.Machine.execMaxn f s
  | .abs f => Sys2Proof.Machine.execAbs f s
  | .neg f => Sys2Proof.Machine.execNeg f s
  | .and f => Sys2Proof.Machine.execAnd f s
  | .or f => Sys2Proof.Machine.execOr f s
  | .xor f => Sys2Proof.Machine.execXor f s
  | .andn f => Sys2Proof.Machine.execAndn f s
  | .not f => Sys2Proof.Machine.execNot f s
  | .shl f => Sys2Proof.Machine.execShl f s
  | .shr f => Sys2Proof.Machine.execShr f s
  | .sar f => Sys2Proof.Machine.execSar f s
  | .rot f => Sys2Proof.Machine.execRot f s
  | .clz f => Sys2Proof.Machine.execClz f s
  | .popc f => Sys2Proof.Machine.execPopc f s
  | .brev f => Sys2Proof.Machine.execBrev f s
  | .lea f => Sys2Proof.Machine.execLea f s
  | .cmp f => Sys2Proof.Machine.execCmp f s
  | .cmpn f => Sys2Proof.Machine.execCmpn f s
  | .tst f => Sys2Proof.Machine.execTst f s
  | .sel f => Sys2Proof.Machine.execSel f s
  | .mov f => Sys2Proof.Machine.execMov f s
  | .steer f => Sys2Proof.Machine.execSteer f s
  | .merge f => Sys2Proof.Machine.execMerge f s
  | .gate f => Sys2Proof.Machine.execGate f s
  | .copy f => Sys2Proof.Machine.execCopy f s
  | .sink f => Sys2Proof.Machine.execSink f s
  | .const f => Sys2Proof.Machine.execConst f s
  | .filt f => Sys2Proof.Machine.execFilt f s
  | .cmpct f => Sys2Proof.Machine.execCmpct f s
  | .iter f => Sys2Proof.Machine.execIter f s
  | .done f => Sys2Proof.Machine.execDone f s
  | .mark f => Sys2Proof.Machine.execMark f s
  | .call f => Sys2Proof.Machine.execCall f s
  | .ret f => Sys2Proof.Machine.execRet f s
  | .tagrd f => Sys2Proof.Machine.execTagrd f s
  | .tagwr f => Sys2Proof.Machine.execTagwr f s
  | .snip f => Sys2Proof.Machine.execSnip f s
  | .snipEnd f => Sys2Proof.Machine.execSnipEnd f s
  | .errchk f => Sys2Proof.Machine.execErrchk f s
  | .sync f => Sys2Proof.Machine.execSync f s
  | .count f => Sys2Proof.Machine.execCount f s
  | .fadd f => Sys2Proof.Machine.execFadd f s
  | .fsub f => Sys2Proof.Machine.execFsub f s
  | .fmul f => Sys2Proof.Machine.execFmul f s
  | .fma f => Sys2Proof.Machine.execFma f s
  | .fmin f => Sys2Proof.Machine.execFmin f s
  | .fmax f => Sys2Proof.Machine.execFmax f s
  | .fabs f => Sys2Proof.Machine.execFabs f s
  | .fneg f => Sys2Proof.Machine.execFneg f s
  | .fcmp f => Sys2Proof.Machine.execFcmp f s
  | .frcp f => Sys2Proof.Machine.execFrcp f s
  | .frsq f => Sys2Proof.Machine.execFrsq f s
  | .fex2 f => Sys2Proof.Machine.execFex2 f s
  | .flg2 f => Sys2Proof.Machine.execFlg2 f s
  | .fcls f => Sys2Proof.Machine.execFcls f s
  | .hadd f => Sys2Proof.Machine.execHadd f s
  | .hmul f => Sys2Proof.Machine.execHmul f s
  | .hfma f => Sys2Proof.Machine.execHfma f s
  | .cvtf f => Sys2Proof.Machine.execCvtf f s
  | .cvte f => Sys2Proof.Machine.execCvte f s
  | .cvtq f => Sys2Proof.Machine.execCvtq f s
  | .xpnd f => Sys2Proof.Machine.execXpnd f s
  | .cvtfi f => Sys2Proof.Machine.execCvtfi f s
  | .cvtif f => Sys2Proof.Machine.execCvtif f s
  | .seed f => Sys2Proof.Machine.execSeed f s
  | .rsum f => Sys2Proof.Machine.execRsum f s
  | .rmin f => Sys2Proof.Machine.execRmin f s
  | .rmax f => Sys2Proof.Machine.execRmax f s
  | .shuf f => Sys2Proof.Machine.execShuf f s
  | .bcast f => Sys2Proof.Machine.execBcast f s
  | .pack f => Sys2Proof.Machine.execPack f s
  | .unpk f => Sys2Proof.Machine.execUnpk f s
  | .lane f => Sys2Proof.Machine.execLane f s
  | .ld f => Sys2Proof.Machine.execLd f s
  | .st f => Sys2Proof.Machine.execSt f s
  | .ldx f => Sys2Proof.Machine.execLdx f s
  | .stx f => Sys2Proof.Machine.execStx f s
  | .lds f => Sys2Proof.Machine.execLds f s
  | .sts f => Sys2Proof.Machine.execSts f s
  | .aadd f => Sys2Proof.Machine.execAadd f s
  | .afadd f => Sys2Proof.Machine.execAfadd f s
  | .amin f => Sys2Proof.Machine.execAmin f s
  | .amax f => Sys2Proof.Machine.execAmax f s
  | .aminn f => Sys2Proof.Machine.execAminn f s
  | .amaxn f => Sys2Proof.Machine.execAmaxn f s
  | .aand f => Sys2Proof.Machine.execAand f s
  | .aor f => Sys2Proof.Machine.execAor f s
  | .axor f => Sys2Proof.Machine.execAxor f s
  | .axch f => Sys2Proof.Machine.execAxch f s
  | .acas f => Sys2Proof.Machine.execAcas f s
  | .fence f => Sys2Proof.Machine.execFence f s
  | .xfence f => Sys2Proof.Machine.execXfence f s
  | .prft f => Sys2Proof.Machine.execPrft f s
  | .wbl f => Sys2Proof.Machine.execWbl f s
  | .cbput f => Sys2Proof.Machine.execCbput f s
  | .cbget f => Sys2Proof.Machine.execCbget f s
  | .cbwait f => Sys2Proof.Machine.execCbwait f s
  | .cbroom f => Sys2Proof.Machine.execCbroom f s
  | .cntadd f => Sys2Proof.Machine.execCntadd f s
  | .mxi f => Sys2Proof.Machine.execMxi f s
  | .mxis f => Sys2Proof.Machine.execMxis f s
  | .mxz f => Sys2Proof.Machine.execMxz f s
  | .mxpeek f => Sys2Proof.Machine.execMxpeek f s
  | .mxrd f => Sys2Proof.Machine.execMxrd f s
  | .mxdr f => Sys2Proof.Machine.execMxdr f s
  | .mxspl f => Sys2Proof.Machine.execMxspl f s
  | .mxfil f => Sys2Proof.Machine.execMxfil f s
  | .mxadd f => Sys2Proof.Machine.execMxadd f s
  | .mxcls f => Sys2Proof.Machine.execMxcls f s
  | .mxst f => Sys2Proof.Machine.execMxst f s
  | .mxwt f => Sys2Proof.Machine.execMxwt f s
  | .mxpol f => Sys2Proof.Machine.execMxpol f s
  | .cfw f => Sys2Proof.Machine.execCfw f s
  | .cfwr f => Sys2Proof.Machine.execCfwr f s
  | .stamp f => Sys2Proof.Machine.execStamp f s
  | .disp f => Sys2Proof.Machine.execDisp f s
  | .binnx f => Sys2Proof.Machine.execBinnx f s
  | .binwt f => Sys2Proof.Machine.execBinwt f s
  | .cmbadd f => Sys2Proof.Machine.execCmbadd f s
  | .cmbout f => Sys2Proof.Machine.execCmbout f s
  | .rwst f => Sys2Proof.Machine.execRwst f s
  | .seqAdd f => Sys2Proof.Machine.execSeqAdd f s
  | .seqSub f => Sys2Proof.Machine.execSeqSub f s
  | .addi f => Sys2Proof.Machine.execAddi f s
  | .seqMul f => Sys2Proof.Machine.execSeqMul f s
  | .seqAnd f => Sys2Proof.Machine.execSeqAnd f s
  | .seqOr f => Sys2Proof.Machine.execSeqOr f s
  | .seqXor f => Sys2Proof.Machine.execSeqXor f s
  | .shli f => Sys2Proof.Machine.execShli f s
  | .shri f => Sys2Proof.Machine.execShri f s
  | .sari f => Sys2Proof.Machine.execSari f s
  | .li f imm32 => Sys2Proof.Machine.execLi f imm32 s
  | .lih f imm32 => Sys2Proof.Machine.execLih f imm32 s
  | .slt f => Sys2Proof.Machine.execSlt f s
  | .sltn f => Sys2Proof.Machine.execSltn f s
  | .beq f => Sys2Proof.Machine.execBeq f s
  | .bne f => Sys2Proof.Machine.execBne f s
  | .blt f => Sys2Proof.Machine.execBlt f s
  | .bge f => Sys2Proof.Machine.execBge f s
  | .bltn f => Sys2Proof.Machine.execBltn f s
  | .bgen f => Sys2Proof.Machine.execBgen f s
  | .jmp f imm32 => Sys2Proof.Machine.execJmp f imm32 s
  | .jal f imm32 => Sys2Proof.Machine.execJal f imm32 s
  | .jr f => Sys2Proof.Machine.execJr f s
  | .ldg f => Sys2Proof.Machine.execLdg f s
  | .stg f => Sys2Proof.Machine.execStg f s
  | .ldga f => Sys2Proof.Machine.execLdga f s
  | .stgr f => Sys2Proof.Machine.execStgr f s
  | .aaddg f => Sys2Proof.Machine.execAaddg f s
  | .acasg f => Sys2Proof.Machine.execAcasg f s
  | .fork f => Sys2Proof.Machine.execFork f s
  | .join f => Sys2Proof.Machine.execJoin f s
  | .ctx f => Sys2Proof.Machine.execCtx f s
  | .stage f => Sys2Proof.Machine.execStage f s
  | .pred f => Sys2Proof.Machine.execPred f s
  | .waitev f => Sys2Proof.Machine.execWaitev f s
  | .time f => Sys2Proof.Machine.execTime f s
  | .seqXfence f => Sys2Proof.Machine.execSeqXfence f s
  | .seam f => Sys2Proof.Machine.execSeam f s
  | .guard f => Sys2Proof.Machine.execGuard f s
  | .grpid f => Sys2Proof.Machine.execGrpid f s
  | .gang f => Sys2Proof.Machine.execGang f s
  | .barini f => Sys2Proof.Machine.execBarini f s
  | .bararv f => Sys2Proof.Machine.execBararv f s
  | .barwt f => Sys2Proof.Machine.execBarwt f s
  | .baraw f => Sys2Proof.Machine.execBaraw f s
  | .cntini f => Sys2Proof.Machine.execCntini f s
  | .cntaddg f => Sys2Proof.Machine.execCntaddg f s
  | .cntwz f => Sys2Proof.Machine.execCntwz f s
  | .quies f => Sys2Proof.Machine.execQuies f s
  | .enq f => Sys2Proof.Machine.execEnq f s
  | .pqpush f => Sys2Proof.Machine.execPqpush f s
  | .pqpop f => Sys2Proof.Machine.execPqpop f s
  | .dqpush f => Sys2Proof.Machine.execDqpush f s
  | .dqpop f => Sys2Proof.Machine.execDqpop f s
  | .dqsteal f => Sys2Proof.Machine.execDqsteal f s
  | .cancel f => Sys2Proof.Machine.execCancel f s
  | .seqDone f => Sys2Proof.Machine.execSeqDone f s
  | .promote f => Sys2Proof.Machine.execPromote f s
  | .demote f => Sys2Proof.Machine.execDemote f s
  | .tlbinv f => Sys2Proof.Machine.execTlbinv f s
  | .slways f => Sys2Proof.Machine.execSlways f s
  | .bnkhint f => Sys2Proof.Machine.execBnkhint f s
  | .pstat f => Sys2Proof.Machine.execPstat f s
  | .bincfg f => Sys2Proof.Machine.execBincfg f s
  | .bintrg f => Sys2Proof.Machine.execBintrg f s
  | .binseal f => Sys2Proof.Machine.execBinseal f s
  | .cmbcfg f => Sys2Proof.Machine.execCmbcfg f s
  | .cmbwt f => Sys2Proof.Machine.execCmbwt f s
  | .spillcfg f => Sys2Proof.Machine.execSpillcfg f s
  | .exmap f => Sys2Proof.Machine.execExmap f s
  | .trap f => Sys2Proof.Machine.execTrap f s
  | .brk f => Sys2Proof.Machine.execBrk f s
  | .sysrd f => Sys2Proof.Machine.execSysrd f s
  | .syswr f => Sys2Proof.Machine.execSyswr f s
  | .marker f => Sys2Proof.Machine.execMarker f s
  | .yield f => Sys2Proof.Machine.execYield f s
  | .halt f => Sys2Proof.Machine.execHalt f s
  | .fltrd f => Sys2Proof.Machine.execFltrd f s
  | .aredx f => Sys2Proof.Machine.execAredx f s
  | .colwt f => Sys2Proof.Machine.execColwt f s
  | .lnkst f => Sys2Proof.Machine.execLnkst f s
  | .sopen f imm32 => Sys2Proof.Machine.execSopen f imm32 s
  | .sclose f => Sys2Proof.Machine.execSclose f s
  | .sld f => Sys2Proof.Machine.execSld f s
  | .sst f => Sys2Proof.Machine.execSst f s
  | .sgth f => Sys2Proof.Machine.execSgth f s
  | .ssct f => Sys2Proof.Machine.execSsct f s
  | .scpy f => Sys2Proof.Machine.execScpy f s
  | .smc f => Sys2Proof.Machine.execSmc f s
  | .scb f => Sys2Proof.Machine.execScb f s
  | .cbputs f => Sys2Proof.Machine.execCbputs f s
  | .cbwaits f => Sys2Proof.Machine.execCbwaits f s
  | .swait f => Sys2Proof.Machine.execSwait f s
  | .send f => Sys2Proof.Machine.execSend f s
  | .sloop f => Sys2Proof.Machine.execSloop f s
  | .sbne f => Sys2Proof.Machine.execSbne f s
  | .powerOn => Sys2Proof.Machine.execPowerOn s
  | .moduleReset => Sys2Proof.Machine.execModuleReset s
  | .dieReset => Sys2Proof.Machine.execDieReset s
  | .readTelemetry => Sys2Proof.Machine.execReadTelemetry s
  | .readFaultLog => Sys2Proof.Machine.execReadFaultLog s
  | .readTopology => Sys2Proof.Machine.execReadTopology s
  | .replaceTopology => Sys2Proof.Machine.execReplaceTopology s
  | .clearPort => Sys2Proof.Machine.execClearPort s
  | .stageFirmware => Sys2Proof.Machine.execStageFirmware s
  | .operatorCap => Sys2Proof.Machine.execOperatorCap s
  | .capUpdate => Sys2Proof.Machine.execCapUpdate s
  | .governorGrant => Sys2Proof.Machine.execGovernorGrant s
  | .grantArrival => Sys2Proof.Machine.execGrantArrival s
  | .balanceReturn => Sys2Proof.Machine.execBalanceReturn s
  | .resultDelivery => Sys2Proof.Machine.execResultDelivery s
  | .fabricEndToken => Sys2Proof.Machine.execFabricEndToken s
  | .stageSwitch => Sys2Proof.Machine.execStageSwitch s
  | .guardDrop => Sys2Proof.Machine.execGuardDrop s
  | .guardErrorToken => Sys2Proof.Machine.execGuardErrorToken s
  | .streamElement => Sys2Proof.Machine.execStreamElement s
  | .channelAccept => Sys2Proof.Machine.execChannelAccept s
  | .indexToken => Sys2Proof.Machine.execIndexToken s
  | .passEnd => Sys2Proof.Machine.execPassEnd s
  | .fqEntryStart => Sys2Proof.Machine.execFqEntryStart s
  | .kstepSelect => Sys2Proof.Machine.execKstepSelect s
  | .kstepFetch => Sys2Proof.Machine.execKstepFetch s
  | .kstepIssue => Sys2Proof.Machine.execKstepIssue s
  | .kstepComplete => Sys2Proof.Machine.execKstepComplete s
  | .perform => Sys2Proof.Machine.execPerform s
  | .accessResponse => Sys2Proof.Machine.execAccessResponse s
  | .pageWalk => Sys2Proof.Machine.execPageWalk s
  | .wcDrain => Sys2Proof.Machine.execWcDrain s
  | .fillArrival => Sys2Proof.Machine.execFillArrival s
  | .orderSliceArrival => Sys2Proof.Machine.execOrderSliceArrival s
  | .orderSliceRelease => Sys2Proof.Machine.execOrderSliceRelease s
  | .nackRetry => Sys2Proof.Machine.execNackRetry s
  | .promotionRun => Sys2Proof.Machine.execPromotionRun s
  | .promotionForce => Sys2Proof.Machine.execPromotionForce s
  | .cut => Sys2Proof.Machine.execCut s
  | .cutPeriod => Sys2Proof.Machine.execCutPeriod s
  | .uncorrectableError => Sys2Proof.Machine.execUncorrectableError s
  | .rollback => Sys2Proof.Machine.execRollback s
  | .stopWaveArrival => Sys2Proof.Machine.execStopWaveArrival s
  | .groupFrozen => Sys2Proof.Machine.execGroupFrozen s
  | .quiescenceSweep => Sys2Proof.Machine.execQuiescenceSweep s
  | .saveComplete => Sys2Proof.Machine.execSaveComplete s
  | .restore => Sys2Proof.Machine.execRestore s
  | .watchdogExpiry => Sys2Proof.Machine.execWatchdogExpiry s
  | .trapPoll => Sys2Proof.Machine.execTrapPoll s
  | .waitevPoll => Sys2Proof.Machine.execWaitevPoll s
  | .ctxCreate => Sys2Proof.Machine.execCtxCreate s
  | .ctxStop => Sys2Proof.Machine.execCtxStop s
  | .ctxResume => Sys2Proof.Machine.execCtxResume s
  | .ctxDestroy => Sys2Proof.Machine.execCtxDestroy s
  | .ctxRelease => Sys2Proof.Machine.execCtxRelease s
  | .ctxcmdBadOp => Sys2Proof.Machine.execCtxcmdBadOp s
  | .pgRetry => Sys2Proof.Machine.execPgRetry s
  | .pgRefuse => Sys2Proof.Machine.execPgRefuse s
  | .pgInvalidatePage => Sys2Proof.Machine.execPgInvalidatePage s
  | .pgInvalidateContext => Sys2Proof.Machine.execPgInvalidateContext s
  | .pgcmdBadOp => Sys2Proof.Machine.execPgcmdBadOp s
  | .qtailWrite => Sys2Proof.Machine.execQtailWrite s
  | .qcfgWrite => Sys2Proof.Machine.execQcfgWrite s
  | .qbaseWrite => Sys2Proof.Machine.execQbaseWrite s
  | .registerWrite => Sys2Proof.Machine.execRegisterWrite s
  | .headCheck => Sys2Proof.Machine.execHeadCheck s
  | .dependenceEvaluation => Sys2Proof.Machine.execDependenceEvaluation s
  | .placementDecision => Sys2Proof.Machine.execPlacementDecision s
  | .imageDecode => Sys2Proof.Machine.execImageDecode s
  | .coreLoadComplete => Sys2Proof.Machine.execCoreLoadComplete s
  | .spillPassPlace => Sys2Proof.Machine.execSpillPassPlace s
  | .pqArrival => Sys2Proof.Machine.execPqArrival s
  | .pqRefillStart => Sys2Proof.Machine.execPqRefillStart s
  | .pqRefillLand => Sys2Proof.Machine.execPqRefillLand s
  | .dequeArrival => Sys2Proof.Machine.execDequeArrival s
  | .counterArrival => Sys2Proof.Machine.execCounterArrival s
  | .barrierArrival => Sys2Proof.Machine.execBarrierArrival s
  | .barrierTrip => Sys2Proof.Machine.execBarrierTrip s
  | .barrierTimeout => Sys2Proof.Machine.execBarrierTimeout s
  | .arrive => Sys2Proof.Machine.execArrive s
  | .trip => Sys2Proof.Machine.execTrip s
  | .ready => Sys2Proof.Machine.execReady s
  | .go => Sys2Proof.Machine.execGo s
  | .gangDeadline => Sys2Proof.Machine.execGangDeadline s
  | .abandon => Sys2Proof.Machine.execAbandon s
  | .gangStart => Sys2Proof.Machine.execGangStart s
  | .gangRetry => Sys2Proof.Machine.execGangRetry s
  | .bankerMove => Sys2Proof.Machine.execBankerMove s
  | .bankerHalve => Sys2Proof.Machine.execBankerHalve s
  | .migrationComplete => Sys2Proof.Machine.execMigrationComplete s
  | .dispatchArrival => Sys2Proof.Machine.execDispatchArrival s
  | .rowCounted => Sys2Proof.Machine.execRowCounted s
  | .resultArrival => Sys2Proof.Machine.execResultArrival s
  | .nullArrival => Sys2Proof.Machine.execNullArrival s
  | .bounceArrival => Sys2Proof.Machine.execBounceArrival s
  | .refusalArrival => Sys2Proof.Machine.execRefusalArrival s
  | .refusalRetry => Sys2Proof.Machine.execRefusalRetry s
  | .refusalWaitExpiry => Sys2Proof.Machine.execRefusalWaitExpiry s
  | .binTimerExpiry => Sys2Proof.Machine.execBinTimerExpiry s
  | .groupFix => Sys2Proof.Machine.execGroupFix s
  | .binGroupAdvance => Sys2Proof.Machine.execBinGroupAdvance s
  | .binDrain => Sys2Proof.Machine.execBinDrain s
  | .combineRowWrite => Sys2Proof.Machine.execCombineRowWrite s
  | .lkctlEnSet => Sys2Proof.Machine.execLkctlEnSet s
  | .lkctlEnClear => Sys2Proof.Machine.execLkctlEnClear s
  | .laneLock => Sys2Proof.Machine.execLaneLock s
  | .laneLockLost => Sys2Proof.Machine.execLaneLockLost s
  | .trainingTimeout => Sys2Proof.Machine.execTrainingTimeout s
  | .retrainTimeout => Sys2Proof.Machine.execRetrainTimeout s
  | .attestation => Sys2Proof.Machine.execAttestation s
  | .dataFlit => Sys2Proof.Machine.execDataFlit s
  | .ackFlit => Sys2Proof.Machine.execAckFlit s
  | .nakFlit => Sys2Proof.Machine.execNakFlit s
  | .creditFlit => Sys2Proof.Machine.execCreditFlit s
  | .timeFlit => Sys2Proof.Machine.execTimeFlit s
  | .attestFlit => Sys2Proof.Machine.execAttestFlit s
  | .replayTimeout => Sys2Proof.Machine.execReplayTimeout s
  | .timeFlitSend => Sys2Proof.Machine.execTimeFlitSend s
  | .peerRequest => Sys2Proof.Machine.execPeerRequest s
  | .collectiveImage => Sys2Proof.Machine.execCollectiveImage s
  | .collectiveTimeout => Sys2Proof.Machine.execCollectiveTimeout s
  | .sliceBoundary => Sys2Proof.Machine.execSliceBoundary s
  | .trainingRetry => Sys2Proof.Machine.execTrainingRetry s
  | .waitevTimeReached => Sys2Proof.Machine.execWaitevTimeReached s

end Sys2Proof.Machine
end

