-- ==== Sys2Proof/Machine/Cycle.lean ====
section
/-! DEFINITION. The parts of a cycle: its settling, the fetch and issue of one party, its end, and the next cycle (R5, R11, R88-R90, R344; DESIGN CHOICE, log 1). -/

namespace Sys2Proof.Machine

/-! ## Firings (R88-R90) -/

/-- A state with cur naming the issuing place. -/
def State.as (s : State) (p : Place) : State := { s with cur := p }

/-- Whether a node's firing on a pick is ready, its PE's issue slot apart (R88): it would start if the slot were free. -/
def pickReady (s : State) (c cctx pe slot : Nat) (i : Instr) (p : Pick) : Bool :=
  let s := s.modCore c fun k => { k with snips := AMap.del k.snips pe, issued := AMap.del k.issued pe }
  match exec i (s.as (.node c cctx pe slot p)) with
  | .next t => AMap.get (t.core c).issued pe 0 == s.now + 1
  | _ => false

/-- A ready or waiting firing of a PE: slot, instruction, pick and tag. -/
abbrev Cand := Nat × Instr × Pick × Tag

/-- The operand sets of a PE's nodes in the loaded context (R87). -/
def candsOf (k : Core) (cctx pe : Nat) : List Cand :=
  (nodeSlots k cctx pe).flatMap fun n =>
    match AMap.find? k.nodes (nkey cctx pe n) with
    | none => []
    | some t => (picksOf k cctx pe n t.instr).map fun p => (n, t.instr, p.1, p.2)

/-- The key of DET's order (R90). -/
def detKey (x : Cand) : Nat := (x.2.2.2.itag.toNat * 256 + x.2.2.2.ctag.toNat) * 64 + x.1

/-- The side a pick takes a MERGE's token from: 0 for a, 1 for b (R142). -/
def pickSide : Pick → Nat
  | .head b => b2n b
  | .store _ b => b2n b

/-- The key of FREE's order after the cycle of readiness: the slot, then the ITAG, or a MERGE's side (R90, R142); sets of one ITAG go by
CTAG (DESIGN CHOICE, log 33). -/
def freeKey (x : Cand) : Nat :=
  x.1 * 2 ^ 32 + (if isMerge x.2.1 then pickSide x.2.2.1 else x.2.2.2.itag.toNat * 256 + x.2.2.2.ctag.toNat)

/-- Candidates in the rising order of a key. -/
def insertCand (key : Cand → Nat) (x : Cand) : List Cand → List Cand
  | [] => [x]
  | y :: r => if key x ≤ key y then x :: y :: r else y :: insertCand key x r

/-- The firing a PE starts in DET mode: the first ready one in DET's order. -/
def detPick (s : State) (c cctx pe : Nat) : Option Cand :=
  (((candsOf (s.core c) cctx pe).foldr (insertCand detKey) []).find? fun x => pickReady s c cctx pe x.1 x.2.1 x.2.2.1)

/-- The cycle since which a firing has been ready without a break (R90). -/
def sinceOf (k : Core) (now pe : Nat) (x : Cand) : Nat :=
  match k.since.find? fun y => y.1 == pe * 64 + x.1 && y.2.1 == x.2.2.1 with
  | some y => y.2.2
  | none => now

/-- The ready firings of a PE with their cycles of readiness (R90). -/
def readyNow (s : State) (c cctx pe : Nat) : List (Nat × Cand) :=
  ((candsOf (s.core c) cctx pe).filter fun x => pickReady s c cctx pe x.1 x.2.1 x.2.2.1).map fun x => (sinceOf (s.core c) s.now pe x, x)

/-- The firing a PE starts in FREE mode. -/
def freePick (l : List (Nat × Cand)) : Option Cand :=
  (leastBy (fun a b => a.1 < b.1 || (a.1 == b.1 && freeKey a.2 < freeKey b.2)) l).map (·.2)

/-- Whether a core's launch is in DET mode (R90). -/
def isDet (s : State) (c : Nat) : Bool :=
  match s.launchOf c with
  | none => true
  | some (_, l) => match (AMap.find? s.entries l.entry).bind (·.img) with
    | some im => im.det
    | none => true

/-- The readiness of a PE's firings noted for this cycle (R90). -/
def noteReady (s : State) (c pe : Nat) (rs : List (Nat × Cand)) : State :=
  s.modCore c fun k => { k with since := (k.since.filter fun y => y.1 / 64 != pe) ++ rs.map fun r => (pe * 64 + r.2.1, r.2.2.2.1, r.1) }

/-- What a PE issues in this cycle: a word of its running snippet, or the firing it selects, which in FREE mode leaves the noted ones: the
next token of its node becomes ready afresh (R90). -/
def stepPe (s : State) (c pe : Nat) : Res :=
  let k := s.core c
  match AMap.find? k.snips pe with
  | some r =>
    match AMap.find? k.nodes (nkey r.cctx pe r.pc) with
    | some t => exec t.instr ((if isDet s c then s else noteReady s c pe (readyNow s c k.loaded pe)).as (.snip c pe))
    | none => .next s
  | none =>
    if !k.fires s.now then .next s
    else if isDet s c then
      match detPick s c k.loaded pe with
      | none => .next s
      | some x => exec x.2.1 (s.as (.node c k.loaded pe x.1 x.2.2.1))
    else
      let rs := readyNow s c k.loaded pe
      match freePick rs with
      | none => .next (noteReady s c pe rs)
      | some x => exec x.2.1 ((noteReady s c pe (rs.filter fun r => r.2 != x)).as (.node c k.loaded pe x.1 x.2.2.1))

/-! ## Fetch (R344, R119, R338) -/

/-- The word of a program at a byte offset, and the one after it. -/
def fetchWords (prog : List Word) (pc : Nat) : Option (Word × Word) :=
  (prog[pc / 4]?).map fun w => (w, prog.getD (pc / 4 + 1) 0)

/-- What a sequencer issues in this cycle: its next instruction; padding is stepped over in one cycle; past the last word it faults
ILLEGAL (R338, R344); one that waits goes on waiting where a CANCEL or DONE of the cycle reaches it (R360). -/
def stepSeq (s : State) (c : Nat) : Res :=
  let k := s.core c
  if !k.issues s.now then .next s else
  if k.seq.wait ≠ .none ∧ endsNow s c then .next s else
  match fetchWords k.prog k.seq.pc with
  | none => .next (seqFault s c 1)
  | some (w, v) =>
    if k.progPad.contains (k.seq.pc / 4) then .next (seqNext s c 4 1)
    else match decodeSeq w v with
      | some i => exec i (s.as (.seq c))
      | none => .next (seqFault s c 1)

/-- What a stream program issues in this cycle. -/
def stepStrm (s : State) (c : Nat) : Res :=
  let k := s.core c
  if !k.strm.running || k.stopped || k.gated || decide (s.now < k.strm.next) then .next s else
  match fetchWords k.sprog k.strm.pc with
  | none => .next (strmFault s c 1)
  | some (w, v) =>
    if k.sprogPad.contains (k.strm.pc / 4) then .next (strmNext s c 4)
    else match decodeStrm w v with
      | some i => exec i (s.as (.strm c))
      | none => .next (strmFault s c 1)

/-! ## The parties of a cycle -/

/-- The number past the last party: 66 for each core, its sequencer, its stream program and its 64 PEs. -/
def lateMark : Nat := 66 * 1024

/-- The PEs of a core that may issue: those with nodes in the loaded context or a running snippet. -/
def activePes (k : Core) : List Nat :=
  let l := pesOf k k.loaded
  l ++ (k.snips.map (·.1)).filter fun p => !l.contains p

/-- The least party of core c not below number n. -/
def partyIn (s : State) (c n : Nat) : Option Nat :=
  let k := s.core c
  if k.launch.isNone then none else
  (([66 * c, 66 * c + 1] ++ (activePes k).map fun p => 66 * c + 2 + p).filter fun p => decide (n ≤ p)).foldl
    (fun (r : Option Nat) p => match r with | none => some p | some q => some (min p q)) none

/-- The next party that is offered its issue in this cycle: cores ascending, on a core the sequencer, the stream program and the PEs
ascending. -/
def nextParty (s : State) : Option Nat :=
  s.cores.foldl (fun (r : Option Nat) p => match r with
    | some q => some q
    | none => if 66 * p.1 + 65 < s.offered then none else partyIn s p.1 s.offered) none

/-- The issue of party number p. -/
def stepParty (s : State) (p : Nat) : Res :=
  let s := { s with offered := p + 1 }
  match p % 66 with
  | 0 => stepSeq s (p / 66)
  | 1 => stepStrm s (p / 66)
  | n => stepPe s (p / 66) (n - 2)

/-- The beginning of a cycle: operands are accepted, edge ports, streams and guard queues move (R84, R86, R210, R368). -/
def settle (s : State) : State :=
  let cs := (s.cores.filter fun p => p.2.launch.isSome).map (·.1)
  let s := cs.foldl (fun s c => serveStreams (settleCore (rowsEarly s c) c) c) s
  let s := s.launches.foldl (fun s p => serveGuard s p.1) s
  { s with settledAt := s.now + 1, offered := 0 }

/-- The consumer advances of the end of a cycle but those of the fabric (R195): matrix engines and streams; the bin units' are posted. -/
def lateGets (s : State) (cs : List Nat) : State :=
  let s := cs.foldl (fun s c => serveAsk (serveWaits s c fun w => w.op == 0x186) c fun a => match a with | .get .. => true | _ => false) s
  cs.foldl rowsAdvance s

/-- The fabric's consumer advances, then the producer advances of matrix engines and streams; the bin units' are posted (R195). -/
def latePuts (s : State) (cs : List Nat) : State :=
  let s := cs.foldl (fun s c => serveWaits s c fun w => w.op == 0x86) s
  let s := cs.foldl (fun s c => serveAsk (serveWaits s c fun w => w.op == 0x185) c fun a => match a with | .put .. => true | _ => false) s
  cs.foldl rowsFix s

/-- The fabric's producer advances and every wait (R195), then bin drains, collectives, matrix engines and the page operations. -/
def lateWaits (s : State) (cs : List Nat) : State :=
  let s := cs.foldl (fun s c => serveAsk (serveWaits s c fun w => w.op != 0x186 && w.op != 0x86 && w.op != 0x185) c fun _ => true) s
  let s := cs.foldl (fun s c => collsLate (rowsLate s c) c) s
  servePage (cs.foldl mxCycle (cs.foldl fqCycle s))

/-- After the cycle's faults, stops and cuts: row messages that leave (R421), YIELDs, completions, CANCELs and DONEs, stopping launches, watchdogs, the links, and every eighth
cycle the scheduler's decision (R281, R315). -/
def lateEnds (s : State) : State :=
  let ns := s.launches.map (·.1)
  let s := ns.foldl serveYield (leaveRows s)
  let s := ns.foldl serveEnded (ns.foldl serveHalted s)
  let s := ns.foldl (fun s n => serveWatch (serveStop s n) n) s
  linksLate (if s.now % 8 = 0 ∧ !s.queues.isEmpty then s.after 0 .placementDecision [] else s)

/-- The end of a cycle, in four parts between which the events they post take place; before the last of them host stops and cuts (R281). -/
def lateCycle (s : State) : State :=
  let cs := (s.cores.filter fun p => p.2.launch.isSome).map (·.1)
  if s.offered ≤ lateMark then { lateGets s cs with offered := lateMark + 1 }
  else if s.offered = lateMark + 1 then { latePuts s cs with offered := lateMark + 2 }
  else if s.offered = lateMark + 2 then { lateWaits s cs with offered := lateMark + 3 }
  else { lateEnds s with offered := lateMark + 4 }

/-! ## The order of a cycle's events (R11, R249, R281, R309, R315, R451) -/

/-- The rank of a path at a scratch bank (R249). -/
def pathRank : Path → Nat
  | .mxe => 0
  | .row => 1
  | .str | .lnk | .bnk => 2
  | .fab => 3
  | .seq => 4

/-- Whether a part of the cycle's end has been reached: 3, where its host stops and cuts take place (R281), 4, where its queue events do, after
its completions, CANCELs and DONEs (R315). -/
def State.endPart (s : State) (n : Nat) : Bool := !s.powered || (decide (s.now < s.settledAt) && decide (lateMark + n ≤ s.offered))

/-- The rank of a due event among those of its cycle, the lower first and equal ones in the order they were posted; none while its part
of the cycle has not come, or where a CANCEL or DONE has reached the wait it would end (R360). An error comes first, a host's stop and a
cut after the cycle's faults (R281), an EN write before a loss of lock (R451), accesses to scratch in their bank's order, those of the matrix
engine and the row units before the others (R249, R256), a barrier's timeout check after what else reaches it (R382), the pager's invalidations
after the cores' (R414); of the queue's, EN and TAIL writes, ENQs by core, dependences, and the decision last (R309, R315). -/
def eventRank (s : State) (i : Instr) (a : EvArg) : Option Nat :=
  let late := fun (n : Nat) => if s.endPart 4 then some n else none
  let stop := fun (n : Nat) => if s.endPart 3 then some n else none
  match i, a with
  | .uncorrectableError, _ => some 0
  | .ctxStop, _ => stop 17
  | .cut, _ => stop 18
  | .lkctlEnClear, _ => some 4
  | .lkctlEnSet, _ => some 4
  | .laneLockLost, _ => some 5
  | .perform, .nums (id :: _) => some (match AMap.find? s.accs id with
    | some x => 10 + (match x.space with | .scratch _ => pathRank x.path | _ => 0)
    | none => 10)
  | .combineRowWrite, _ | .rowCounted, _ => some 7
  | .binTimerExpiry, _ | .binGroupAdvance, _ | .groupFix, _ | .binDrain, _ => some 8
  | .barrierTimeout, .nums [_, _, _] => some 15
  | .pgInvalidatePage, _ | .pgInvalidateContext, _ => late 19
  | .stageSwitch, .nums (c :: _) | .barrierTrip, .nums (c :: _) | .waitevTimeReached, .nums (c :: _) => if endsNow s c then none else some 6
  | .qbaseWrite, _ | .qcfgWrite, _ => late 20
  | .qtailWrite, .nums (_ :: c :: _) => late (21 + c)
  | .qtailWrite, _ => late 20
  | .dependenceEvaluation, _ => late 2000
  | .placementDecision, _ => late 2001
  | _, _ => some 6

/-- The event that happens next, of those due, and the agenda without it. -/
def nextDue (s : State) : Option (Instr × EvArg × List (Nat × Instr × EvArg)) :=
  let due := s.agenda.takeWhile fun e => decide (e.1 ≤ s.now)
  let ok := ((List.range due.length).zip due).filterMap fun p => (eventRank s p.2.2.1 p.2.2.2).map fun r => (r, p.1, p.2.2)
  (leastBy (fun a b => decide (a.1 < b.1)) ok).map fun p => (p.2.2.1, p.2.2.2, s.agenda.eraseIdx p.2.1)

/-- The next cycle begins. -/
def tick (s : State) : State :=
  let s := slewCount { s with now := s.now + 1, count := s.count + 1, wire := [] }
  let s : State := if s.count.toNat % 2 ^ 16 = 0 then (List.range 4).foldl (fun s d => s.after 0 .capUpdate [d]) s else s
  if s.count.toNat % 2 ^ 20 = 0 then (List.range 4).foldl (fun s d => s.after 0 .bankerHalve [d]) s else s

/-- A step in which no event is due; with the main side off only time goes on (R26, R27). -/
def stepCycle (s : State) : Res :=
  if !s.powered then .next (tick s)
  else if s.settledAt ≤ s.now then .next (settle s)
  else if lateMark + 4 ≤ s.offered then .next (tick s)
  else match nextParty s with
    | some p => stepParty s p
    | none => .next (lateCycle s)

/-! ## Placing an instruction where it is fetched next (log 21) -/

/-- A launch of one core, core 0, that runs. -/
def fetchLaunch : Launch where
  ctx := 0
  queue := 0
  recd := []
  die := 0
  origin := 0
  rows := 1
  cols := 1
  gnum := 0
  ls := 0
  entry := 0
  state := .running
  gstate := .running
  after := .running
  kind := 0
  placedAt := 0
  started := true
  resume := false
  toStop := []
  gdrop := 0
  gmode := []
  guardQ := []
  wdog := []
  snapcfg := []
  stalled := 0
  cuta := 0
  cutb := 0
  live := 0
  interval := 0
  rollbacks := 0
  lastCut := 0
  cutWait := []
  ways := 0
  window := none
  sweeps := 0
  lastQuiet := false
  endSent := false
  priv := Kept.none
  gang := none
  cut := Kept.none
  doms := []
  frozeAt := 0
  ending := none

/-- A running core 0 on which nothing waits. -/
def fetchCore (k : Core) : Core :=
  { k with launch := some 0, grel := 0, ctxm := 1, loaded := 0, forked := true, oldUntil := 0, stopped := false, gated := false,
           issued := [], snips := [], seq := { k.seq with running := false }, strm := { k.strm with running := false } }

/-- A token for a source port code: 16 lanes for a vector port, else one (R74, R77); its data are 1. -/
def fetchToken (code : Nat) : Token := ⟨List.replicate (if 4 ≤ code ∧ code ≤ 7 then 16 else 1) 1, ⟨1, 0⟩, none, false, false, false⟩

/-- Core 0 with a node word in slot 0 of PE 9 and its operands ready; END stands as the first word of a running snippet. -/
def fetchNode (k : Core) (i : Instr) : Core :=
  let f := nodeFields i
  let a := f.a.toNat
  let b := f.b.toNat
  match i with
  | .snipEnd _ =>
    let run : SnipRun := ⟨0, 0, 1, fetchToken 4, none, false, [(0, List.replicate 16 1, 0)], none, none, none, 0, [], 0, [], []⟩
    { k with nodes := [(nkey 0 9 0, ⟨.snip ⟨4, 15, 15, 15, 0, 0⟩, 0⟩), (nkey 0 9 1, ⟨i, 0⟩)], snips := [(9, run)] }
  | _ =>
    let k := { k with nodes := [(nkey 0 9 0, ⟨i, defaultLit i⟩)], matchSt := [], bufs := [] }
    if matches2 i then { k with matchSt := [(9, [⟨0, ⟨1, 0⟩, some (fetchToken a), some (fetchToken b)⟩])] }
    else
      let put := fun (k : Core) (code : Nat) =>
        if isTokenSrc code then { k with bufs := AMap.put k.bufs ((srcBufs 0 9 code).getLastD 0) [⟨code, some (fetchToken code), [0], false, 0⟩] } else k
      put (put k a) b

/-- The state with the instruction of words w and v as what the next step fetches and runs. -/
def placeWord (s : State) (w v : Word) (i : Instr) : State :=
  let k := fetchCore (s.core 0)
  let s := { s with agenda := s.agenda.filter (fun e => decide (s.now < e.1)), settledAt := s.now + 1, launches := [(0, fetchLaunch)] }
  if (decodeNode w) = some i then { s.setCore 0 (fetchNode k i) with offered := 11 }
  else if (decodeSeq w v) = some i then
    { s.setCore 0 { k with prog := [w, v], progPad := [], seq := ⟨true, false, 0, k.seq.g, [], [], 0, .none, 0, none⟩ } with offered := 0 }
  else { s.setCore 0 { k with sprog := [w, v], sprogPad := [], strm := ⟨true, false, 0, k.strm.j, 0, 0, none⟩ } with offered := 1 }

end Sys2Proof.Machine
end

