-- ==== Sys2Proof/Machine/Step.lean ====
section
/-! DEFINITION. One step of the machine: an event that is due, or a part of the cycle (DESIGN CHOICE, log 1). -/

namespace Sys2Proof.Machine

/-- One step: the first of the events that are due, or else the next part of the cycle. With the main side off, only the
management controller is served (R26). -/
def step (s : State) : Host.Outcome State Fault Refusal :=
  match nextDue s with
  | some (i, a, r) => if serves s i then exec i { s with agenda := r, cur := .ev a } else .next { s with agenda := r }
  | none => stepCycle s

/-- s with the instruction whose bits are w stored where step fetches its next instruction (log 21); s itself where the decoder
refuses. -/
def State.withFetchWord (s : State) (nbits w : Nat) : State :=
  match decodeTableWord nbits w with
  | none => s
  | some i => placeWord s (word (w % 2 ^ 32)) (word (w / 2 ^ 32)) i

end Sys2Proof.Machine
end

