-- ==== Sys2Proof/Laws/Coding.lean ====
section
/-! SUPPORT. The fields of a packed word are the fields packed, and every word that decodes has an encoding. -/

namespace Sys2Proof

/-- The value of an append. -/
theorem word_append_toNat {n m : Nat} (x : BitVec n) (y : BitVec m) : (x ++ y).toNat = x.toNat * 2 ^ m + y.toNat := by
  rw [BitVec.toNat_append, Nat.shiftLeft_eq, Nat.mul_comm, ← Nat.two_pow_add_eq_or_of_lt y.isLt]

/-- The opcode of a packed node word. -/
@[simp] theorem opOf_packN (op : BitVec 8) (f : NF) : opOf (packN op f) = op.toNat := by
  have h1 := f.a.isLt; have h2 := f.b.isLt; have h3 := f.x.isLt; have h4 := f.y.isLt; have h5 := f.tg.isLt; have h6 := f.m.isLt
  simp only [opOf, packN, word_append_toNat]
  omega

/-- The fields of a packed node word. -/
@[simp] theorem nfOf_packN (op : BitVec 8) (f : NF) : nfOf (packN op f) = f := by
  have h0 := op.isLt; have h1 := f.a.isLt; have h2 := f.b.isLt; have h3 := f.x.isLt; have h4 := f.y.isLt; have h5 := f.tg.isLt; have h6 := f.m.isLt
  obtain ⟨a, b, x, y, tg, m⟩ := f
  simp only [nfOf, NF.mk.injEq]
  refine ⟨?_, ?_, ?_, ?_, ?_, ?_⟩ <;>
    (apply BitVec.eq_of_toNat_eq; simp only [BitVec.extractLsb'_toNat, packN, word_append_toNat, Nat.shiftRight_eq_div_pow] at *; omega)

/-- The opcode of a packed control word. -/
@[simp] theorem opOf_packC (op : BitVec 8) (f : CF) : opOf (packC op f) = op.toNat := by
  have h1 := f.d.isLt; have h2 := f.a.isLt; have h3 := f.b.isLt; have h4 := f.imm.isLt
  simp only [opOf, packC, word_append_toNat]
  omega

/-- The fields of a packed control word. -/
@[simp] theorem cfOf_packC (op : BitVec 8) (f : CF) : cfOf (packC op f) = f := by
  have h0 := op.isLt; have h1 := f.d.isLt; have h2 := f.a.isLt; have h3 := f.b.isLt; have h4 := f.imm.isLt
  obtain ⟨d, a, b, imm⟩ := f
  simp only [cfOf, CF.mk.injEq]
  refine ⟨?_, ?_, ?_, ?_⟩ <;>
    (apply BitVec.eq_of_toNat_eq; simp only [BitVec.extractLsb'_toNat, packC, word_append_toNat, Nat.shiftRight_eq_div_pow] at *; omega)

/-- A packed node word decodes as its opcode and fields. -/
theorem decodeNode_packN (op : BitVec 8) (f : NF) : decodeNode (packN op f) = nodeAt op.toNat f := by simp [decodeNode]

/-- A packed sequencer word decodes as its opcode and fields. -/
theorem decodeSeq_packC (op : BitVec 8) (f : CF) (v : Word) : decodeSeq (packC op f) v = seqAt op.toNat f v := by simp [decodeSeq]

/-- A packed stream word decodes as its opcode and fields. -/
theorem decodeStrm_packC (op : BitVec 8) (f : CF) (v : Word) : decodeStrm (packC op f) v = strmAt op.toNat f v := by
  simp [decodeStrm]

/-- A node word decodes to an instruction with an encoding. -/
theorem decodeNode_encodes {w : Word} {i : Instr} (h : decodeNode w = some i) : encode i ≠ [] := by
  unfold decodeNode nodeAt at h; split at h <;> first | (cases h; simp [encode]) | cases h

/-- A sequencer word decodes to an instruction with an encoding. -/
theorem decodeSeq_encodes {w v : Word} {i : Instr} (h : decodeSeq w v = some i) : encode i ≠ [] := by
  unfold decodeSeq seqAt at h; split at h <;> first | (cases h; simp [encode]) | cases h

/-- A stream word decodes to an instruction with an encoding. -/
theorem decodeStrm_encodes {w v : Word} {i : Instr} (h : decodeStrm w v = some i) : encode i ≠ [] := by
  unfold decodeStrm strmAt at h; split at h <;> first | (cases h; simp [encode]) | cases h

end Sys2Proof
end

