-- ==== Sys2Proof/Laws/PerInstr.lean ====
section
/-! SUPPORT. The family Coding: each instruction is what its own words decode to, and no word decodes to an event. -/

namespace Sys2Proof.Laws.Coding

/-- The words of the instruction decode to it in the map it stands in; an event has no words, and no word decodes to it. -/
def Statement (i : Instr) : Prop :=
  match encode i with
  | [] => ∀ w v : Word, decodeNode w ≠ some i ∧ decodeSeq w v ≠ some i ∧ decodeStrm w v ≠ some i
  | w :: r => decodeNode w = some i ∨ decodeSeq w (r.headD 0) = some i ∨ decodeStrm w (r.headD 0) = some i

/-- An instruction without an encoding is no word's. -/
theorem of_event {i : Instr} (h : encode i = []) : Statement i := by
  unfold Statement
  rw [h]
  exact fun w v => ⟨fun e => decodeNode_encodes e h, fun e => decodeSeq_encodes e h, fun e => decodeStrm_encodes e h⟩

theorem add (f : NF) : Statement (.add f) := Or.inl (decodeNode_packN _ f)
theorem sub (f : NF) : Statement (.sub f) := Or.inl (decodeNode_packN _ f)
theorem adds (f : NF) : Statement (.adds f) := Or.inl (decodeNode_packN _ f)
theorem subs (f : NF) : Statement (.subs f) := Or.inl (decodeNode_packN _ f)
theorem mul (f : NF) : Statement (.mul f) := Or.inl (decodeNode_packN _ f)
theorem mulh (f : NF) : Statement (.mulh f) := Or.inl (decodeNode_packN _ f)
theorem mulhn (f : NF) : Statement (.mulhn f) := Or.inl (decodeNode_packN _ f)
theorem min (f : NF) : Statement (.min f) := Or.inl (decodeNode_packN _ f)
theorem max (f : NF) : Statement (.max f) := Or.inl (decodeNode_packN _ f)
theorem minn (f : NF) : Statement (.minn f) := Or.inl (decodeNode_packN _ f)
theorem maxn (f : NF) : Statement (.maxn f) := Or.inl (decodeNode_packN _ f)
theorem abs (f : NF) : Statement (.abs f) := Or.inl (decodeNode_packN _ f)
theorem neg (f : NF) : Statement (.neg f) := Or.inl (decodeNode_packN _ f)
theorem and (f : NF) : Statement (.and f) := Or.inl (decodeNode_packN _ f)
theorem or (f : NF) : Statement (.or f) := Or.inl (decodeNode_packN _ f)
theorem xor (f : NF) : Statement (.xor f) := Or.inl (decodeNode_packN _ f)
theorem andn (f : NF) : Statement (.andn f) := Or.inl (decodeNode_packN _ f)
theorem not (f : NF) : Statement (.not f) := Or.inl (decodeNode_packN _ f)
theorem shl (f : NF) : Statement (.shl f) := Or.inl (decodeNode_packN _ f)
theorem shr (f : NF) : Statement (.shr f) := Or.inl (decodeNode_packN _ f)
theorem sar (f : NF) : Statement (.sar f) := Or.inl (decodeNode_packN _ f)
theorem rot (f : NF) : Statement (.rot f) := Or.inl (decodeNode_packN _ f)
theorem clz (f : NF) : Statement (.clz f) := Or.inl (decodeNode_packN _ f)
theorem popc (f : NF) : Statement (.popc f) := Or.inl (decodeNode_packN _ f)
theorem brev (f : NF) : Statement (.brev f) := Or.inl (decodeNode_packN _ f)
theorem lea (f : NF) : Statement (.lea f) := Or.inl (decodeNode_packN _ f)
theorem cmp (f : NF) : Statement (.cmp f) := Or.inl (decodeNode_packN _ f)
theorem cmpn (f : NF) : Statement (.cmpn f) := Or.inl (decodeNode_packN _ f)
theorem tst (f : NF) : Statement (.tst f) := Or.inl (decodeNode_packN _ f)
theorem sel (f : NF) : Statement (.sel f) := Or.inl (decodeNode_packN _ f)
theorem mov (f : NF) : Statement (.mov f) := Or.inl (decodeNode_packN _ f)
theorem steer (f : NF) : Statement (.steer f) := Or.inl (decodeNode_packN _ f)
theorem merge (f : NF) : Statement (.merge f) := Or.inl (decodeNode_packN _ f)
theorem gate (f : NF) : Statement (.gate f) := Or.inl (decodeNode_packN _ f)
theorem copy (f : NF) : Statement (.copy f) := Or.inl (decodeNode_packN _ f)
theorem sink (f : NF) : Statement (.sink f) := Or.inl (decodeNode_packN _ f)
theorem const (f : NF) : Statement (.const f) := Or.inl (decodeNode_packN _ f)
theorem filt (f : NF) : Statement (.filt f) := Or.inl (decodeNode_packN _ f)
theorem cmpct (f : NF) : Statement (.cmpct f) := Or.inl (decodeNode_packN _ f)
theorem iter (f : NF) : Statement (.iter f) := Or.inl (decodeNode_packN _ f)
theorem done (f : NF) : Statement (.done f) := Or.inl (decodeNode_packN _ f)
theorem mark (f : NF) : Statement (.mark f) := Or.inl (decodeNode_packN _ f)
theorem call (f : NF) : Statement (.call f) := Or.inl (decodeNode_packN _ f)
theorem ret (f : NF) : Statement (.ret f) := Or.inl (decodeNode_packN _ f)
theorem tagrd (f : NF) : Statement (.tagrd f) := Or.inl (decodeNode_packN _ f)
theorem tagwr (f : NF) : Statement (.tagwr f) := Or.inl (decodeNode_packN _ f)
theorem snip (f : NF) : Statement (.snip f) := Or.inl (decodeNode_packN _ f)
theorem snipEnd (f : NF) : Statement (.snipEnd f) := Or.inl (decodeNode_packN _ f)
theorem errchk (f : NF) : Statement (.errchk f) := Or.inl (decodeNode_packN _ f)
theorem sync (f : NF) : Statement (.sync f) := Or.inl (decodeNode_packN _ f)
theorem count (f : NF) : Statement (.count f) := Or.inl (decodeNode_packN _ f)
theorem fadd (f : NF) : Statement (.fadd f) := Or.inl (decodeNode_packN _ f)
theorem fsub (f : NF) : Statement (.fsub f) := Or.inl (decodeNode_packN _ f)
theorem fmul (f : NF) : Statement (.fmul f) := Or.inl (decodeNode_packN _ f)
theorem fma (f : NF) : Statement (.fma f) := Or.inl (decodeNode_packN _ f)
theorem fmin (f : NF) : Statement (.fmin f) := Or.inl (decodeNode_packN _ f)
theorem fmax (f : NF) : Statement (.fmax f) := Or.inl (decodeNode_packN _ f)
theorem fabs (f : NF) : Statement (.fabs f) := Or.inl (decodeNode_packN _ f)
theorem fneg (f : NF) : Statement (.fneg f) := Or.inl (decodeNode_packN _ f)
theorem fcmp (f : NF) : Statement (.fcmp f) := Or.inl (decodeNode_packN _ f)
theorem frcp (f : NF) : Statement (.frcp f) := Or.inl (decodeNode_packN _ f)
theorem frsq (f : NF) : Statement (.frsq f) := Or.inl (decodeNode_packN _ f)
theorem fex2 (f : NF) : Statement (.fex2 f) := Or.inl (decodeNode_packN _ f)
theorem flg2 (f : NF) : Statement (.flg2 f) := Or.inl (decodeNode_packN _ f)
theorem fcls (f : NF) : Statement (.fcls f) := Or.inl (decodeNode_packN _ f)
theorem hadd (f : NF) : Statement (.hadd f) := Or.inl (decodeNode_packN _ f)
theorem hmul (f : NF) : Statement (.hmul f) := Or.inl (decodeNode_packN _ f)
theorem hfma (f : NF) : Statement (.hfma f) := Or.inl (decodeNode_packN _ f)
theorem cvtf (f : NF) : Statement (.cvtf f) := Or.inl (decodeNode_packN _ f)
theorem cvte (f : NF) : Statement (.cvte f) := Or.inl (decodeNode_packN _ f)
theorem cvtq (f : NF) : Statement (.cvtq f) := Or.inl (decodeNode_packN _ f)
theorem xpnd (f : NF) : Statement (.xpnd f) := Or.inl (decodeNode_packN _ f)
theorem cvtfi (f : NF) : Statement (.cvtfi f) := Or.inl (decodeNode_packN _ f)
theorem cvtif (f : NF) : Statement (.cvtif f) := Or.inl (decodeNode_packN _ f)
theorem seed (f : NF) : Statement (.seed f) := Or.inl (decodeNode_packN _ f)
theorem rsum (f : NF) : Statement (.rsum f) := Or.inl (decodeNode_packN _ f)
theorem rmin (f : NF) : Statement (.rmin f) := Or.inl (decodeNode_packN _ f)
theorem rmax (f : NF) : Statement (.rmax f) := Or.inl (decodeNode_packN _ f)
theorem shuf (f : NF) : Statement (.shuf f) := Or.inl (decodeNode_packN _ f)
theorem bcast (f : NF) : Statement (.bcast f) := Or.inl (decodeNode_packN _ f)
theorem pack (f : NF) : Statement (.pack f) := Or.inl (decodeNode_packN _ f)
theorem unpk (f : NF) : Statement (.unpk f) := Or.inl (decodeNode_packN _ f)
theorem lane (f : NF) : Statement (.lane f) := Or.inl (decodeNode_packN _ f)
theorem ld (f : NF) : Statement (.ld f) := Or.inl (decodeNode_packN _ f)
theorem st (f : NF) : Statement (.st f) := Or.inl (decodeNode_packN _ f)
theorem ldx (f : NF) : Statement (.ldx f) := Or.inl (decodeNode_packN _ f)
theorem stx (f : NF) : Statement (.stx f) := Or.inl (decodeNode_packN _ f)
theorem lds (f : NF) : Statement (.lds f) := Or.inl (decodeNode_packN _ f)
theorem sts (f : NF) : Statement (.sts f) := Or.inl (decodeNode_packN _ f)
theorem aadd (f : NF) : Statement (.aadd f) := Or.inl (decodeNode_packN _ f)
theorem afadd (f : NF) : Statement (.afadd f) := Or.inl (decodeNode_packN _ f)
theorem amin (f : NF) : Statement (.amin f) := Or.inl (decodeNode_packN _ f)
theorem amax (f : NF) : Statement (.amax f) := Or.inl (decodeNode_packN _ f)
theorem aminn (f : NF) : Statement (.aminn f) := Or.inl (decodeNode_packN _ f)
theorem amaxn (f : NF) : Statement (.amaxn f) := Or.inl (decodeNode_packN _ f)
theorem aand (f : NF) : Statement (.aand f) := Or.inl (decodeNode_packN _ f)
theorem aor (f : NF) : Statement (.aor f) := Or.inl (decodeNode_packN _ f)
theorem axor (f : NF) : Statement (.axor f) := Or.inl (decodeNode_packN _ f)
theorem axch (f : NF) : Statement (.axch f) := Or.inl (decodeNode_packN _ f)
theorem acas (f : NF) : Statement (.acas f) := Or.inl (decodeNode_packN _ f)
theorem fence (f : NF) : Statement (.fence f) := Or.inl (decodeNode_packN _ f)
theorem xfence (f : NF) : Statement (.xfence f) := Or.inl (decodeNode_packN _ f)
theorem prft (f : NF) : Statement (.prft f) := Or.inl (decodeNode_packN _ f)
theorem wbl (f : NF) : Statement (.wbl f) := Or.inl (decodeNode_packN _ f)
theorem cbput (f : NF) : Statement (.cbput f) := Or.inl (decodeNode_packN _ f)
theorem cbget (f : NF) : Statement (.cbget f) := Or.inl (decodeNode_packN _ f)
theorem cbwait (f : NF) : Statement (.cbwait f) := Or.inl (decodeNode_packN _ f)
theorem cbroom (f : NF) : Statement (.cbroom f) := Or.inl (decodeNode_packN _ f)
theorem cntadd (f : NF) : Statement (.cntadd f) := Or.inl (decodeNode_packN _ f)
theorem mxi (f : NF) : Statement (.mxi f) := Or.inl (decodeNode_packN _ f)
theorem mxis (f : NF) : Statement (.mxis f) := Or.inl (decodeNode_packN _ f)
theorem mxz (f : NF) : Statement (.mxz f) := Or.inl (decodeNode_packN _ f)
theorem mxpeek (f : NF) : Statement (.mxpeek f) := Or.inl (decodeNode_packN _ f)
theorem mxrd (f : NF) : Statement (.mxrd f) := Or.inl (decodeNode_packN _ f)
theorem mxdr (f : NF) : Statement (.mxdr f) := Or.inl (decodeNode_packN _ f)
theorem mxspl (f : NF) : Statement (.mxspl f) := Or.inl (decodeNode_packN _ f)
theorem mxfil (f : NF) : Statement (.mxfil f) := Or.inl (decodeNode_packN _ f)
theorem mxadd (f : NF) : Statement (.mxadd f) := Or.inl (decodeNode_packN _ f)
theorem mxcls (f : NF) : Statement (.mxcls f) := Or.inl (decodeNode_packN _ f)
theorem mxst (f : NF) : Statement (.mxst f) := Or.inl (decodeNode_packN _ f)
theorem mxwt (f : NF) : Statement (.mxwt f) := Or.inl (decodeNode_packN _ f)
theorem mxpol (f : NF) : Statement (.mxpol f) := Or.inl (decodeNode_packN _ f)
theorem cfw (f : NF) : Statement (.cfw f) := Or.inl (decodeNode_packN _ f)
theorem cfwr (f : NF) : Statement (.cfwr f) := Or.inl (decodeNode_packN _ f)
theorem stamp (f : NF) : Statement (.stamp f) := Or.inl (decodeNode_packN _ f)
theorem disp (f : NF) : Statement (.disp f) := Or.inl (decodeNode_packN _ f)
theorem binnx (f : NF) : Statement (.binnx f) := Or.inl (decodeNode_packN _ f)
theorem binwt (f : NF) : Statement (.binwt f) := Or.inl (decodeNode_packN _ f)
theorem cmbadd (f : NF) : Statement (.cmbadd f) := Or.inl (decodeNode_packN _ f)
theorem cmbout (f : NF) : Statement (.cmbout f) := Or.inl (decodeNode_packN _ f)
theorem rwst (f : NF) : Statement (.rwst f) := Or.inl (decodeNode_packN _ f)
theorem seqAdd (f : CF) : Statement (.seqAdd f) := Or.inr (Or.inl (decodeSeq_packC _ f _))
theorem seqSub (f : CF) : Statement (.seqSub f) := Or.inr (Or.inl (decodeSeq_packC _ f _))
theorem addi (f : CF) : Statement (.addi f) := Or.inr (Or.inl (decodeSeq_packC _ f _))
theorem seqMul (f : CF) : Statement (.seqMul f) := Or.inr (Or.inl (decodeSeq_packC _ f _))
theorem seqAnd (f : CF) : Statement (.seqAnd f) := Or.inr (Or.inl (decodeSeq_packC _ f _))
theorem seqOr (f : CF) : Statement (.seqOr f) := Or.inr (Or.inl (decodeSeq_packC _ f _))
theorem seqXor (f : CF) : Statement (.seqXor f) := Or.inr (Or.inl (decodeSeq_packC _ f _))
theorem shli (f : CF) : Statement (.shli f) := Or.inr (Or.inl (decodeSeq_packC _ f _))
theorem shri (f : CF) : Statement (.shri f) := Or.inr (Or.inl (decodeSeq_packC _ f _))
theorem sari (f : CF) : Statement (.sari f) := Or.inr (Or.inl (decodeSeq_packC _ f _))
theorem li (f : CF) (v : Word) : Statement (.li f v) := Or.inr (Or.inl (decodeSeq_packC _ f _))
theorem lih (f : CF) (v : Word) : Statement (.lih f v) := Or.inr (Or.inl (decodeSeq_packC _ f _))
theorem slt (f : CF) : Statement (.slt f) := Or.inr (Or.inl (decodeSeq_packC _ f _))
theorem sltn (f : CF) : Statement (.sltn f) := Or.inr (Or.inl (decodeSeq_packC _ f _))
theorem beq (f : CF) : Statement (.beq f) := Or.inr (Or.inl (decodeSeq_packC _ f _))
theorem bne (f : CF) : Statement (.bne f) := Or.inr (Or.inl (decodeSeq_packC _ f _))
theorem blt (f : CF) : Statement (.blt f) := Or.inr (Or.inl (decodeSeq_packC _ f _))
theorem bge (f : CF) : Statement (.bge f) := Or.inr (Or.inl (decodeSeq_packC _ f _))
theorem bltn (f : CF) : Statement (.bltn f) := Or.inr (Or.inl (decodeSeq_packC _ f _))
theorem bgen (f : CF) : Statement (.bgen f) := Or.inr (Or.inl (decodeSeq_packC _ f _))
theorem jmp (f : CF) (v : Word) : Statement (.jmp f v) := Or.inr (Or.inl (decodeSeq_packC _ f _))
theorem jal (f : CF) (v : Word) : Statement (.jal f v) := Or.inr (Or.inl (decodeSeq_packC _ f _))
theorem jr (f : CF) : Statement (.jr f) := Or.inr (Or.inl (decodeSeq_packC _ f _))
theorem ldg (f : CF) : Statement (.ldg f) := Or.inr (Or.inl (decodeSeq_packC _ f _))
theorem stg (f : CF) : Statement (.stg f) := Or.inr (Or.inl (decodeSeq_packC _ f _))
theorem ldga (f : CF) : Statement (.ldga f) := Or.inr (Or.inl (decodeSeq_packC _ f _))
theorem stgr (f : CF) : Statement (.stgr f) := Or.inr (Or.inl (decodeSeq_packC _ f _))
theorem aaddg (f : CF) : Statement (.aaddg f) := Or.inr (Or.inl (decodeSeq_packC _ f _))
theorem acasg (f : CF) : Statement (.acasg f) := Or.inr (Or.inl (decodeSeq_packC _ f _))
theorem fork (f : CF) : Statement (.fork f) := Or.inr (Or.inl (decodeSeq_packC _ f _))
theorem join (f : CF) : Statement (.join f) := Or.inr (Or.inl (decodeSeq_packC _ f _))
theorem ctx (f : CF) : Statement (.ctx f) := Or.inr (Or.inl (decodeSeq_packC _ f _))
theorem stage (f : CF) : Statement (.stage f) := Or.inr (Or.inl (decodeSeq_packC _ f _))
theorem pred (f : CF) : Statement (.pred f) := Or.inr (Or.inl (decodeSeq_packC _ f _))
theorem waitev (f : CF) : Statement (.waitev f) := Or.inr (Or.inl (decodeSeq_packC _ f _))
theorem time (f : CF) : Statement (.time f) := Or.inr (Or.inl (decodeSeq_packC _ f _))
theorem seqXfence (f : CF) : Statement (.seqXfence f) := Or.inr (Or.inl (decodeSeq_packC _ f _))
theorem seam (f : CF) : Statement (.seam f) := Or.inr (Or.inl (decodeSeq_packC _ f _))
theorem guard (f : CF) : Statement (.guard f) := Or.inr (Or.inl (decodeSeq_packC _ f _))
theorem grpid (f : CF) : Statement (.grpid f) := Or.inr (Or.inl (decodeSeq_packC _ f _))
theorem gang (f : CF) : Statement (.gang f) := Or.inr (Or.inl (decodeSeq_packC _ f _))
theorem barini (f : CF) : Statement (.barini f) := Or.inr (Or.inl (decodeSeq_packC _ f _))
theorem bararv (f : CF) : Statement (.bararv f) := Or.inr (Or.inl (decodeSeq_packC _ f _))
theorem barwt (f : CF) : Statement (.barwt f) := Or.inr (Or.inl (decodeSeq_packC _ f _))
theorem baraw (f : CF) : Statement (.baraw f) := Or.inr (Or.inl (decodeSeq_packC _ f _))
theorem cntini (f : CF) : Statement (.cntini f) := Or.inr (Or.inl (decodeSeq_packC _ f _))
theorem cntaddg (f : CF) : Statement (.cntaddg f) := Or.inr (Or.inl (decodeSeq_packC _ f _))
theorem cntwz (f : CF) : Statement (.cntwz f) := Or.inr (Or.inl (decodeSeq_packC _ f _))
theorem quies (f : CF) : Statement (.quies f) := Or.inr (Or.inl (decodeSeq_packC _ f _))
theorem enq (f : CF) : Statement (.enq f) := Or.inr (Or.inl (decodeSeq_packC _ f _))
theorem pqpush (f : CF) : Statement (.pqpush f) := Or.inr (Or.inl (decodeSeq_packC _ f _))
theorem pqpop (f : CF) : Statement (.pqpop f) := Or.inr (Or.inl (decodeSeq_packC _ f _))
theorem dqpush (f : CF) : Statement (.dqpush f) := Or.inr (Or.inl (decodeSeq_packC _ f _))
theorem dqpop (f : CF) : Statement (.dqpop f) := Or.inr (Or.inl (decodeSeq_packC _ f _))
theorem dqsteal (f : CF) : Statement (.dqsteal f) := Or.inr (Or.inl (decodeSeq_packC _ f _))
theorem cancel (f : CF) : Statement (.cancel f) := Or.inr (Or.inl (decodeSeq_packC _ f _))
theorem seqDone (f : CF) : Statement (.seqDone f) := Or.inr (Or.inl (decodeSeq_packC _ f _))
theorem promote (f : CF) : Statement (.promote f) := Or.inr (Or.inl (decodeSeq_packC _ f _))
theorem demote (f : CF) : Statement (.demote f) := Or.inr (Or.inl (decodeSeq_packC _ f _))
theorem tlbinv (f : CF) : Statement (.tlbinv f) := Or.inr (Or.inl (decodeSeq_packC _ f _))
theorem slways (f : CF) : Statement (.slways f) := Or.inr (Or.inl (decodeSeq_packC _ f _))
theorem bnkhint (f : CF) : Statement (.bnkhint f) := Or.inr (Or.inl (decodeSeq_packC _ f _))
theorem pstat (f : CF) : Statement (.pstat f) := Or.inr (Or.inl (decodeSeq_packC _ f _))
theorem bincfg (f : CF) : Statement (.bincfg f) := Or.inr (Or.inl (decodeSeq_packC _ f _))
theorem bintrg (f : CF) : Statement (.bintrg f) := Or.inr (Or.inl (decodeSeq_packC _ f _))
theorem binseal (f : CF) : Statement (.binseal f) := Or.inr (Or.inl (decodeSeq_packC _ f _))
theorem cmbcfg (f : CF) : Statement (.cmbcfg f) := Or.inr (Or.inl (decodeSeq_packC _ f _))
theorem cmbwt (f : CF) : Statement (.cmbwt f) := Or.inr (Or.inl (decodeSeq_packC _ f _))
theorem spillcfg (f : CF) : Statement (.spillcfg f) := Or.inr (Or.inl (decodeSeq_packC _ f _))
theorem exmap (f : CF) : Statement (.exmap f) := Or.inr (Or.inl (decodeSeq_packC _ f _))
theorem trap (f : CF) : Statement (.trap f) := Or.inr (Or.inl (decodeSeq_packC _ f _))
theorem brk (f : CF) : Statement (.brk f) := Or.inr (Or.inl (decodeSeq_packC _ f _))
theorem sysrd (f : CF) : Statement (.sysrd f) := Or.inr (Or.inl (decodeSeq_packC _ f _))
theorem syswr (f : CF) : Statement (.syswr f) := Or.inr (Or.inl (decodeSeq_packC _ f _))
theorem marker (f : CF) : Statement (.marker f) := Or.inr (Or.inl (decodeSeq_packC _ f _))
theorem yield (f : CF) : Statement (.yield f) := Or.inr (Or.inl (decodeSeq_packC _ f _))
theorem halt (f : CF) : Statement (.halt f) := Or.inr (Or.inl (decodeSeq_packC _ f _))
theorem fltrd (f : CF) : Statement (.fltrd f) := Or.inr (Or.inl (decodeSeq_packC _ f _))
theorem aredx (f : CF) : Statement (.aredx f) := Or.inr (Or.inl (decodeSeq_packC _ f _))
theorem colwt (f : CF) : Statement (.colwt f) := Or.inr (Or.inl (decodeSeq_packC _ f _))
theorem lnkst (f : CF) : Statement (.lnkst f) := Or.inr (Or.inl (decodeSeq_packC _ f _))
theorem sopen (f : CF) (v : Word) : Statement (.sopen f v) := Or.inr (Or.inr (decodeStrm_packC _ f _))
theorem sclose (f : CF) : Statement (.sclose f) := Or.inr (Or.inr (decodeStrm_packC _ f _))
theorem sld (f : CF) : Statement (.sld f) := Or.inr (Or.inr (decodeStrm_packC _ f _))
theorem sst (f : CF) : Statement (.sst f) := Or.inr (Or.inr (decodeStrm_packC _ f _))
theorem sgth (f : CF) : Statement (.sgth f) := Or.inr (Or.inr (decodeStrm_packC _ f _))
theorem ssct (f : CF) : Statement (.ssct f) := Or.inr (Or.inr (decodeStrm_packC _ f _))
theorem scpy (f : CF) : Statement (.scpy f) := Or.inr (Or.inr (decodeStrm_packC _ f _))
theorem smc (f : CF) : Statement (.smc f) := Or.inr (Or.inr (decodeStrm_packC _ f _))
theorem scb (f : CF) : Statement (.scb f) := Or.inr (Or.inr (decodeStrm_packC _ f _))
theorem cbputs (f : CF) : Statement (.cbputs f) := Or.inr (Or.inr (decodeStrm_packC _ f _))
theorem cbwaits (f : CF) : Statement (.cbwaits f) := Or.inr (Or.inr (decodeStrm_packC _ f _))
theorem swait (f : CF) : Statement (.swait f) := Or.inr (Or.inr (decodeStrm_packC _ f _))
theorem send (f : CF) : Statement (.send f) := Or.inr (Or.inr (decodeStrm_packC _ f _))
theorem sloop (f : CF) : Statement (.sloop f) := Or.inr (Or.inr (decodeStrm_packC _ f _))
theorem sbne (f : CF) : Statement (.sbne f) := Or.inr (Or.inr (decodeStrm_packC _ f _))
theorem powerOn : Statement .powerOn := of_event rfl
theorem moduleReset : Statement .moduleReset := of_event rfl
theorem dieReset : Statement .dieReset := of_event rfl
theorem readTelemetry : Statement .readTelemetry := of_event rfl
theorem readFaultLog : Statement .readFaultLog := of_event rfl
theorem readTopology : Statement .readTopology := of_event rfl
theorem replaceTopology : Statement .replaceTopology := of_event rfl
theorem clearPort : Statement .clearPort := of_event rfl
theorem stageFirmware : Statement .stageFirmware := of_event rfl
theorem operatorCap : Statement .operatorCap := of_event rfl
theorem capUpdate : Statement .capUpdate := of_event rfl
theorem governorGrant : Statement .governorGrant := of_event rfl
theorem grantArrival : Statement .grantArrival := of_event rfl
theorem balanceReturn : Statement .balanceReturn := of_event rfl
theorem resultDelivery : Statement .resultDelivery := of_event rfl
theorem fabricEndToken : Statement .fabricEndToken := of_event rfl
theorem stageSwitch : Statement .stageSwitch := of_event rfl
theorem guardDrop : Statement .guardDrop := of_event rfl
theorem guardErrorToken : Statement .guardErrorToken := of_event rfl
theorem streamElement : Statement .streamElement := of_event rfl
theorem channelAccept : Statement .channelAccept := of_event rfl
theorem indexToken : Statement .indexToken := of_event rfl
theorem passEnd : Statement .passEnd := of_event rfl
theorem fqEntryStart : Statement .fqEntryStart := of_event rfl
theorem kstepSelect : Statement .kstepSelect := of_event rfl
theorem kstepFetch : Statement .kstepFetch := of_event rfl
theorem kstepIssue : Statement .kstepIssue := of_event rfl
theorem kstepComplete : Statement .kstepComplete := of_event rfl
theorem perform : Statement .perform := of_event rfl
theorem accessResponse : Statement .accessResponse := of_event rfl
theorem pageWalk : Statement .pageWalk := of_event rfl
theorem wcDrain : Statement .wcDrain := of_event rfl
theorem fillArrival : Statement .fillArrival := of_event rfl
theorem orderSliceArrival : Statement .orderSliceArrival := of_event rfl
theorem orderSliceRelease : Statement .orderSliceRelease := of_event rfl
theorem nackRetry : Statement .nackRetry := of_event rfl
theorem promotionRun : Statement .promotionRun := of_event rfl
theorem promotionForce : Statement .promotionForce := of_event rfl
theorem cut : Statement .cut := of_event rfl
theorem cutPeriod : Statement .cutPeriod := of_event rfl
theorem uncorrectableError : Statement .uncorrectableError := of_event rfl
theorem rollback : Statement .rollback := of_event rfl
theorem stopWaveArrival : Statement .stopWaveArrival := of_event rfl
theorem groupFrozen : Statement .groupFrozen := of_event rfl
theorem quiescenceSweep : Statement .quiescenceSweep := of_event rfl
theorem saveComplete : Statement .saveComplete := of_event rfl
theorem restore : Statement .restore := of_event rfl
theorem watchdogExpiry : Statement .watchdogExpiry := of_event rfl
theorem trapPoll : Statement .trapPoll := of_event rfl
theorem waitevPoll : Statement .waitevPoll := of_event rfl
theorem ctxCreate : Statement .ctxCreate := of_event rfl
theorem ctxStop : Statement .ctxStop := of_event rfl
theorem ctxResume : Statement .ctxResume := of_event rfl
theorem ctxDestroy : Statement .ctxDestroy := of_event rfl
theorem ctxRelease : Statement .ctxRelease := of_event rfl
theorem ctxcmdBadOp : Statement .ctxcmdBadOp := of_event rfl
theorem pgRetry : Statement .pgRetry := of_event rfl
theorem pgRefuse : Statement .pgRefuse := of_event rfl
theorem pgInvalidatePage : Statement .pgInvalidatePage := of_event rfl
theorem pgInvalidateContext : Statement .pgInvalidateContext := of_event rfl
theorem pgcmdBadOp : Statement .pgcmdBadOp := of_event rfl
theorem qtailWrite : Statement .qtailWrite := of_event rfl
theorem qcfgWrite : Statement .qcfgWrite := of_event rfl
theorem qbaseWrite : Statement .qbaseWrite := of_event rfl
theorem registerWrite : Statement .registerWrite := of_event rfl
theorem headCheck : Statement .headCheck := of_event rfl
theorem dependenceEvaluation : Statement .dependenceEvaluation := of_event rfl
theorem placementDecision : Statement .placementDecision := of_event rfl
theorem imageDecode : Statement .imageDecode := of_event rfl
theorem coreLoadComplete : Statement .coreLoadComplete := of_event rfl
theorem spillPassPlace : Statement .spillPassPlace := of_event rfl
theorem pqArrival : Statement .pqArrival := of_event rfl
theorem pqRefillStart : Statement .pqRefillStart := of_event rfl
theorem pqRefillLand : Statement .pqRefillLand := of_event rfl
theorem dequeArrival : Statement .dequeArrival := of_event rfl
theorem counterArrival : Statement .counterArrival := of_event rfl
theorem barrierArrival : Statement .barrierArrival := of_event rfl
theorem barrierTrip : Statement .barrierTrip := of_event rfl
theorem barrierTimeout : Statement .barrierTimeout := of_event rfl
theorem arrive : Statement .arrive := of_event rfl
theorem trip : Statement .trip := of_event rfl
theorem ready : Statement .ready := of_event rfl
theorem go : Statement .go := of_event rfl
theorem gangDeadline : Statement .gangDeadline := of_event rfl
theorem abandon : Statement .abandon := of_event rfl
theorem gangStart : Statement .gangStart := of_event rfl
theorem gangRetry : Statement .gangRetry := of_event rfl
theorem bankerMove : Statement .bankerMove := of_event rfl
theorem bankerHalve : Statement .bankerHalve := of_event rfl
theorem migrationComplete : Statement .migrationComplete := of_event rfl
theorem dispatchArrival : Statement .dispatchArrival := of_event rfl
theorem rowCounted : Statement .rowCounted := of_event rfl
theorem resultArrival : Statement .resultArrival := of_event rfl
theorem nullArrival : Statement .nullArrival := of_event rfl
theorem bounceArrival : Statement .bounceArrival := of_event rfl
theorem refusalArrival : Statement .refusalArrival := of_event rfl
theorem refusalRetry : Statement .refusalRetry := of_event rfl
theorem refusalWaitExpiry : Statement .refusalWaitExpiry := of_event rfl
theorem binTimerExpiry : Statement .binTimerExpiry := of_event rfl
theorem groupFix : Statement .groupFix := of_event rfl
theorem binGroupAdvance : Statement .binGroupAdvance := of_event rfl
theorem binDrain : Statement .binDrain := of_event rfl
theorem combineRowWrite : Statement .combineRowWrite := of_event rfl
theorem lkctlEnSet : Statement .lkctlEnSet := of_event rfl
theorem lkctlEnClear : Statement .lkctlEnClear := of_event rfl
theorem laneLock : Statement .laneLock := of_event rfl
theorem laneLockLost : Statement .laneLockLost := of_event rfl
theorem trainingTimeout : Statement .trainingTimeout := of_event rfl
theorem retrainTimeout : Statement .retrainTimeout := of_event rfl
theorem attestation : Statement .attestation := of_event rfl
theorem dataFlit : Statement .dataFlit := of_event rfl
theorem ackFlit : Statement .ackFlit := of_event rfl
theorem nakFlit : Statement .nakFlit := of_event rfl
theorem creditFlit : Statement .creditFlit := of_event rfl
theorem timeFlit : Statement .timeFlit := of_event rfl
theorem attestFlit : Statement .attestFlit := of_event rfl
theorem replayTimeout : Statement .replayTimeout := of_event rfl
theorem timeFlitSend : Statement .timeFlitSend := of_event rfl
theorem peerRequest : Statement .peerRequest := of_event rfl
theorem collectiveImage : Statement .collectiveImage := of_event rfl
theorem collectiveTimeout : Statement .collectiveTimeout := of_event rfl
theorem sliceBoundary : Statement .sliceBoundary := of_event rfl
theorem trainingRetry : Statement .trainingRetry := of_event rfl
theorem waitevTimeReached : Statement .waitevTimeReached := of_event rfl

end Sys2Proof.Laws.Coding
end

