-- ==== Sys2Proof/Safety.lean ====
section
/-! DEFINITION. What counts as a safe run, and the terms in which claims say what a step did: the place an instruction stands ready
at, what it starts, and what it leaves unchanged. -/

namespace Sys2Proof.Safety

/-- Whether a step from s goes on, with memory in canonical form. -/
def StepSafe (s : Machine.State) : Prop :=
  ∃ t, Machine.step s = .next t ∧ Machine.Memory.wf t.mem = true

/-- A run of n steps that goes on at every step. -/
def RunSafe (n : Nat) (s : Machine.State) : Prop :=
  ∃ t, Host.Core.run core n s = .next t ∧ Machine.Memory.wf t.mem = true

end Sys2Proof.Safety

namespace Sys2Proof.Machine

/-! ## Frames -/

/-- t differs from s in cores, the number counter and the agenda alone, with no byte of memory changed. -/
structure CoresOnly (s t : State) : Prop where
  rest : t = { s with cores := t.cores, nextId := t.nextId, agenda := t.agenda }
  memory : ∀ a, readByte t.mem a = readByte s.mem a

/-- Every core but c is unchanged. -/
def OtherCores (s t : State) (c : Nat) : Prop := ∀ d, d ≠ c → t.core d = s.core d

/-- The agenda of t is that of s and one event more. -/
def Posts (s t : State) (time : Nat) (i : Instr) (a : List Nat) : Prop :=
  ∀ e, e ∈ t.agenda ↔ e = (time, i, .nums a) ∨ e ∈ s.agenda

/-- t is u with core c's own fields changed by f, and nothing beside the number counter and the agenda. -/
def CoreChanged (u t : State) (c : Nat) (f : Core → Core) : Prop :=
  CoresOnly u t ∧ OtherCores u t c ∧ t.core c = f (u.core c)

/-- The event that happens names these parties. -/
def Happens (s : State) (args : List Nat) : Prop := s.cur = .ev (.nums args)

/-- Exactly the launches part of the state may differ beside the cores. -/
def LaunchesOnly (s t : State) : Prop := t = { s with launches := t.launches }

/-- Core c took a freezing fault with record r (R287, R295): its launch freezes to FAULTED, the stop wave starts at the core in this
cycle, and memory holds what writing the record leaves. -/
def FaultTaken (s t : State) (c : Nat) (r : Rec) : Prop :=
  ∀ n l, s.launchOf c = some (n, l) → l.live? = true →
    t.mem = (s.record l.ctx { r with frz := true, queue := l.queue }).1.mem ∧
    (∃ l', AMap.find? t.launches n = some l' ∧ l'.state = .freezing ∧ l'.after = .faulted ∧ l'.kind = 1 ∧ l'.toStop = l.cores) ∧
    (c ∈ l.cores → (s.now, .stopWaveArrival, .nums [n, c]) ∈ t.agenda)

/-- Access a was issued from u, with the outputs it will answer to (R495). -/
def Issued (u t : State) (a : Access) : Prop := t = issueAccess u a

/-! ## A node's firing (R80, R87-R91) -/

/-- Instruction i stands ready as firing q at the place the state offers: it is the word of the node's slot, its operands are there,
and its output buffers have room (R87, R88). -/
structure NodeReady (s : State) (i : Instr) (q : Firing) : Prop where
  place : s.cur = .node q.core q.cctx q.pe q.slot q.pick
  word : ∃ lit, AMap.find? (s.core q.core).nodes (nkey q.cctx q.pe q.slot) = some ⟨i, lit⟩
  fires : nodeFiring s q.core q.cctx q.pe q.slot q.pick = some q
  room : roomFor (s.core q.core) q.cctx q.pe (outPorts q.f) = true

/-- The core of a firing with the firing's operands taken (R79, R87). -/
def operandsTaken (s : State) (q : Firing) : Core :=
  match AMap.find? (s.core q.core).nodes (nkey q.cctx q.pe q.slot) with
  | some w => consume (s.core q.core) q.cctx q.pe q.slot w.instr q.pick
  | none => s.core q.core

/-- The firing q started (R80, R89): its operands were taken, one entry is reserved in each destination's buffer, the PE's issue slot
is used, the results are on their way for lat cycles, with the write of sf and whether it is an error token, and nothing else changed. -/
structure Fired (s t : State) (q : Firing) (lat : Nat) (sends : Sends) (sf : Option (List Word)) (sfe : Bool := false) : Prop where
  frame : CoresOnly s t
  others : OtherCores s t q.core
  own : t.core q.core = { s.core q.core with
    bufs := (t.core q.core).bufs, matchSt := (t.core q.core).matchSt, flights := (t.core q.core).flights, issued := (t.core q.core).issued }
  operands : (t.core q.core).matchSt = (operandsTaken s q).matchSt
  slot : AMap.get (t.core q.core).issued q.pe 0 = s.now + 1
  result : ∃ f : Flight, (t.core q.core).flights = (s.core q.core).flights ++ [f]
    ∧ (f.cctx, f.pe, f.slot, f.sf, f.sfe) = (q.cctx, q.pe, q.slot, sf, sfe)
    ∧ f.outs.map (fun o => (o.port, o.tok)) = sends.map (fun p => (bkey q.cctx q.pe p.1, p.2))
    ∧ Posts s t (s.now + lat) .resultDelivery [q.core, f.id]
    ∧ ∀ key, AMap.get (t.core q.core).bufs key [] = AMap.get (operandsTaken s q).bufs key [] ++ (f.outs.filter (·.port == key)).map fun o =>
        ⟨o.id, none, (maskOf (s.core q.core) q.cctx q.pe (key % 16)).1, (maskOf (s.core q.core) q.cctx q.pe (key % 16)).2, q.slot⟩

/-- The firing q started and keeps its outputs for a result to come: its operands were taken, an entry is reserved in each named
buffer (and sf, where named), the issue slot is used, the PE's memory port is held for k cycles when it is a memory node's (R209), and nothing
else changed. -/
structure Held (s u : State) (q : Firing) (outs : List OutRes) (port : Option Nat) : Prop where
  frame : CoresOnly s u
  others : OtherCores s u q.core
  posts : u.agenda = s.agenda
  own : u.core q.core = { s.core q.core with
    bufs := (u.core q.core).bufs, matchSt := (u.core q.core).matchSt, issued := (u.core q.core).issued, memPort := (u.core q.core).memPort }
  operands : (u.core q.core).matchSt = (operandsTaken s q).matchSt
  slot : AMap.get (u.core q.core).issued q.pe 0 = s.now + 1
  held : match port with
    | some k => AMap.get (u.core q.core).memPort q.pe 0 = s.now + k
    | none => (u.core q.core).memPort = (s.core q.core).memPort
  reserved : outs.map (·.port) = (outPorts q.f).map (bkey q.cctx q.pe) ++
    (if q.f.x = 10 ∨ q.f.y = 10 then [65536 + nkey q.cctx q.pe q.slot] else [])
  entries : ∀ key, key < 65536 → (AMap.get (u.core q.core).bufs key []).map (·.id) =
    (AMap.get (operandsTaken s q).bufs key []).map (·.id) ++ (outs.filter (·.port == key)).map (·.id)

/-- What a firing with result v sends: a token to x and to y where they name a buffer, by its tag action (R91, R135). -/
def resultTokens (q : Firing) (v : Val) : Sends := (outPorts q.f).map fun p => (p, mkTok v q.tag q.f.tg.toNat q.btag q.m q.l p)

/-- What a firing with result v writes to sf (R97, R135): nothing where no lane of a mixed result is left. -/
def sfWritten (q : Firing) (v : Val) : Option (List Word) := if q.f.x = 10 ∨ q.f.y = 10 then sfSent v else none

/-- Instruction i stands ready as the next word q of a running snippet: its sources are valid and at their latency (R92, R93). -/
structure SnipReady (s : State) (i : Instr) (q : Firing) : Prop where
  place : s.cur = .snip q.core q.pe
  word : ∃ r lit, AMap.find? (s.core q.core).snips q.pe = some r ∧
    AMap.find? (s.core q.core).nodes (nkey r.cctx q.pe r.pc) = some ⟨i, lit⟩
  fires : snipFiring s q.core q.pe = .ok q

/-- A snippet word q issued (R92, R93): its results stand in its destinations, to be read from lat cycles on; the snippet is at its
next word; nothing else changed. -/
structure SnipStepped (s t : State) (q : Firing) (lat : Nat) (x y : Option Val) : Prop where
  frame : CoresOnly s t
  others : OtherCores s t q.core
  posts : t.agenda = s.agenda
  own : t.core q.core = { s.core q.core with snips := (t.core q.core).snips, issued := (t.core q.core).issued }
  slot : AMap.get (t.core q.core).issued q.pe 0 = s.now + 1
  result : ∀ r, AMap.find? (s.core q.core).snips q.pe = some r →
    ∃ r', AMap.find? (t.core q.core).snips q.pe = some r' ∧ r'.pc = r.pc + 1
      ∧ (let put := fun (r : SnipRun) (code : BitVec 4) (v : Option Val) => match v with
          | some v => snipPut r code.toNat v (s.now + lat)
          | none => r
         r' = { put (put r q.f.x x) q.f.y y with pc := r.pc + 1 })

/-- Instruction i stands ready as q, as a node or as a snippet's word, with no operand that has E set. -/
def Ready (s : State) (i : Instr) (q : Firing) : Prop := (NodeReady s i q ∧ q.e = false) ∨ SnipReady s i q

/-- A memory node stands ready: its operands and its port are there, no operand has E, and none X unless the node takes it (R193, R209). -/
structure MemReady (s : State) (i : Instr) (q : Firing) (takesX : Bool) : Prop where
  node : NodeReady s i q
  port : portFree s q.core q.pe = true
  noError : q.e = false
  noSide : takesX = true ∨ q.x = false

/-- The node firing q started and waits as operation op on handle or counter h for n, and for the accesses ids (R188, R189, R193). -/
def Waits (s t : State) (q : Firing) (op h n : Nat) (ids : List Nat) : Prop :=
  ∃ u outs w, Held s u q outs (some 1) ∧
    (w.op, w.h, w.n, w.ids, w.att, w.cctx, w.pe, w.slot, w.outs) = (op, h, n, ids, q.lit, q.cctx, q.pe, q.slot, outs) ∧
    CoreChanged u t q.core fun k => { k with waits := k.waits ++ [w] }

/-- An operation's result v: a node fires and sends it to x and y; a snippet's word writes it to x and y. -/
def Gives (s t : State) (q : Firing) (lat : Nat) (v : Val) : Prop :=
  (q.snip = false → Fired s t q lat (resultTokens q v) (sfWritten q v)) ∧
  (q.snip = true → SnipStepped s t q lat (some v) (some v))

/-- What a firing sends that has one result for x and one for y, each unless none. -/
def twoTokens (q : Firing) (x y : Option Val) : Sends :=
  let one := fun (p : Nat) (v : Option Val) => if p ≤ 8 ∨ p = 11 then [(p, v.bind fun v => mkTok v q.tag q.f.tg.toNat q.btag q.m q.l p)] else []
  one q.f.x.toNat x ++ one q.f.y.toNat y

/-- What such a firing writes to sf. -/
def twoSf (q : Firing) (x y : Option Val) : Option (List Word) :=
  if q.f.x = 10 then x.bind sfSent else if q.f.y = 10 then y.bind sfSent else none

/-- An operation's two results, x to x and y to y; none sends nothing. -/
def GivesTwo (s t : State) (q : Firing) (lat : Nat) (x y : Option Val) : Prop :=
  (q.snip = false → Fired s t q lat (twoTokens q x y) (twoSf q x y)) ∧ (q.snip = true → SnipStepped s t q lat x y)

/-- The error tokens of a firing on an operand with E (R98), and what sf then takes. -/
def errorTokens (q : Firing) : Sends := (outPorts q.f).map fun p => (p, errToken q p)
/-- sf of such a firing: the data of the first operand with E. -/
def errorSf (q : Firing) : Option (List Word) :=
  let w := ((q.a.tok.filter (·.e)).map (fun _ => q.a)).getD (q.b.getD q.a)
  if q.f.x = 10 ∨ q.f.y = 10 then some (sfVal { w.val with side := none }) else none

/-- The firing q fails on its data (R99): an error token of this cause to each destination, sf included. -/
def FailsOnData (s t : State) (q : Firing) (lat cause : Nat) : Prop :=
  Fired s t q lat ((outPorts q.f).map fun p => (p, failToken cause q p))
    (if q.f.x = 10 ∨ q.f.y = 10 then some (errWord cause q :: List.replicate 15 0) else none) true

/-- The lane-wise value of a function of the lane (R97): the function in each non-empty lane and 0 in the empty ones; a scalar operation
computes lane 0. -/
def laneVals (q : Firing) (h : Nat → Word) : Val :=
  if q.isVec then ⟨(List.range 16).map fun l => if (q.sides.map fun sd => sd.getD l 0) = some 0xFFFFFF then 0 else h l, true, q.sides⟩
  else Val.scalar (h 0)

/-- The lane-wise value of a function of the operands' lanes and of sf's. -/
def laneWise (q : Firing) (h : Word → Word → Word → Word) : Val :=
  laneVals q fun l => h (q.a.lane l) (q.bl l) (q.sf.getD l 0)

end Sys2Proof.Machine
end

