-- ==== Sys2Proof/Certificates/Slice0/Obligations.lean ====
section
/-! DEFINITION. The statements for the provers, and the tables and observations they are stated in. -/

open Sys2Proof Sys2Proof.Machine

/-! ## Node operations: integers and addresses (R138, R139) -/

namespace Sys2Proof.Machine

/-- The leading zero bits of a lane, 32 for 0: 32 less the length of its value in binary. -/
def leadingZeros (a : Word) : Nat := 32 - (if a = 0 then 0 else Nat.log2 a.toNat + 1)

/-- A sum over the 32 bits of a lane. -/
def bitSum (h : Nat → Nat) : Nat := ((List.range 32).map h).sum

/-- An integer clamped to what 32 bits hold in two's complement. -/
def clampTo32 (z : Int) : Word := BitVec.ofInt 32 (max (-2147483648) (min 2147483647 z))

/-- The table of R138: each operation's lane function of A, B and sf. -/
def integerTable : List ((NF → Instr) × (NF → Word → Word → Word → Word)) :=
  [(.add, fun _ a b _ => a + b),
   (.sub, fun _ a b _ => a - b),
   (.adds, fun _ a b _ => clampTo32 (a.toInt + b.toInt)),
   (.subs, fun _ a b _ => clampTo32 (a.toInt - b.toInt)),
   (.mul, fun _ a b _ => a * b),
   (.mulh, fun _ a b _ => (a.signExtend 64 * b.signExtend 64).extractLsb' 32 32),
   (.mulhn, fun _ a b _ => (a.zeroExtend 64 * b.zeroExtend 64).extractLsb' 32 32),
   (.min, fun _ a b _ => if b.slt a then b else a),
   (.max, fun _ a b _ => if b.slt a then a else b),
   (.minn, fun _ a b _ => if b < a then b else a),
   (.maxn, fun _ a b _ => if b < a then a else b)]
  ++ [(.abs, fun _ a _ _ => BitVec.ofNat 32 a.toInt.natAbs),
   (.neg, fun _ a _ _ => 0 - a),
   (.and, fun _ a b _ => a &&& b),
   (.or, fun _ a b _ => a ||| b),
   (.xor, fun _ a b _ => a ^^^ b),
   (.andn, fun _ a b _ => a &&& ~~~b),
   (.not, fun _ a _ _ => ~~~a),
   (.shl, fun _ a b _ => a <<< b),
   (.shr, fun _ a b _ => a >>> b),
   (.sar, fun _ a b _ => a.sshiftRight (min b.toNat 31)),
   (.rot, fun _ a b _ => (a <<< (b.toNat % 32)) ||| (a >>> (32 - b.toNat % 32)))]
  ++ [(.clz, fun _ a _ _ => BitVec.ofNat 32 (leadingZeros a)),
   (.popc, fun _ a _ _ => BitVec.ofNat 32 (bitSum fun i => (a.getLsbD i).toNat)),
   (.brev, fun _ a _ _ => BitVec.ofNat 32 (bitSum fun i => (a.getLsbD i).toNat * 2 ^ (31 - i))),
   (.lea, fun _ a b v => a + (b <<< (v.extractLsb' 0 5).toNat)),
   (.cmp, fun f a b _ => if cmpS f.m.toNat a b then 1 else 0),
   (.cmpn, fun f a b _ => if cmpN f.m.toNat a b then 1 else 0),
   (.tst, fun f a b _ => if ((a &&& b) = 0) = (f.m = 0) then 1 else 0),
   (.sel, fun _ a b v => if v = 0 then b else a),
   (.mov, fun _ a _ _ => a)]

end Sys2Proof.Machine

/-- R138, R139, R97, R92: an integer or address operation that stands ready, as a node or as a snippet's word, gives the table's lane
function of its operands 1 cycle later, whatever their values: it never faults on data. Nothing else changes. -/
def Obligations.IntegerOperationsGiveTheirResult : Prop :=
  ∀ r ∈ integerTable, ∀ (f : NF) (s : State) (q : Firing), Ready s (r.1 f) q →
    ∃ t, exec (r.1 f) s = .next t ∧ Gives s t q 1 (laneWise q (r.2 f))

/-! ## Node operations: floating point, conversion and lanes (R159-R175) -/

namespace Sys2Proof.Machine

/-- The operations of R163 and R164: latency and lane function. -/
def floatLaneTable : List ((NF → Instr) × Nat × (NF → Word → Word → Word)) :=
  [(.fmin, 2, fun _ => fminmax false), (.fmax, 2, fun _ => fminmax true),
   (.fabs, 1, fun _ a _ => a.zeroExtend 31 |>.zeroExtend 32), (.fneg, 1, fun _ a _ => BitVec.ofBool (!a.msb) ++ a.extractLsb' 0 31),
   (.fcmp, 2, fun f a b => if fcmp f.m.toNat a b then 1 else 0), (.fcls, 1, fun _ a _ => fcls a)]

/-- The SFU operations (R165), by kind. -/
def sfuTable : List ((NF → Instr) × Nat) := [(.frcp, 0), (.frsq, 1), (.fex2, 2), (.flg2, 3)]

/-- The arithmetic operations that round f32 (R162). -/
def f32Table : List ((NF → Instr) × Nat) := [(.fadd, 0), (.fsub, 1), (.fmul, 2), (.fma, 3)]

/-- The arithmetic operations on packed halves (R166). -/
def halfTable : List ((NF → Instr) × Nat) := [(.hadd, 0), (.hmul, 2), (.hfma, 3)]

/-- One rounding with the Shaker value x, which only SR (5) reads (R45). -/
def roundedWith (t rm : Nat) (sat : Bool) (x : Word) (v : XVal) : Nat := roundOnce t rm sat (if rm = 5 then x.toNat / 256 else 0) v

/-- The PE's Shaker states after n roundings in each computed lane: they step under SR alone (R49). -/
def steppedBy (q : Firing) (rm n : Nat) (sh : List Word) : List Word :=
  (List.range 16).map fun l => if rm = 5 ∧ l ∈ q.lanes then Nat.repeat shakerNext n (sh.getD l 0) else sh.getD l 0

/-- The f32 result of lane l: the exact value of the operation, rounded once (R162). -/
def f32Result (kind rm : Nat) (q : Firing) (sh : List Word) (l : Nat) : Word :=
  word (roundedWith 7 rm (8 ≤ q.f.m.toNat) (shakerNext (sh.getD l 0))
    (arith kind rm (f32 (q.a.lane l)) (f32 (q.bl l)) (f32 (q.sf.getD l 0))))

/-- Half i of a word as a value of element type t (R166). -/
def halfVal (t i : Nat) (w : Word) : XVal := elemVal t (w.extractLsb' (16 * i) 16).toNat

/-- The packed result of lane l: the low element, then the high one, each rounded once (R166). -/
def halfResult (kind rm : Nat) (q : Firing) (sh : List Word) (l : Nat) : Word :=
  let t := if q.f.m.toNat < 8 then 5 else 6
  let x := shakerNext (sh.getD l 0)
  let one := fun i x => roundedWith t rm false x (arith kind rm (halfVal t i (q.a.lane l)) (halfVal t i (q.bl l)) (halfVal t i (q.sf.getD l 0)))
  word (one 0 x + one 1 (shakerNext x) * 2 ^ 16)

/-- Type code of a conversion's source and of its destination (R167). -/
def sourceType (q : Firing) : Nat := (q.lit.extractLsb' 0 4).toNat
/-- The destination's. -/
def destType (q : Firing) : Nat := (q.lit.extractLsb' 4 4).toNat

/-- The 32 values that CVTQ packs into a block: 16 of A and 16 of B for f32, else 32 halves of A (R168). -/
def cvtqInputs (q : Firing) : List XVal :=
  let va := lanesNat q.a.lanes
  let vb := (q.b.map fun b => lanesNat b.lanes).getD 0
  (List.range 32).map fun j => if sourceType q = 7 then elemVal 7 (elemAt (if j < 16 then va else vb) 32 (j % 16)) else elemVal (sourceType q) (elemAt va 16 j)

/-- The random value of rounding i of a firing whose roundings step the Shaker states of these lanes in turn (R45, R49): 0 but under SR. -/
def drawn (rm : Nat) (sh : List Word) (lanes : List Nat) (i : Nat) : Nat :=
  let l := lanes.getD i 0
  if rm = 5 then (Nat.repeat shakerNext ((lanes.take (i + 1)).count l) (sh.getD l 0)).toNat / 256 else 0

/-- The Shaker states that those roundings leave. -/
def drawnOn (rm : Nat) (sh : List Word) (lanes : List Nat) : List Word :=
  (List.range 16).map fun l => if rm = 5 then Nat.repeat shakerNext (lanes.count l) (sh.getD l 0) else sh.getD l 0

/-- The lane operations of R172 to R174 that take no rounding: latency and value. -/
def laneTable : List ((NF → Instr) × Nat × (Firing → Val)) :=
  [(.shuf, 1, fun q => Val.vec16 ((List.range 16).map fun l => if (q.bl l).getLsbD 4 then 0 else q.a.lane ((q.bl l).toNat % 16))),
   (.bcast, 1, fun q => Val.vec16 (List.replicate 16 (q.a.lane ((q.bl 0).toNat % 16)))),
   (.lane, 1, fun q => Val.vec16 (q.sf.set ((q.bl 0).toNat % 16) (q.a.lane 0))),
   (.pack, 2, fun q =>
      let el := fun (o : Opnd) => (List.range 16).map fun l => intClamp q.f.m.toNat (o.lane l).toInt
      Val.vec16 (natLanes (packElems (typeBits q.f.m.toNat) (el q.a ++ (q.b.map el).getD [])))),
   (.unpk, 2, fun q =>
      let w := typeBits q.f.m.toNat
      let el := fun l => elemAt (lanesNat q.a.lanes) w (16 * q.part (512 / (16 * w)) + l)
      Val.vec16 ((List.range 16).map fun l => if typeSigned q.f.m.toNat then BitVec.ofInt 32 (sext w (el l)) else BitVec.ofNat 32 (el l)))]

end Sys2Proof.Machine

/-- R163, R164: the float operations that do not round. -/
def Parts.FloatLaneOperationsGiveTheirResult : Prop :=
  ∀ r ∈ floatLaneTable, ∀ (f : NF) (s : State) (q : Firing), Ready s (r.1 f) q →
    ∃ t, exec (r.1 f) s = .next t ∧ Gives s t q r.2.1 (laneWise q fun a b _ => r.2.2 f a b)

/-- R159, R165, R175: an SFU operation runs when its PE's SFU is free, answers 8 cycles later, and keeps the SFU for 2 cycles; while the
SFU is held, nothing happens. -/
def Parts.SfuOperationsGiveTheirResult : Prop :=
  ∀ r ∈ sfuTable, ∀ (f : NF) (s : State) (q : Firing), Ready s (r.1 f) q →
    let held := AMap.get (s.core q.core).sfu q.pe 0
    let u := s.modCore q.core fun k => { k with sfu := AMap.put k.sfu q.pe (s.now + 2) }
    (s.now < held → exec (r.1 f) s = .next s) ∧
    (held ≤ s.now → ∃ t, exec (r.1 f) s = .next t ∧ Gives u t q 8 (laneWise q fun a _ _ => specialF32 r.2 a))

/-- R162, R166, R161, R49: an arithmetic operation gives in each computed lane the exact value rounded once in the mode of m, or of
MODE.RND where m says so, and under SR steps that lane's Shaker state once for each rounding. -/
def Parts.RoundingOperationsGiveTheirResult : Prop :=
  (∀ r ∈ f32Table, ∀ (f : NF) (s : State) (q : Firing), Ready s (r.1 f) q → (s.shaker q.core q.pe).length = 16 →
    let rm := s.rnd q.core q.f.m.toNat
    let sh := s.shaker q.core q.pe
    ∃ t, exec (r.1 f) s = .next t ∧
      Gives (s.setShaker q.core q.pe (steppedBy q rm 1 sh)) t q 4 (laneVals q (f32Result r.2 rm q sh))) ∧
  (∀ r ∈ halfTable, ∀ (f : NF) (s : State) (q : Firing), Ready s (r.1 f) q → (s.shaker q.core q.pe).length = 16 →
    let rm := s.rnd q.core q.f.m.toNat
    let sh := s.shaker q.core q.pe
    ∃ t, exec (r.1 f) s = .next t ∧
      Gives (s.setShaker q.core q.pe (steppedBy q rm 2 sh)) t q 4 (laneVals q (halfResult r.2 rm q sh)))

/-- The floating-point nodes: lane arithmetic, the special-function unit, rounding. Each part says its rules. -/
def Obligations.FloatOperationsGiveTheirResult : Prop :=
  Parts.FloatLaneOperationsGiveTheirResult ∧ Parts.SfuOperationsGiveTheirResult ∧ Parts.RoundingOperationsGiveTheirResult

/-- R167, R51, R49: a conversion of an A without X gives the packed elements of the part, each source element's value rounded once; of an A
with X, the first elements of each lane that is not empty; the Shaker states step once for each rounding of their lane, in element
order, and SAT leaves an exact pair's result alone (the model's reading of an infinite input, log 33; as is that an element of a lane
which a part operand with X leaves empty is neither read nor written).
R168: CVTQ gives the block of 32 values: NaN throughout where an input is NaN, or infinite without SAT; scale 0 where all are 0; else
the rounded scale and the elements it divides; from a block, its values. R171: RSUM gives the exact sum rounded once. -/
def Parts.ConversionsGiveTheirResult : Prop :=
  (∀ c ∈ [Instr.cvtf, .cvte, .cvtfi, .cvtif], ∀ (f : NF) (s : State) (q : Firing), Ready s (c f) q → (s.shaker q.core q.pe).length = 16 →
    let src := sourceType q
    let dst := destType q
    let sat := decide (8 ≤ q.f.m.toNat) && !exactPair src dst
    let rm := s.rnd q.core q.f.m.toNat
    let sh := s.shaker q.core q.pe
    let ws := typeBits src
    let wd := typeBits dst
    let w := if q.isVec then 512 else 32
    let n := w / max ws wd
    let p := q.part (max ws wd / min ws wd)
    let va := lanesNat (if q.isVec then q.a.lanes else [q.a.lane 0])
    let at_ := fun (i : Nat) => if wd ≤ ws then i else p * n + i
    let onto := fun (i : Nat) => if wd ≤ ws then p * n + i else i
    let is := (List.range n).filter fun i => q.lanes.contains (at_ i * ws / 32) && q.lanes.contains (onto i * wd / 32)
    let ls := is.map fun i => at_ i * ws / 32
    let out := packElems wd ((List.range n).map fun i =>
      if i ∈ is then roundOnce dst rm sat (drawn rm sh ls (is.idxOf i)) (elemVal src (elemAt va ws (at_ i))) else 0)
      <<< (if wd ≤ ws then p * n * wd else 0)
    let k := min (32 / ws) (32 / wd)
    (q.a.side = none → ∃ t, exec (c f) s = .next t ∧
      Gives (s.setShaker q.core q.pe (drawnOn rm sh ls)) t q 3 (if q.isVec then ⟨natLanes out, true, q.sides⟩ else Val.scalar (word out))) ∧
    (q.a.side ≠ none → ∃ t, exec (c f) s = .next t ∧
      Gives (s.setShaker q.core q.pe (steppedBy q rm k sh)) t q 3 (laneVals q fun l => word (packElems wd ((List.range k).map fun i =>
        roundOnce dst rm sat (drawn rm sh (List.replicate k l) i) (elemVal src (elemAt (q.a.lane l).toNat ws i))))))) ∧
  (∀ (f : NF) (s : State) (q : Firing), Ready s (.cvtq f) q → q.x = false → (s.shaker q.core q.pe).length = 16 →
    let rm := s.rnd q.core q.f.m.toNat
    let sat := decide (8 ≤ q.f.m.toNat)
    let sh := s.shaker q.core q.pe
    let xs := cvtqInputs q
    let ls := (List.range 32).map fun j => if sourceType q = 7 then j % 16 else j / 2
    let nanned := xs.any fun v => v == .nan || (!sat && (match v with | .inf _ => true | _ => false))
    let am := xs.foldl (fun m v => maxMag m (absMag v)) (0, 1)
    let sc := roundOnce 16 2 true 0 (.fin false am.1 (am.2 * 6))
    let gives := fun (scale : Nat) (els : List Nat) => ∃ t, exec (.cvtq f) s = .next t ∧
      Gives (s.setShaker q.core q.pe (drawnOn rm sh ls)) t q 3 (Val.vec16 (blockLanes scale els))
    (sourceType q ≠ 4 → nanned = true → gives 0x7F (List.replicate 32 0)) ∧
    (sourceType q ≠ 4 → nanned = false → am.1 = 0 → gives 0 (List.replicate 32 0)) ∧
    (sourceType q ≠ 4 → nanned = false → am.1 ≠ 0 → ∀ sg n d, elemVal 16 sc = .fin sg n d →
      gives sc ((List.range 32).map fun j => roundOnce 4 rm sat (drawn rm sh ls j) ((xs.getD j .nan).divQ n d))) ∧
    (sourceType q = 4 →
      let wd := typeBits (destType q)
      let n := min (512 / wd) 32
      let p := if destType q = 7 then q.part 2 else 0
      let ls := (List.range n).map fun i => (n * p + i) / 8
      ∃ t, exec (.cvtq f) s = .next t ∧ Gives (s.setShaker q.core q.pe (drawnOn rm sh ls)) t q 3
        (Val.vec16 (natLanes (packElems wd ((List.range n).map fun i =>
          roundOnce (destType q) rm sat (drawn rm sh ls i) (blockVal (lanesNat q.a.lanes) (n * p + i)))))))) ∧
  (∀ (f : NF) (s : State) (q : Firing), Ready s (.rsum f) q → q.x = false →
    let rm := s.rnd q.core q.f.m.toNat
    let sh := s.shaker q.core q.pe
    let xs := (List.range 16).map (fun l => f32 (q.a.lane l)) ++ (match q.b with | none => [] | some b => (List.range 16).map fun l => f32 (b.lane l))
    ∃ t, exec (.rsum f) s = .next t ∧
      Gives (s.setShaker q.core q.pe (if rm = 5 then sh.set 0 (shakerNext (sh.getD 0 0)) else sh)) t q 6
        (Val.scalar (word (roundedWith 7 rm (8 ≤ q.f.m.toNat) (shakerNext (sh.getD 0 0)) (exactSum xs)))))

/-- R169, R40, R41: XPND widens 8-bit elements; or it aligns a block's scale to a tile's, sending the residual block to x and the exponent
to y. A block out of reach sends error tokens of cause FMT_BAD, and ends a snippet with them. -/
def Parts.XpndGivesItsResult : Prop :=
  ∀ (f : NF) (s : State) (q : Firing), Ready s (.xpnd f) q → q.x = false →
    let va := lanesNat q.a.lanes
    let b := (q.bl 0).toNat
    let res := if b < 256 then residual (fld va 135 128) b else none
    (sourceType q ≠ 15 →
      let w := typeBits (sourceType q)
      let p := if sourceType q = 14 then q.part 2 else 0
      ∃ t, exec (.xpnd f) s = .next t ∧ Gives s t q 3 (Val.vec16 (natLanes (packElems 8
        ((List.range 64).map fun i => roundOnce (destType q) 0 false 0 (elemVal (sourceType q) (elemAt va w (64 * p + i)))))))) ∧
    (sourceType q = 15 → ∀ r, res = some r → ∃ t, exec (.xpnd f) s = .next t ∧
      GivesTwo s t q 3 (some (Val.vec16 (blockLanes r ((List.range 32).map (elemAt va 4)))))
        (some (Val.scalar (BitVec.ofInt 32 ((b : Int) - 135))))) ∧
    (sourceType q = 15 → res = none → q.snip = false → ∃ t, exec (.xpnd f) s = .next t ∧
      FailsOnData s t q 3 3) ∧
    (sourceType q = 15 → res = none → q.snip = true → ∃ t n, exec (.xpnd f) s = .next t ∧
      AMap.find? (t.core q.core).snips q.pe = none ∧ (t.core q.core).flights.length = (s.core q.core).flights.length + 1 ∧
      Posts s t (s.now + 2) .resultDelivery [q.core, n])

/-- R172-R174: the lane operations that do not round: SHUF, BCAST, LANE, PACK and UNPK by their table, and RMIN and RMAX, which give the least or
greatest lane of A. (An operand with X, which R96 lets none of them take, faults: SidecarOperandsFault.) -/
def Parts.LaneOperationsGiveTheirResult : Prop :=
  (∀ r ∈ laneTable, ∀ (f : NF) (s : State) (q : Firing), Ready s (r.1 f) q → q.x = false →
    ∃ t, exec (r.1 f) s = .next t ∧ Gives s t q r.2.1 (r.2.2 q)) ∧
  (∀ c ∈ [(Instr.rmin, false), (.rmax, true)], ∀ (f : NF) (s : State) (q : Firing), Ready s (c.1 f) q → q.x = false →
    ∃ t w, exec (c.1 f) s = .next t ∧ Gives s t q 3 (Val.scalar w) ∧
      (q.f.m = 10 → (∃ l < 16, w = q.a.lane l) ∧ ∀ l < 16, if c.2 then (q.a.lane l).toInt ≤ w.toInt else w.toInt ≤ (q.a.lane l).toInt) ∧
      (q.f.m = 11 → (∃ l < 16, w = q.a.lane l) ∧ ∀ l < 16, if c.2 then q.a.lane l ≤ w else w ≤ q.a.lane l) ∧
      (q.f.m = 7 → w = (List.range 16).foldl (fun w l => fminmax c.2 w (q.a.lane l)) (q.a.lane 0)))

/-- The conversions, XPND and the lane operations. Each part says its rules. -/
def Obligations.ConversionsAndLaneOperationsGiveTheirResult : Prop :=
  Parts.ConversionsGiveTheirResult ∧ Parts.XpndGivesItsResult ∧ Parts.LaneOperationsGiveTheirResult

/-- R47, R170: SEED with operand s sets every lane of its PE's Shaker states in the cycle in which it issues, lane l of PE i to
s XOR (0x9E37_79B9 × (16 i + l + 1)), or to 0x6D2B_79F5 where that is zero, and sends A unchanged; no other PE's states change. -/
def Obligations.SeedSetsEveryLane : Prop :=
  ∀ (f : NF) (s : State) (q : Firing), Ready s (.seed f) q →
    let lane := fun (l : Nat) =>
      let x := q.a.lane 0 ^^^ (0x9E3779B9#32 * BitVec.ofNat 32 (16 * q.pe + l + 1))
      if x = 0 then 0x6D2B79F5#32 else x
    ∃ t, exec (.seed f) s = .next t ∧ (∀ l < 16, (t.shaker q.core q.pe).getD l 0 = lane l) ∧ (t.shaker q.core q.pe).length = 16
      ∧ (∀ d p, (d, p) ≠ (q.core, q.pe) → t.shaker d p = s.shaker d p)
      ∧ Gives (s.setShaker q.core q.pe ((List.range 16).map lane)) t q 1 q.a.val

/-! ## Node operations: dataflow control (R140-R156) -/

namespace Sys2Proof.Machine

/-- The control operations with one result and no effect of their own, whether they take an operand with X, and the result. -/
def passTable : List ((NF → Instr) × Bool × (Firing → Val)) :=
  [(.merge, true, fun q => q.a.val), (.gate, true, fun q => q.a.val), (.tagrd, false, fun q => Val.scalar (q.tag.ctag ++ q.tag.itag))]

/-- A's data to x or to y by lane 0 of the operands: the control operations with two destinations of which one is sent to. -/
def chooseTable : List ((NF → Instr) × Bool × (Firing → Option Val × Option Val)) :=
  [(.steer, true, fun q => if q.bl 0 = 0 then (none, some q.a.val) else (some q.a.val, none)),
   (.filt, false, fun q => (if cmpS q.f.m.toNat (q.a.lane 0) (q.bl 0) then some q.a.val else none, none))]

/-- A single token for a destination code that names a buffer. -/
def oneTo (code : BitVec 4) (t : Option Token) : Sends := if code.toNat ≤ 8 ∨ code.toNat = 11 then [(code.toNat, t)] else []

/-- Every DONE node of launch l has fired on an L token. -/
def allDone (s t : State) (l : Launch) : Prop := ∀ p ∈ doneNodes s l, p.2 ∈ (t.core p.1).doneSet

end Sys2Proof.Machine

/-- R141, R142, R143, R147, R153: the control operations that choose where A goes, or read its tag. CMPCT's packed lanes carry A's own M and L,
its count those of both operands. -/
def Parts.ControlOperationsPassTheirTokens : Prop :=
  (∀ r ∈ passTable, ∀ (f : NF) (s : State) (q : Firing), NodeReady s (r.1 f) q → q.e = false → (r.2.1 = true ∨ q.x = false) →
    ∃ t, exec (r.1 f) s = .next t ∧ Fired s t q 1 (resultTokens q (r.2.2 q)) (sfWritten q (r.2.2 q))) ∧
  (∀ r ∈ chooseTable, ∀ (f : NF) (s : State) (q : Firing), NodeReady s (r.1 f) q → q.e = false → (r.2.1 = true ∨ q.x = false) →
    ∃ t, exec (r.1 f) s = .next t ∧ Fired s t q 1 (twoTokens q (r.2.2 q).1 (r.2.2 q).2) (twoSf q (r.2.2 q).1 (r.2.2 q).2)) ∧
  (∀ (f : NF) (s : State) (q : Firing), NodeReady s (.cmpct f) q → q.e = false → q.x = false →
    let pass := (List.range 16).filter fun l => cmpS q.f.m.toNat (q.a.lane l) (q.bl l)
    let v : Val := ⟨(List.range 16).map fun l => (pass.map q.a.lane).getD l 0, true,
      some ((List.range 16).map fun l => if l < pass.length then q.tag.itag else 0xFFFFFF)⟩
    let x := if pass = [] then none else some v
    let n := Val.scalar (BitVec.ofNat 32 pass.length)
    let am := (q.a.tok.map (·.m)).getD false
    let al := (q.a.tok.map (·.l)).getD false
    ∃ t, exec (.cmpct f) s = .next t ∧ Fired s t q 1
      (oneTo q.f.x (x.bind fun v => mkTok v q.tag q.f.tg.toNat q.btag am al q.f.x.toNat) ++ oneTo q.f.y (mkTok n q.tag q.f.tg.toNat q.btag q.m q.l q.f.y.toNat))
      (if q.f.x = 10 then x.bind sfSent else if q.f.y = 10 then sfSent n else none)) ∧
  (∀ (f : NF) (s : State) (q : Firing), NodeReady s (.tagwr f) q → q.e = false → q.x = false →
    let w := q.bl 0
    let tag : Tag := ⟨w.extractLsb' 24 8, if q.f.tg ≠ 1 ∧ w.extractLsb' 0 24 = 0xFFFFFF then 0 else w.extractLsb' 0 24⟩
    ∃ t, exec (.tagwr f) s = .next t ∧ Fired s t q 1 (resultTokens { q with tag := tag } q.a.val) (sfWritten q q.a.val)) ∧
  (∀ (f : NF) (s : State) (q : Firing), NodeReady s (.sync f) q → q.e = false → q.x = false → ∀ b, q.b = some b →
    ∃ t, exec (.sync f) s = .next t ∧ Fired s t q 1
      (oneTo q.f.x (mkTok q.a.val q.tag q.f.tg.toNat q.btag q.m q.l q.f.x.toNat) ++
        oneTo q.f.y (mkTok b.val q.btag q.f.tg.toNat q.btag q.m q.l q.f.y.toNat))
      (if q.f.x = 10 then some (sfVal q.a.val) else if q.f.y = 10 then some (sfVal b.val) else none))

/-- R144: COPY sends A unchanged in data to x and to y, with the tag action applied to both. -/
def Parts.CopySendsA : Prop :=
  ∀ (f : NF) (s : State) (q : Firing), NodeReady s (.copy f) q → q.e = false →
    ∃ t, exec (.copy f) s = .next t ∧ Fired s t q 1 (resultTokens q q.a.val) (sfWritten q q.a.val)

/-- R146: CONST sends B's data with A's tag, changed by the tag action. -/
def Parts.ConstSendsB : Prop :=
  ∀ (f : NF) (s : State) (q : Firing), NodeReady s (.const f) q → q.e = false → q.x = false → ∀ b, q.b = some b →
    ∃ t, exec (.const f) s = .next t ∧ Fired s t q 1 (resultTokens q b.val) (sfWritten q b.val)

/-- COPY and CONST. Each part says its rules. -/
def Obligations.CopyAndConstSendTheirOperand : Prop :=
  Parts.CopySendsA ∧ Parts.ConstSendsB

/-- R145, R148, R155, R156: SINK consumes A, an error token with its record; ITER routes A by its L flag; ERRCHK by its E flag; COUNT
counts in sf. -/
def Parts.RoutingOperationsGiveTheirResult : Prop :=
  (∀ (f : NF) (s : State) (q : Firing), NodeReady s (.sink f) q →
    let w := (q.a.lane 0).toNat
    let r : Rec :=
      { cause := w % 2 ^ 16, origin := 0, core := q.core, pe := fld w 21 16, slot := fld w 27 22, cctx := fld w 29 28
        etk := true, tag := (q.tag.ctag ++ q.tag.itag).toNat, detail := w }
    ∃ t, exec (.sink f) s = .next t ∧ Fired (if q.e then s.note r else s) t q 1 [] none) ∧
  (∀ (f : NF) (s : State) (q : Firing), NodeReady s (.iter f) q → q.x = false →
    let v : Val := { q.a.val with side := none }
    (q.l = true → ∃ t, exec (.iter f) s = .next t ∧ Fired s t q 1
      (oneTo q.f.x none ++ oneTo q.f.y ((mkTok v { q.tag with itag := 0 } 0 q.tag q.m false q.f.y.toNat).map fun k => { k with e := q.e }))
      (if q.f.y = 10 then some (sfVal v) else none) q.e) ∧
    (q.l = false → ∃ t, exec (.iter f) s = .next t ∧ Fired s t q 1
      (oneTo q.f.x ((mkTok v q.tag q.f.tg.toNat q.btag q.m false q.f.x.toNat).map fun k => if q.e then k.asError q.m false else k) ++ oneTo q.f.y none)
      (if q.f.x = 10 then some (sfVal v) else none) q.e)) ∧
  (∀ (f : NF) (s : State) (q : Firing), NodeReady s (.errchk f) q →
    (q.e = false → ∃ t, exec (.errchk f) s = .next t ∧ Fired s t q 1 (twoTokens q (some q.a.val) none) (twoSf q (some q.a.val) none)) ∧
    (q.e = true → ∃ t, exec (.errchk f) s = .next t ∧ Fired s t q 1
      (oneTo q.f.x none ++ oneTo q.f.y ((mkTok q.a.val q.tag 0 q.tag q.m q.l q.f.y.toNat).map fun k => { k with e := true }))
      (if q.f.y = 10 then some (sfVal q.a.val) else none) true)) ∧
  (∀ (f : NF) (s : State) (q : Firing), NodeReady s (.count f) q → q.e = false → q.x = false →
    let c := q.sf.getD 0 0 + 1
    ((q.bl 0 ≠ 0 ∧ c = q.bl 0) ∨ q.l = true → ∃ t, exec (.count f) s = .next t ∧
      Fired s t q 1 (resultTokens q (Val.scalar c)) (some (q.sf.set 0 0))) ∧
    (¬ ((q.bl 0 ≠ 0 ∧ c = q.bl 0) ∨ q.l = true) → ∃ t, exec (.count f) s = .next t ∧
      Fired s t q 1 ((outPorts q.f).map fun p => (p, none)) (some (q.sf.set 0 c))))

/-- The control nodes and the nodes that route tokens. Each part says its rules. -/
def Obligations.RoutingAndControlNodesAct : Prop :=
  Parts.ControlOperationsPassTheirTokens ∧ Parts.RoutingOperationsGiveTheirResult

/-- R149, R150: DONE sends A to x and counts in SCNT; its first L firing, an error token's too, joins its launch's set, and the one that
completes the set sends the fabric end token, which arrives 2 cycles later. MARK sends A with M set; with snapshots on it registers. -/
def Parts.DoneAndMarkCount : Prop :=
  (∀ (f : NF) (s : State) (q : Firing), NodeReady s (.done f) q → q.x = false →
    let key := nkey q.cctx q.pe q.slot
    let first := q.l && !(s.core q.core).doneSet.contains key
    ∃ u t, exec (.done f) s = .next t ∧
      (q.e = false → Fired s u q 1 (twoTokens q (some q.a.val) none) (twoSf q (some q.a.val) none)) ∧
      (q.e = true → Fired s u q 1 (errorTokens q) (errorSf q) true) ∧
      CoreChanged u t q.core (fun k => { k with scnt := (k.scnt + 1) % 2 ^ 32, doneSet := if first then k.doneSet ++ [key] else k.doneSet }) ∧
      (∀ n l, s.launchOf q.core = some (n, l) → first = true → allDone s t l → Posts u t (s.now + 2) .fabricEndToken [n]) ∧
      (∀ n l, s.launchOf q.core = some (n, l) → first = false ∨ ¬ allDone s t l → t.agenda = u.agenda)) ∧
  (∀ (f : NF) (s : State) (q : Firing), NodeReady s (.mark f) q → q.e = false → q.x = false →
    ∃ u t, exec (.mark f) s = .next t ∧ Fired s u q 1 (resultTokens { q with m := true } q.a.val) (sfWritten q q.a.val) ∧
      (s.launchOf q.core = none → t = u) ∧
      (∀ n l, s.launchOf q.core = some (n, l) → (timed s.now 0 l.snapcfg).getLsbD 0 = false → t = u) ∧
      (∀ n l, s.launchOf q.core = some (n, l) → (timed s.now 0 l.snapcfg).getLsbD 0 = true →
        nkey q.cctx q.pe q.slot ∈ (t.core q.core).markSet ∧ CoresOnly u t))

/-- R102, R151, R152: CALL takes the lowest free tag, records the caller's, and sends A under it; an error token passes with its own tag and
allocates nothing; with no tag free neither fires. RET frees the tag and sends A back under the recorded one, to the side the call word names, 1 cycle
and 1 for each PE of distance later; a tag that is not allocated faults ILLEGAL. -/
def Parts.CallAndRetKeepTheTags : Prop :=
  (∀ (f : NF) (s : State) (q : Firing), NodeReady s (.call f) q →
    let free := fun i => tagIsFree (s.core q.core) s.now i = true
    (q.e = true → (∃ i, 1 ≤ i ∧ i ≤ 255 ∧ free i) → ∃ t, exec (.call f) s = .next t ∧
      Fired s t q 1 ((outPorts q.f).map fun p => (p, (mkTok { q.a.val with side := none } q.tag 0 q.tag q.m q.l p).map fun k => { k with e := true }))
        (sfWritten q { q.a.val with side := none }) true) ∧
    ((∀ i, 1 ≤ i → i ≤ 255 → ¬ free i) → exec (.call f) s = .next s) ∧
    (q.e = false → q.x = false → ∀ i, 1 ≤ i → i ≤ 255 → free i → (∀ j, 1 ≤ j → j < i → ¬ free j) →
      ∃ t, exec (.call f) s = .next t ∧ AMap.find? (t.core q.core).tags i = some (q.tag, q.lit, q.cctx) ∧
        Fired (s.modCore q.core fun k => { k with tags := AMap.put k.tags i (q.tag, q.lit, q.cctx) }) t q 1
          ((outPorts q.f).map fun p => (p, (mkTok q.a.val ⟨BitVec.ofNat 8 i, 0⟩ 0 ⟨BitVec.ofNat 8 i, 0⟩ q.m q.l p).map fun k => { k with e := false }))
          (sfWritten q q.a.val))) ∧
  (∀ (f : NF) (s : State) (q : Firing), NodeReady s (.ret f) q → q.x = false →
    let ct := q.tag.ctag.toNat
    ∀ caller cw cctx, ct ≠ 0 → AMap.find? (s.core q.core).tags ct = some (caller, cw, cctx) →
    let pe := (cw.extractLsb' 6 6).toNat
    let slot := (cw.extractLsb' 0 6).toNat
    let t : Token := ⟨if q.a.vec then q.a.lanes else [q.a.lane 0], { caller with itag := fixItag caller.itag }, none, q.m, q.l, q.e⟩
    let d := (q.pe / 8 - pe / 8) + (pe / 8 - q.pe / 8) + ((q.pe % 8 - pe % 8) + (pe % 8 - q.pe % 8))
    canReturn (s.core q.core) cctx pe slot t (cw.getLsbD 12) = true →
    ∃ u, exec (.ret f) s = .next u ∧ AMap.find? (u.core q.core).tags ct = none ∧
      ∃ fl : Flight, (u.core q.core).flights = (s.core q.core).flights ++ [fl] ∧ fl.outs.map (·.tok) = [some t] ∧
        Posts s u (s.now + 1 + d) .resultDelivery [q.core, fl.id])

/-- R92-R94, R154: SNIP takes its operands, reserves its outputs and starts its snippet at the next slot with every temporary invalid;
END, once what was written has reached its latency, frees the issue slot and sends what was written in the next cycle. -/
def Parts.SnippetsStartAndEnd : Prop :=
  (∀ (f : NF) (s : State) (q : Firing), NodeReady s (.snip f) q → q.e = false → q.x = false →
    ∃ t r, exec (.snip f) s = .next t ∧ CoresOnly s t ∧ OtherCores s t q.core ∧ t.agenda = s.agenda ∧
      AMap.find? (t.core q.core).snips q.pe = some r ∧ (r.cctx, r.slot, r.pc, r.temps, r.outx, r.outy, r.sfNew, r.endAt) = (q.cctx, q.slot, q.slot + 1, [], none, none, none, 0) ∧
      r.outs.map (·.port) = (outPorts q.f).map (bkey q.cctx q.pe) ∧ (t.core q.core).matchSt = (operandsTaken s q).matchSt ∧
      (t.core q.core).flights = (s.core q.core).flights) ∧
  (∀ (f : NF) (s : State) (c pe : Nat) (r : SnipRun) (w : Slot), s.cur = .snip c pe → AMap.find? (s.core c).snips pe = some r →
    AMap.find? (s.core c).nodes (nkey r.cctx pe r.slot) = some w → AMap.get (s.core c).issued pe 0 ≠ s.now + 1 →
    r.endAt ≤ s.now →
    let x := (nodeFields w.instr).x.toNat
    let y := (nodeFields w.instr).y.toNat
    ∃ t fl, exec (.snipEnd f) s = .next t ∧ AMap.find? (t.core c).snips pe = none ∧
      (t.core c).flights = (s.core c).flights ++ [fl] ∧ Posts s t (s.now + 1) .resultDelivery [c, fl.id] ∧
      fl.outs.map (fun o => (o.port, o.tok)) = r.outs.map (fun o => (o.port,
        if o.port % 16 = x then r.outx.bind (fun v => mkTok ⟨v.1, v.2.1, none⟩ r.a.tag r.act (r.b.getD r.a).tag r.a.m r.a.l x)
        else r.outy.bind (fun v => mkTok ⟨v.1, v.2.1, none⟩ r.a.tag r.act (r.b.getD r.a).tag r.a.m r.a.l y))) ∧
      CoresOnly s t ∧ OtherCores s t c)

/-- DONE and MARK, CALL and RET, SNIP and END. Each part says its rules. -/
def Obligations.SnippetsCallsAndCountsAct : Prop :=
  Parts.DoneAndMarkCount ∧ Parts.CallAndRetKeepTheTags ∧ Parts.SnippetsStartAndEnd

/-! ## Operands with E or X, faults, and delivery (R80, R85, R86, R96, R98, R287, R293, R295, R347, R365-R368) -/

namespace Sys2Proof.Machine

/-- The node operations that pass an error token on by R98 alone, with their latency. -/
def errorTable : List ((NF → Instr) × Nat) :=
  integerTable.map (fun r => (r.1, 1)) ++ floatLaneTable.map (fun r => (r.1, r.2.1)) ++ f32Table.map (fun r => (r.1, 4)) ++
  halfTable.map (fun r => (r.1, 4)) ++ laneTable.map (fun r => (r.1, r.2.1)) ++
  [(.cvtf, 3), (.cvte, 3), (.cvtfi, 3), (.cvtif, 3), (.cvtq, 3), (.xpnd, 3), (.rsum, 6), (.rmin, 3), (.rmax, 3), (.seed, 1)] ++
  [(.steer, 1), (.merge, 1), (.gate, 1), (.copy, 1), (.const, 1), (.filt, 1), (.cmpct, 1), (.mark, 1), (.tagrd, 1), (.tagwr, 1),
   (.snip, 1), (.sync, 1), (.count, 1)]

/-- The node operations of the dataflow and numeric families that fault on an operand with X (R96). -/
def noSidecarTable : List (NF → Instr) :=
  [.const, .filt, .cmpct, .iter, .mark, .call, .ret, .tagrd, .tagwr, .snip, .sync, .count,
   .cvtq, .xpnd, .rsum, .rmin, .rmax, .shuf, .bcast, .lane, .pack, .unpk]

/-- Core b is core a but for its issue slots and the ring index of the record that its TRAP waits for, which moves when a record comes
before that one (R293). -/
def SameCore (a b : Core) : Prop :=
  b = { a with issued := b.issued, seq := { a.seq with trapIdx := b.seq.trapIdx, wait := b.seq.wait } } ∧
  (a.seq.trapIdx = none → (∀ i v, a.seq.wait ≠ .trap i v) → b.seq = a.seq)

/-- The fault record of a node's firing (R294). -/
def nodeRecord (q : Firing) (cause : Nat) : Rec :=
  { cause := cause, origin := 0, core := q.core, pe := q.pe, slot := q.slot, cctx := q.cctx, tag := (q.tag.ctag ++ q.tag.itag).toNat }

end Sys2Proof.Machine

/-- R98: a firing with an operand that has E set computes nothing: it sends an error token to each of its destinations, with its usual
latency. -/
def Parts.ErrorTokensPassOn : Prop :=
  ∀ r ∈ errorTable, ∀ (f : NF) (s : State) (q : Firing), NodeReady s (r.1 f) q → q.e = true →
    ∃ t, exec (r.1 f) s = .next t ∧ Fired s t q r.2 (errorTokens q) (errorSf q) true

/-- R96, R287, R288: an operation that takes no sidecar faults ILLEGAL on an operand with X; RET faults so on a tag that is not
allocated. The firing is withdrawn: no operand is consumed and nothing is sent. -/
def Parts.SidecarOperandsFault : Prop :=
  (∀ c ∈ noSidecarTable, ∀ (f : NF) (s : State) (q : Firing), NodeReady s (c f) q → q.e = false → q.x = true →
    ∃ t, exec (c f) s = .next t ∧ FaultTaken s t q.core (nodeRecord q 1) ∧ SameCore (s.core q.core) (t.core q.core)) ∧
  (∀ (f : NF) (s : State) (q : Firing), NodeReady s (.ret f) q → q.x = false →
    (q.tag.ctag = 0 ∨ AMap.find? (s.core q.core).tags q.tag.ctag.toNat = none) →
    ∃ t, exec (.ret f) s = .next t ∧ FaultTaken s t q.core (nodeRecord q 1) ∧ SameCore (s.core q.core) (t.core q.core))

/-- Error tokens pass on; sidecar operands fault where a node takes none. Each part says its rules. -/
def Obligations.ErrorTokensAndSidecarsAreHandled : Prop :=
  Parts.ErrorTokensPassOn ∧ Parts.SidecarOperandsFault

/-- R293: a record takes its place after the records of earlier cycles and those of this cycle that come before it, is written at the slot its
index names, and TAIL grows by one; where none comes after it, nothing else of memory changes. A full ring counts a drop and takes no record.
(For a ring whose header and slot the context's pages map for writing.) -/
def Obligations.RecordsEnterTheRing : Prop :=
  ∀ (s : State) (ctx : Nat) (r : Rec) (hdr : List DWord),
    let base := (s.ctx ctx).ring.1
    let sz := (s.ctx ctx).ring.2
    let tail := (hdr.getD 0 0).toNat
    let head := (hdr.getD 1 0).toNat
    s.ctxReadDws ctx base 3 = .ok hdr →
    let s' : State := { s with faultLog := s.faultLog ++ [r.dws ctx s.count] }
    let used := (tail + 2 ^ 32 - head) % 2 ^ 32
    let later := laterRecs s' ctx base sz (recKey ((r.dws ctx s.count).getD 1 0).toNat) (min 1024 used) tail
    (used ≠ 2 ^ sz →
      (s.record ctx r).2 = some ((tail + 2 ^ 32 - later) % 2 ^ 32) ∧
      (later = 0 → (s.record ctx r).1 = (s'.ctxPut ctx (base + 64 + 64 * (tail % 2 ^ 32 % 2 ^ sz)) (dwBytes (r.dws ctx s.count))).ctxPut ctx base
        (toBytes 8 ((tail + 1) % 2 ^ 32)))) ∧
    (used = 2 ^ sz →
      (s.record ctx r).2 = none ∧
      (s.record ctx r).1 = s'.ctxPut ctx (base + 16) (toBytes 8 (((hdr.getD 2 0).toNat + 1) % 2 ^ 32)))

/-- R80, R86, R89: in the cycle its latency gives, a firing's results fill the entries it reserved and sf; an entry nothing was sent to is
released. A return, shaped for the port its side names (R152), that its matching store refuses tries again in the next cycle. -/
def Parts.ResultsAreDelivered : Prop :=
  (∀ (s : State) (c id : Nat) (f : Flight), Happens s [c, id] → (s.core c).flights.find? (fun f => f.id == id) = some f →
    (∀ o ∈ f.outs, o.port < 8192) → (f.outs.map (·.id)).Nodup →
    ∃ t, exec .resultDelivery s = .next t ∧ CoresOnly s t ∧ OtherCores s t c ∧ t.agenda = s.agenda ∧
      (t.core c).flights = (s.core c).flights.filter (fun x => x.id != id) ∧
      (∀ o ∈ f.outs, ∀ tok, o.tok = some tok → ∀ e ∈ AMap.get (s.core c).bufs o.port [], e.id = o.id →
        { e with tok := some tok } ∈ AMap.get (t.core c).bufs o.port []) ∧
      (∀ o ∈ f.outs, o.tok = none → ∀ e ∈ AMap.get (t.core c).bufs o.port [], e.id ≠ o.id) ∧
      (∀ key, (∀ o ∈ f.outs, o.port ≠ key) → AMap.get (t.core c).bufs key [] = AMap.get (s.core c).bufs key []) ∧
      ((t.core c).sf, (t.core c).sfE) = (match f.sf with
        | some v => (AMap.put (s.core c).sf (nkey f.cctx f.pe f.slot) v,
            if f.sfe then AMap.put (s.core c).sfE (nkey f.cctx f.pe f.slot) true else AMap.del (s.core c).sfE (nkey f.cctx f.pe f.slot))
        | none => ((s.core c).sf, (s.core c).sfE))) ∧
  (∀ (s : State) (c id n : Nat) (b : Bool) (tok : Token) (f : Flight), Happens s [c, id] → (s.core c).flights.find? (fun f => f.id == id) = some f →
    n < 16384 → f.outs = [⟨8192 + n * 2 + (if b then 1 else 0), 0, some tok⟩] →
    offer ((s.core c).store (n / 4096) (n / 64 % 64)) (n % 64) ((s.core c).returned n b tok) b = none →
    ∃ t, exec .resultDelivery s = .next t ∧ Posts s t (s.now + 1) .resultDelivery [c, id] ∧ (t.core c).matchSt = (s.core c).matchSt)

/-- R85, R86: a matching store takes a token that completes an entry, else one for which it has a free entry of its 64; a second token of
the same node, tag and side waits. -/
def Parts.MatchingStoresAccept : Prop :=
  ∀ (l : List MatchEntry) (slot : Nat) (t : Token) (b : Bool),
    let mine := fun e : MatchEntry => e.slot = slot ∧ e.tag = t.tag
    let side := fun e : MatchEntry => if b then e.b else e.a
    (∀ e ∈ l, mine e → (side e).isSome = true → offer l slot t b = none) ∧
    ((∀ e ∈ l, mine e → side e = none) → (∃ e ∈ l, mine e) → ∃ l', offer l slot t b = some l' ∧ l'.length = l.length ∧
      (∀ e ∈ l', mine e → side e = some t) ∧ ∀ e ∈ l, ¬ mine e → e ∈ l') ∧
    ((∀ e ∈ l, ¬ mine e) → l.length < 64 → ∃ e, offer l slot t b = some (l ++ [e]) ∧ mine e ∧ side e = some t) ∧
    ((∀ e ∈ l, ¬ mine e) → 64 ≤ l.length → offer l slot t b = none)

/-- R105, R149, R347, R365-R368: the fabric's end token reaches its launch; a switch of contexts is made once the old context's firings
have delivered, and clears SCNT and BT; the guard counts a dropped token and answers it in SINK mode; an error token reaches its sink or
waits its turn in the guard's queue of 16. -/
def Parts.FabricEventsHappen : Prop :=
  (∀ (s : State) (n : Nat) (l : Launch), Happens s [n] → AMap.find? s.launches n = some l →
    ∃ t, exec .fabricEndToken s = .next t ∧ LaunchesOnly s t ∧ AMap.find? t.launches n = some { l with endSent := true }) ∧
  (∀ (s : State) (c n o : Nat), Happens s [c] → (s.core c).seq.wait = .switch n o → (s.core c).stopped = false →
    firingOut s c = false → o < s.now → (s.core c).lastOut < s.now →
    ∃ t, exec .stageSwitch s = .next t ∧ (t.core c).loaded = n ∧ (t.core c).scnt = 0 ∧ (t.core c).bt = false ∧
      (t.core c).seq.pc = (s.core c).seq.pc + 4 ∧ (t.core c).seq.wait = .none ∧ (t.core c).seq.g = (s.core c).seq.g ∧
      OtherCores s t c ∧ t.mem = s.mem) ∧
  (∀ (s : State) (c key id n : Nat) (l : Launch) (tok : Token), Happens s [c, key, id] →
    edgeHead (AMap.get (s.core c).bufs key []) = some (id, tok) → s.launchOf c = some (n, l) →
    ∃ t l', exec .guardDrop s = .next t ∧ AMap.find? t.launches n = some l' ∧ l'.gdrop = l.gdrop + 1 ∧
      (∀ e ∈ AMap.get (t.core c).bufs key [], e.id = id → e.edge = false) ∧
      (l.sink s.now = none → t.agenda = s.agenda) ∧
      (∀ w, l.sink s.now = some w → ∃ m o, let d := l.cores.getD (w.extractLsb' 15 8).toNat l.origin
        AMap.find? t.ops m = some o ∧ Posts s t (s.now + 4 + 2 * hops c d) .guardErrorToken [n, m] ∧
        ∃ e, o.tok = some e ∧ e.e = true ∧ e.tag = tok.tag)) ∧
  (∀ (s : State) (n m : Nat) (l : Launch) (o : UnitOp), Happens s [n, m] → AMap.find? s.launches n = some l → AMap.find? s.ops m = some o →
    (l.guardQ = [] → ∀ u, offerSink s o = some u → exec .guardErrorToken s = .next { u with ops := AMap.del u.ops m }) ∧
    (l.guardQ ≠ [] ∨ offerSink s o = none → l.guardQ.length < 16 →
      exec .guardErrorToken s = .next (s.modLaunch n fun l => { l with guardQ := l.guardQ ++ [m] })) ∧
    (16 ≤ l.guardQ.length → exec .guardErrorToken s = .next { s with ops := AMap.del s.ops m }))

/-- Results are delivered, matching stores accept, and the fabric's other events happen. Each part says its rules. -/
def Obligations.FabricEventsAct : Prop :=
  Parts.ResultsAreDelivered ∧ Parts.MatchingStoresAccept ∧ Parts.FabricEventsHappen

/-! ## Memory node operations (R176-R195, R395) -/

namespace Sys2Proof.Machine

/-- The loads and stores of one place: whether they store, and whether they address scratch directly (R181, R183). -/
def loadStoreTable : List ((NF → Instr) × Bool × Bool) :=
  [(.ld, false, false), (.st, true, false), (.lds, false, true), (.sts, true, true)]

/-- The atomics by opcode (R185). -/
def atomicTable : List ((NF → Instr) × Nat) :=
  [(.aadd, 0x76), (.afadd, 0x77), (.amin, 0x78), (.amax, 0x79), (.aminn, 0x7A), (.amaxn, 0x7B),
   (.aand, 0x7C), (.aor, 0x7D), (.axor, 0x7E), (.axch, 0x7F), (.acas, 0x80)]

/-- Where the n bytes at an offset of a memory node's window, or of scratch, lie (R181). -/
def memPlace (s : State) (q : Firing) (direct : Bool) (off n : Nat) : Except Nat (Space × Nat) :=
  if direct then placeScratch s q.core off n else placeWin s q.core (q.lit.extractLsb' 16 4).toNat off n

/-- The fields that an attribute word gives its access (R176-R179); a DET launch's carries its number NB + (NS + 1) * ITAG. -/
def hasAttributes (s : State) (q : Firing) (a : Access) : Prop :=
  a.own = (if s.detOf q.core then
    some (BitVec.ofNat 16 ((q.lit.extractLsb' 24 4).toNat + ((q.lit.extractLsb' 28 4).toNat + 1) * q.tag.itag.toNat)) else none) ∧
  a.core = q.core ∧ a.src = .node q.cctx q.pe q.slot ∧ a.path = (if q.lit.getLsbD 13 then .str else .fab) ∧
  a.acq = q.lit.getLsbD 11 ∧ a.rel = q.lit.getLsbD 12 ∧
  a.scope = (q.lit.extractLsb' 8 3).toNat ∧ a.dom = (q.lit.extractLsb' 20 4).toNat ∧ a.hint = (q.lit.extractLsb' 14 2).toNat

/-- A handle that is configured and has n slots, with n not 0 (R193). -/
def slotsOk (s : State) (q : Firing) (n : Nat) : Bool :=
  let h := (s.core q.core).handle (q.lit.toNat % 16)
  h.v && decide (n ≠ 0) && decide (n ≤ h.cnt + 1)

/-- The state in which a release of a domain that stands ready waits: at .sys the buffered stores of its domain have drained (R186, R265). -/
def released (s : State) (q : Firing) : State :=
  if q.lit.getLsbD 12 ∧ q.lit.extractLsb' 8 3 = 5 then drainAll s q.core (·.doms.contains (q.lit.extractLsb' 20 4).toNat) else s

/-- The firing of an STX: B's X sidecar says nothing of its lanes (R184). -/
def storing (q : Firing) : Firing := { q with b := q.b.map fun (o : Opnd) => { o with side := none } }

end Sys2Proof.Machine

/-- R182, R183, R258: the events of an access of 1 to 64 bytes are aligned pieces that cover its bytes once, in order. -/
def Parts.EventsCoverTheAccess : Prop :=
  ∀ p n, 0 < n → n ≤ 64 →
    ((eventsOf p n).flatMap fun e => (List.range e.len).map fun i => (e.addr + i, e.at_ + i)) = (List.range n).map (fun i => (p + i, i)) ∧
    ∀ e ∈ eventsOf p n, e.addr % e.len = 0 ∧ 0 < e.len

/-- R181, R183, R184: a load or store that stands ready issues the access its attribute word names, over the events of its bytes, and
holds its outputs for the answer; LDX and STX issue one for every lane that is not empty. Outside its window or scratch it sends an error
token. (In a FREE launch; a DET one sends the null number of R270 with it.) -/
def Parts.LoadsAndStoresIssueTheirAccess : Prop :=
  (∀ r ∈ loadStoreTable, ∀ (f : NF) (s : State) (q : Firing), MemReady s (r.1 f) q false →
    let n := elemBytes q.lit.toNat
    let place := memPlace s q r.2.2 (q.a.lane 0).toNat n
    (∀ sp a, place = .ok (sp, a) → ∃ t u ac, exec (r.1 f) s = .next t ∧ Issued u t ac ∧ Held s u q ac.outs (some (max 1 (eventsOf a n).length)) ∧
      hasAttributes s q ac ∧ ac.kind = (if r.2.1 then .store else .load) ∧ ac.space = sp ∧ ac.todo = eventsOf a n ∧
      (r.2.1 = true → ∀ b, q.b = some b → ac.data = storeBytes b q.lit.toNat n)) ∧
    (∀ c, place = .error c → s.detOf q.core = false → ∃ t, exec (r.1 f) s = .next t ∧
      FailsOnData s t q 1 c)) ∧
  (∀ r ∈ [(Instr.ldx, false), (.stx, true)], ∀ (f : NF) (s : State) (p : Firing), MemReady s (r.1 f) p true →
    let q := if r.2 then storing p else p
    let n := elemBytes q.lit.toNat
    (∀ ps sp, lanePieces s q n q.lanes = .ok (ps, sp) → ∃ t u ac, exec (r.1 f) s = .next t ∧ Issued u t ac ∧
      Held s u q ac.outs (some (max 1 (ps.filter fun e => e.at_ % 4 == 0).length)) ∧ hasAttributes s q ac ∧ ac.kind = (if r.2 then .store else .load) ∧ ac.space = sp ∧ ac.todo = ps ∧
      (r.2 = true → ac.data = (List.range 16).flatMap fun l => toBytes 4 (q.bl l).toNat)) ∧
    (∀ c, lanePieces s q n q.lanes = .error c → s.detOf q.core = false → ∃ t, exec (r.1 f) s = .next t ∧
      FailsOnData s t q 1 c))

/-- R185: an atomic that stands ready issues one event on the aligned word it names; an address that 4 does not divide sends an error token
of cause ALIGN. -/
def Parts.AtomicsIssueOneEvent : Prop :=
  ∀ r ∈ atomicTable, ∀ (f : NF) (s : State) (q : Firing), MemReady s (r.1 f) q false →
    let place := memPlace s q false (q.a.lane 0).toNat 4
    ∀ sp a, place = .ok (sp, a) →
      (a % 4 = 0 → ∃ t u ac, exec (r.1 f) s = .next t ∧ Issued u t ac ∧ Held s u q ac.outs (some 1) ∧ hasAttributes s q ac ∧
        ac.kind = .atomic r.2 ∧ ac.space = sp ∧ ac.todo = [⟨a, 4, 0⟩] ∧ ac.data.take 4 = toBytes 4 (q.bl 0).toNat ∧
        (r.2 = 0x80 → ac.data.drop 4 = toBytes 4 (q.bl 1).toNat)) ∧
      (a % 4 ≠ 0 → s.detOf q.core = false → ∃ t, exec (r.1 f) s = .next t ∧
        FailsOnData s t q 1 16)

/-- Loads, stores and atomics issue their access, and its events cover its bytes. Each part says its rules. -/
def Obligations.MemoryNodesIssueTheirAccess : Prop :=
  Parts.EventsCoverTheAccess ∧ Parts.LoadsAndStoresIssueTheirAccess ∧ Parts.AtomicsIssueOneEvent

/-- R188, R189, R193, R194, R265, R395: a fence waits for the accesses it orders, the buffered stores that it drains at .sys among them; a
circular-buffer operation waits for its handle, an advance also for the core's earlier accesses to the handle's slots; CNTADD waits for what
it releases. A handle or count that R193 refuses, and a counter that does not exist, send an error token at once. -/
def Parts.WaitingNodesWait : Prop :=
  (∀ (f : NF) (s : State) (q : Firing), MemReady s (.fence f) q false →
    let u := released s q
    let num := BitVec.ofNat 16 ((q.lit.extractLsb' 24 4).toNat + ((q.lit.extractLsb' 28 4).toNat + 1) * q.tag.itag.toNat)
    ∃ t, exec (.fence f) s = .next t ∧ Waits u t q 0x81 0 num.toNat
      (if q.lit.getLsbD 12 then domainAccesses u q.core (q.lit.extractLsb' 20 4).toNat (q.lit.extractLsb' 8 3).toNat else [])) ∧
  (∀ (f : NF) (s : State) (q : Firing), MemReady s (.xfence f) q false →
    let before := pathsOf (q.lit.extractLsb' 0 7).toNat
    let u := if q.lit.extractLsb' 16 3 = 5 then drainAll s q.core fun e => e.stores.any fun x => srcOnPaths before x.1 else s
    ∃ t, exec (.xfence f) s = .next t ∧
      Waits u t q 0x82 0 0 (outstanding u q.core before (q.lit.extractLsb' 16 3).toNat ++ bufferedStores u q.core before)) ∧
  (∀ (f : NF) (s : State) (q : Firing), MemReady s (.cntadd f) q false →
    let n := (q.a.lane 0).toNat
    let u := released s q
    (n < 8192 → ∃ t, exec (.cntadd f) s = .next t ∧
      Waits u t q 0x89 n (q.bl 0).toNat
        (if q.lit.getLsbD 12 then domainAccesses u q.core 0 (q.lit.extractLsb' 8 3).toNat else [])) ∧
    (8192 ≤ n → ∃ t, exec (.cntadd f) s = .next t ∧ FailsOnData s t q 1 1)) ∧
  (∀ r ∈ [(Instr.cbput, 0x85), (.cbget, 0x86), (.cbwait, 0x87), (.cbroom, 0x88)], ∀ (f : NF) (s : State) (q : Firing), MemReady s (r.1 f) q false →
    let n := (q.a.lane 0).toNat
    let h := q.lit.toNat % 16
    (slotsOk s q n = true → ∃ t, exec (r.1 f) s = .next t ∧
      Waits s t q r.2 h n (if r.2 = 0x85 then slotAccesses s q.core h .fab true else if r.2 = 0x86 then slotAccesses s q.core h .fab false else [])) ∧
    (slotsOk s q n = false → ∃ t, exec (r.1 f) s = .next t ∧ FailsOnData s t q 1 18))

/-- R190: PRFT sends A in the next cycle and asks for its line; WBL sends A when its line is clean at its memory. -/
def Parts.LineOperationsAct : Prop :=
  (∀ (f : NF) (s : State) (q : Firing), MemReady s (.prft f) q false →
    let place := memPlace s q false (q.a.lane 0).toNat 1
    ∃ u t, exec (.prft f) s = .next t ∧ Fired s u q 1 (resultTokens q q.a.val) (sfWritten q q.a.val) ∧
      (∀ a, place = .ok (.virt, a) → ∃ ac, Issued u t ac ∧ ac.kind = .prft ∧ ac.space = .virt ∧ ac.todo = [⟨a / 128 * 128, 128, 0⟩] ∧ ac.outs = []) ∧
      ((∀ a, place ≠ .ok (.virt, a)) → t = u)) ∧
  (∀ (f : NF) (s : State) (q : Firing), MemReady s (.wbl f) q false →
    let place := memPlace s q false (q.a.lane 0).toNat 1
    (∀ sp a, place = .ok (sp, a) → ∃ t u ac, exec (.wbl f) s = .next t ∧ Issued u t ac ∧ Held s u q ac.outs (some 1) ∧
      ac.kind = .wbl ∧ ac.space = sp ∧ ac.todo = [⟨a / 128 * 128, 128, 0⟩]) ∧
    (∀ c, place = .error c → ∃ t, exec (.wbl f) s = .next t ∧ FailsOnData s t q 1 c))

/-- The memory nodes that wait, and those that act on lines. Each part says its rules. -/
def Obligations.WaitingAndLineNodesAct : Prop :=
  Parts.WaitingNodesWait ∧ Parts.LineOperationsAct

/-! ## Memory and its events (R3, R182-R187, R241-R273, R352, R399-R401, R495) -/

namespace Sys2Proof.Machine

/-- Access a of number id may perform in this cycle: nothing holds it back (R186, R246, R251, R260, R267), it need not go home for a copy
that its far cache has lost, and its launch takes no snapshots. -/
structure MayPerform (s : State) (id : Nat) (a : Access) : Prop where
  found : AMap.find? s.accs id = some a
  sent : a.stage = .sent
  free : heldBack s a = false
  copied : lostCopy s a = false
  noSnapshots : ∀ n l, s.launchOf a.core = some (n, l) → l.snapOn s.now = false

/-- A piece of an access that lies in ordinary memory: scratch, a window, or a memory of the map that is not poisoned there. -/
def inMemory (s : State) (a : Access) (p : Piece) : Prop :=
  a.space ≠ .phys ∨ ((memRegion s p.addr).isSome = true ∧ ∀ x ∈ s.poison, ¬ (x < p.addr + p.len ∧ p.addr < x + 32))

/-- The value an atomic leaves at its word, by its opcode, the old value and the operand's lanes 0 and 1 (R185): none where it writes nothing. -/
def atomicLeaves (op : Nat) (old v new : Word) : Option Word :=
  if op = 0x76 then some (old + v)
  else if op = 0x77 then some (word (roundOnce 7 0 false 0 (arith 0 0 (f32 old) (f32 v) .nan)))
  else if op = 0x78 then some (if v.slt old then v else old)
  else if op = 0x79 then some (if old.slt v then v else old)
  else if op = 0x7A then some (if v < old then v else old)
  else if op = 0x7B then some (if old < v then v else old)
  else if op = 0x7C then some (old &&& v)
  else if op = 0x7D then some (old ||| v)
  else if op = 0x7E then some (old ^^^ v)
  else if op = 0x7F then some v
  else if old = v then some new else none

/-- The word of four bytes in memory, least significant first (R3). -/
def wordIn (m : List Host.Cell) (a : Nat) : Word := readByte m (a + 3) ++ readByte m (a + 2) ++ readByte m (a + 1) ++ readByte m a

/-- No byte outside the n bytes from address x differs. -/
def sameOutside (m m' : List Host.Cell) (x n : Nat) : Prop := ∀ y, (y < x ∨ x + n ≤ y) → readByte m' y = readByte m y

/-- The cycle in which the answer of access a comes, when it performs in cycle now (R208, R271, R495). -/
def answerAt (now : Nat) (a : Access) : Nat := now + (a.wait / 2 + a.extra + (if a.kind.isAtomic then 2 else 0) + (if a.own.isSome then 20 else 0))

end Sys2Proof.Machine

/-- R3: a multi-byte value is stored with its least significant byte at the lowest address, and every byte outside it reads as before;
memory keeps its canonical form. -/
def Obligations.MemoryReadsWhatWasWritten : Prop :=
  (∀ (m : List Host.Cell) (a n v : Nat), v < 256 ^ n →
    (∀ i < n, readByte (writeBytes m a (toBytes n v)) (a + i) = BitVec.ofNat 8 (v / 256 ^ i)) ∧
    sameOutside m (writeBytes m a (toBytes n v)) a n ∧ (Memory.wf m = true → ofBytes (readBytes (writeBytes m a (toBytes n v)) a n) = v)) ∧
  (∀ (m : List Host.Cell) (a : Nat) (bs : List Byte), Memory.wf m = true →
    Memory.wf (writeBytes m a bs) = true ∧ (∀ i (h : i < bs.length), readByte (writeBytes m a bs) (a + i) = bs[i]))

/-- R183, R255, R265, R495: the last event of a store that may perform writes its bytes where its piece lies and nothing else; that of a
load gathers the bytes and changes none; both then answer. A drained store writes so and is gone. -/
def Parts.StoresAndLoadsPerform : Prop :=
  ∀ (s : State) (id : Nat) (a : Access) (p : Piece), Happens s [id] → MayPerform s id a → a.todo = [p] → inMemory s a p →
    (a.kind = .store → p.at_ + p.len ≤ a.data.length → ∃ t, exec .perform s = .next t ∧
      (∀ i < p.len, readByte t.mem (pieceAddr s a p + i) = a.data.getD (p.at_ + i) 0) ∧
      sameOutside s.mem t.mem (pieceAddr s a p) p.len ∧
      (answerAt s.now a, .accessResponse, .nums [id]) ∈ t.agenda ∧ ∃ b, AMap.find? t.accs id = some b ∧ b.stage = .performed) ∧
    (a.kind = .drain → p.at_ + p.len ≤ a.data.length → ∃ t, exec .perform s = .next t ∧
      (∀ i < p.len, readByte t.mem (pieceAddr s a p + i) = a.data.getD (p.at_ + i) 0) ∧
      sameOutside s.mem t.mem (pieceAddr s a p) p.len ∧ AMap.find? t.accs id = none) ∧
    (a.kind = .load → ∃ t b, exec .perform s = .next t ∧ t.mem = s.mem ∧
      (answerAt s.now a, .accessResponse, .nums [id]) ∈ t.agenda ∧ AMap.find? t.accs id = some b ∧ b.stage = .performed ∧
      b.got = putAt a.got p.at_ (eventRead s a p) ∧
      ((a.space ≠ .phys ∨ homeDie p.addr = dieOf a.core) → eventRead s a p = readBytes s.mem (pieceAddr s a p) p.len))

/-- R185, R352: an atomic reads its word, writes what its opcode gives and answers the old value, in one event; a compare that fails writes
nothing. -/
def Parts.AtomicsPerform : Prop :=
  ∀ (s : State) (id : Nat) (a : Access) (x : Nat), Happens s [id] → MayPerform s id a → Memory.wf s.mem = true →
    (∀ op, a.kind = .atomic op → 0x76 ≤ op → op ≤ 0x80 → a.todo = [⟨x, 4, 0⟩] → inMemory s a ⟨x, 4, 0⟩ →
      let pa := pieceAddr s a ⟨x, 4, 0⟩
      let old := wordIn s.mem pa
      let v := word (ofBytes (a.data.take 4))
      let new := word (ofBytes ((a.data.drop 4).take 4))
      ∃ t b, exec .perform s = .next t ∧ wordIn t.mem pa = (atomicLeaves op old v new).getD old ∧ sameOutside s.mem t.mem pa 4 ∧
        AMap.find? t.accs id = some b ∧ b.got = putAt a.got 0 (readBytes s.mem pa 4) ∧
        (answerAt s.now a, .accessResponse, .nums [id]) ∈ t.agenda) ∧
    (∀ e, a.kind = .cas64 e → a.todo = [⟨x, 8, 0⟩] → a.data.length = 8 → inMemory s a ⟨x, 8, 0⟩ →
      let pa := pieceAddr s a ⟨x, 8, 0⟩
      ∃ t b, exec .perform s = .next t ∧ sameOutside s.mem t.mem pa 8 ∧ AMap.find? t.accs id = some b ∧
        b.got = putAt a.got 0 (readBytes s.mem pa 8) ∧
        readBytes t.mem pa 8 = (if ofBytes (readBytes s.mem pa 8) = e.toNat then a.data else readBytes s.mem pa 8)) ∧
    (a.kind = .add64 → a.todo = [⟨x, 8, 0⟩] → inMemory s a ⟨x, 8, 0⟩ →
      let pa := pieceAddr s a ⟨x, 8, 0⟩
      ∃ t b, exec .perform s = .next t ∧ sameOutside s.mem t.mem pa 8 ∧ AMap.find? t.accs id = some b ∧
        b.got = putAt a.got 0 (readBytes s.mem pa 8) ∧
        ofBytes (readBytes t.mem pa 8) = (ofBytes (readBytes s.mem pa 8) + ofBytes (a.data.take 8)) % 2 ^ 64)

/-- R183, R344, R352, R495: the answer of a node's access fills its reserved entries with the value read, or with A's data for a store;
that of a sequencer's load or atomic is its register's value, which is no longer pending. The access is gone. -/
def Parts.AccessesAnswer : Prop :=
  ∀ (s : State) (id : Nat) (a : Access), Happens s [id] → AMap.find? s.accs id = some a → a.stage = .performed →
    (∀ x y z, a.src = .node x y z → (∀ o ∈ a.outs, o.port < 8192) → (a.outs.map (·.id)).Nodup →
      ∃ t, exec .accessResponse s = .next t ∧ AMap.find? t.accs id = none ∧ t.mem = s.mem ∧ OtherCores s t a.core ∧
        ∀ o ∈ a.outs, ∀ k, a.tok = some k → ∀ tok, (shapeOut k (accessVal a) o).tok = some tok →
          ∀ e ∈ AMap.get (s.core a.core).bufs o.port [], e.id = o.id → { e with tok := some tok } ∈ AMap.get (t.core a.core).bufs o.port []) ∧
    (∀ d, a.src = .seq d → 0 < d → d < 32 → a.outs = [] →
      ∃ t, exec .accessResponse s = .next t ∧ AMap.find? t.accs id = none ∧ t.mem = s.mem ∧ OtherCores s t a.core ∧
        AMap.get (t.core a.core).seq.g d 0 = dword (ofBytes (a.got.take 8)) ∧
        d ∉ (t.core a.core).seq.busy ∧ (t.core a.core).seq.loads = (s.core a.core).seq.loads - 1 ∧
        (t.core a.core).seq.pc = (s.core a.core).seq.pc ∧
        ∀ e, e ≠ d → AMap.get (t.core a.core).seq.g e 0 = AMap.get (s.core a.core).seq.g e 0)

/-- Accesses perform on memory and answer. Each part says its rules. -/
def Obligations.AccessesPerform : Prop :=
  Parts.StoresAndLoadsPerform ∧ Parts.AtomicsPerform ∧ Parts.AccessesAnswer

/-- R191, R399-R401: when the walk of an access ends, its pages translate and it leaves with physical addresses, or it stalls with a
record of why; no other byte of memory changes. -/
def Parts.WalksEnd : Prop :=
  ∀ (s : State) (id : Nat) (a : Access), Happens s [id] → AMap.find? s.accs id = some a → a.stage = .sent → a.space = .virt →
    (∀ r n, transPieces s a.core (s.ctxOf a.core) a.kind.acc a.todo = .ok (r, n) → (∀ p ∈ r, fld p.2.leaf 61 59 ≠ 5) →
      (∀ p ∈ r.zip a.todo, residentAt s a.core p.2.addr p.1.2.leaf = none) →
      ∃ u, exec .pageWalk s = .next (sendAccess u id { a with space := .phys, vas := a.todo, todo := r.map (·.1) }) ∧ u.mem = s.mem ∧ u.accs = s.accs ∧
        u.agenda = s.agenda) ∧
    (∀ r n, transPieces s a.core (s.ctxOf a.core) a.kind.acc a.todo = .ok (r, n) → (∃ p ∈ r, fld p.2.leaf 61 59 = 5) →
      ∃ t, exec .pageWalk s = .next t ∧ Posts s t (s.now + 64) .pageWalk [id] ∧ t.mem = s.mem) ∧
    (∀ va e, transPieces s a.core (s.ctxOf a.core) a.kind.acc a.todo = .error (va, e) → a.kind ≠ .prft →
      ∃ t b, exec .pageWalk s = .next t ∧ AMap.find? t.accs id = some b ∧ b.stage = .stalled (va / 65536))

/-- R265, R267-R271, R247: an access reaches its order slice and is held for its turn, released at once when its number is the one
expected, or sent back for 16 cycles when it is too far ahead; a release sends it to its memory and moves the expected number on; a
write-combining entry leaves as stores of its bytes and of no other; a fill completes its line's sectors. -/
def Parts.MemoryEventsHappen : Prop :=
  (∀ i ∈ [Instr.orderSliceArrival, .nackRetry], ∀ (s : State) (id n : Nat) (a : Access) (l : Launch) (x : Domain) (own : BitVec 16),
    Happens s [id] → AMap.find? s.accs id = some a → a.stage = .ordering → a.own = some own → s.launchOf a.core = some (n, l) →
    let d := orderSlice l a.dom
    let doms := (s.slice d.1 d.2).doms
    doms.find? (fun x => x.launch == n && x.dom == a.dom) = some x →
    (own = x.nx → ∃ t y, exec i s = .next t ∧ y ∈ (t.slice d.1 d.2).doms ∧ (y.launch, y.dom) = (n, a.dom) ∧ (own, id) ∈ y.held ∧
      Posts s t (max s.now (s.slice d.1 d.2).relAt) .orderSliceRelease [d.1, d.2] ∧ t.mem = s.mem) ∧
    (32768 ≤ (own - x.nx).toNat → ∃ t, exec i s = .next t ∧ Posts s t (s.now + 16) .nackRetry [id] ∧ t.mem = s.mem)) ∧
  (∀ (s : State) (d i n dom id : Nat) (a : Access), Happens s [d, i] → releasable (s.slice d i).doms = some (n, dom, id) →
    (s.slice d i).relAt ≤ s.now → AMap.find? s.accs id = some a →
    ∃ t, exec .orderSliceRelease s = .next t ∧ AMap.find? t.accs id = some { a with stage := .sent } ∧
      (s.now + ceilDiv a.wait 2, .perform, .nums [id]) ∈ t.agenda ∧ (t.slice d i).relAt = s.now + 1 ∧ t.mem = s.mem ∧
      ∀ y ∈ (s.slice d i).doms, y.launch = n → y.dom = dom →
        ∃ z ∈ (t.slice d i).doms, z.launch = n ∧ z.dom = dom ∧ z.nx = nextNum y.stride y.bases 16 (y.nx + 1)) ∧
  (∀ (s : State) (c line since : Nat) (e : WcEnt), Happens s [c, line, since] →
    (s.core c).wc.filter (fun e => e.line == line && e.since == since) = [e] →
    let covers := fun (a : Access) (x : Nat) => ∃ q ∈ a.todo, q.addr ≤ x ∧ x < q.addr + q.len ∧
      a.data.getD (q.at_ + (x - q.addr)) 0 = e.bytes.getD (x - line * 128) 0
    ∃ t, exec .wcDrain s = .next t ∧ t.mem = s.mem ∧ (∀ x ∈ (t.core c).wc, x.line ≠ line) ∧ OtherCores s t c ∧
      (∀ j < 128, e.mask.getLsbD j = true → ∃ id a time, AMap.find? t.accs id = some a ∧ (a.core, a.kind, a.stage) = (c, .drain, .sent) ∧
        covers a (line * 128 + j) ∧ (time, .perform, .nums [id]) ∈ t.agenda) ∧
      (∀ p ∈ t.accs, p ∈ s.accs ∨ (p.2.kind = .drain ∧ ∀ q ∈ p.2.todo, ∀ x, q.addr ≤ x → x < q.addr + q.len →
        ∃ j < 128, x = line * 128 + j ∧ e.mask.getLsbD j = true))) ∧
  (∀ (s : State) (d i line m : Nat) (k : Nat) (w : CLine), Happens s [0, d, i, line, m] → (k, w) ∈ (s.slice d i).ways → w.line = line →
    (w.valid ||| w.dirty) ≠ 0 →
    ∃ t, exec .fillArrival s = .next t ∧ (k, { w with valid := w.valid ||| BitVec.ofNat 4 m }) ∈ (t.slice d i).ways ∧ t.mem = s.mem)

/-- Page walks end, and the memory system's other events happen. Each part says its rules. -/
def Obligations.WalksAndMemoryEventsHappen : Prop :=
  Parts.WalksEnd ∧ Parts.MemoryEventsHappen

/-! ## The stream engine (R125, R196-R207, R210) -/

namespace Sys2Proof.Machine

/-- The stream program of core c may issue in this cycle (R210). -/
def StrmReady (s : State) (c : Nat) : Prop :=
  s.cur = .strm c ∧ (s.core c).strm.running = true ∧ (s.core c).stopped = false ∧ (s.core c).gated = false ∧ (s.core c).strm.next ≤ s.now

/-- The program went on n bytes further, its core changed by f beside, and nothing else changed. -/
def StrmGoes (s t : State) (c n : Nat) (f : Core → Core) : Prop :=
  t.agenda = s.agenda ∧ CoreChanged s t c fun k => { f k with strm := { (f k).strm with pc := (f k).strm.pc + n, next := s.now + 1 } }

/-- The program went on n bytes further, the listed channels are as given, and nothing else changed. -/
def ChansSet (s t : State) (c n : Nat) (l : List (Nat × Channel)) : Prop :=
  t.agenda = s.agenda ∧ CoresOnly s t ∧ OtherCores s t c ∧
  t.core c = { s.core c with chans := (t.core c).chans, strm := { (s.core c).strm with pc := (s.core c).strm.pc + n, next := s.now + 1 } } ∧
  (∀ p ∈ l, (t.core c).chan p.1 = p.2) ∧ ∀ ch, ch ∉ l.map (·.1) → (t.core c).chan ch = (s.core c).chan ch

/-- A channel at the start of a pass (R201, R207). -/
def Channel.starting (x : Channel) (pass partner : Nat) (org : Int) : Channel :=
  { x with state := .active, pass := pass, partner := partner, origin := org, issued := 0, done := 0, last := false, paired := 0, index := [] }

/-- The cores that an SMC's mask names outside the group (R204). -/
def namedOutside (s : State) (c mask : Nat) : List Nat :=
  (((List.range 16).filter fun b => bitAt mask b).map (clusCore c)).filter fun d =>
    match s.launchOf c with | some (_, l) => !l.has d | none => true

/-- The program asks something of a handle, which the end of the cycle answers (R195, R205); nothing else changed. -/
def StrmAsks (s t : State) (c : Nat) (a : StrmAsk) : Prop :=
  t.agenda = s.agenda ∧ CoreChanged s t c fun k => { k with strm := { k.strm with ask := some a } }

/-- The fault of a stream program (R197). -/
def strmRecord (s : State) (c cause : Nat) : Rec := { cause := cause, origin := 3, core := c, offset := (s.core c).strm.pc }

end Sys2Proof.Machine

/-- R196, R199, R201-R207: each stream command's effect where it may run: opening, closing and starting passes of channels, configuring
handles, asking for their advances and counts, waiting, ending the program, and its register arithmetic and branch. A channel claimed as an
index channel stays as it is (log 36). -/
def Parts.StreamCommandsAct : Prop :=
  ∀ (s : State) (c : Nat) (f : CF), StrmReady s c →
    let k := s.core c
    let x := k.chan f.d.toNat
    let hd := k.handle f.d.toNat
    let n := cbCount k f
    (∀ imm e, x.state = .closed → k.table.find? (fun t => t.1 == imm.toNat && t.2.1 == f.d.toNat) = some e → ∃ t, exec (.sopen f imm) s = .next t ∧
      ChansSet s t c 8 [(f.d.toNat, { x with state := .opened, desc := e.2.2, count := 0, pass := 0, last := false, rr := 0 })]) ∧
    (∀ imm, x.state = .index → ∃ t, exec (.sopen f imm) s = .next t ∧ StrmGoes s t c 8 id) ∧
    (∀ r ∈ [(Instr.sld, 0), (.sst, 1)], x.state = .index → x.dir = r.2 → ∃ t, exec (r.1 f) s = .next t ∧ StrmGoes s t c 4 id) ∧
    (x.state = .opened → ∃ t, exec (.sclose f) s = .next t ∧ ((t.core c).chan f.d.toNat).state = .closed ∧ (t.core c).strm.pc = k.strm.pc + 4 ∧
      CoresOnly s t ∧ OtherCores s t c ∧ ∀ p ∈ portsOf k f.d.toNat, AMap.get (t.core c).bufs (ekey p.2 p.1) [] = []) ∧
    (∀ r ∈ [(Instr.sld, 0), (.sst, 1)], x.state = .opened → x.dir = r.2 → let org := (x.base : Int) + (jreg k f.a.toNat).toInt
      passOk s c x org = true → ∃ t, exec (r.1 f) s = .next t ∧ ChansSet s t c 4 [(f.d.toNat, x.starting (1 + r.2) 0 org)]) ∧
    (∀ r ∈ [(Instr.sgth, 0), (.ssct, 1)], x.state = .opened → x.dir = r.2 → x.dw 1 10 9 = 0 → f.d ≠ f.a → (k.chan f.a.toNat).state = .closed →
      ∃ t, exec (r.1 f) s = .next t ∧ ChansSet s t c 4 [(f.d.toNat, x.starting (3 + r.2) f.a.toNat x.base),
        (f.a.toNat, { k.chan f.a.toNat with state := .index, pass := 8, partner := f.d.toNat, rr := 0 })]) ∧
    (let y := k.chan f.a.toNat
      let od := (x.base : Int) + (jreg k f.b.toNat).toInt
      let os := (y.base : Int) + (jreg k (f.b.toNat + 1)).toInt
      f.b.toNat % 2 = 0 → x.state = .opened → y.state = .opened → x.dir = 1 → y.dir = 0 → x.esz = y.esz → x.total = y.total →
      passOk s c x od = true → passOk s c y os = true → (x.space = 3 → ∀ n l, s.launchOf c = some (n, l) → (x.span od).2 < ({ l with ways := s.waysOf n l } : Launch).winSize) →
      (x.space = 3 → (s.launchOf c).isSome = true) →
      ∃ t, exec (.scpy f) s = .next t ∧ ChansSet s t c 4 [(f.d.toNat, x.starting 6 f.a.toNat od), (f.a.toNat, y.starting 5 f.d.toNat os)]) ∧
    (let mask := (jreg k f.a.toNat).toNat
      let off := (jreg k f.b.toNat).toNat
      x.state = .opened → x.dir = 0 → mask < 2 ^ 16 → off + x.total * x.esz ≤ 2 ^ 21 → off < 2 ^ 21 → passOk s c x x.base = true →
      ∃ t, exec (.smc f) s = .next t ∧ (t.core c).chan f.d.toNat = { x.starting 7 0 x.base with mask := mask, off := off } ∧
        (t.core c).strm.pc = k.strm.pc + 4 ∧
        (namedOutside s c mask = [] → ChansSet s t c 4 [(f.d.toNat, { x.starting 7 0 x.base with mask := mask, off := off })]) ∧
        ∀ n l, s.launchOf c = some (n, l) → ∃ l', AMap.find? t.launches n = some l' ∧
          l'.gdrop = l.gdrop + BitVec.ofNat 32 (namedOutside s c mask).length) ∧
    (let ja := (jreg k f.a.toNat).toNat
      let jb := (jreg k f.b.toNat).toNat
      let cnt := jb % 2 ^ 12
      let ssz := jb / 2 ^ 12 % 2 ^ 7
      ja % 64 = 0 → ja < 2 ^ 21 → jb < 2 ^ 19 → ja + (cnt + 1) * (ssz + 1) * 64 ≤ 2 ^ 21 →
      (hd.v = true → hd.fill = 0 ∧ handleWaited s c f.d.toNat = false) →
      ∃ t, exec (.scb f) s = .next t ∧ StrmGoes s t c 4 fun k => k.setHandle f.d.toNat ⟨true, ja, ssz, cnt, 0, 0, 0, 0⟩) ∧
    (hd.v = true → n ≠ 0 → n.natAbs ≤ hd.cnt + 1 → passesOver k = true → slotAccesses s c f.d.toNat .str (decide (0 < n)) = [] →
      ∃ t, exec (.cbputs f) s = .next t ∧ StrmAsks s t c (if n < 0 then .get f.d.toNat n.natAbs else .put f.d.toNat n.natAbs)) ∧
    (hd.v = true → n ≠ 0 → n.natAbs ≤ hd.cnt + 1 →
      ∃ t, exec (.cbwaits f) s = .next t ∧ StrmAsks s t c (if n < 0 then .roomy f.d.toNat n.natAbs else .filled f.d.toNat n.natAbs)) ∧
    ((x.state ≠ .active → ∃ t, exec (.swait f) s = .next t ∧ StrmGoes s t c 4 id) ∧ (x.state = .active → exec (.swait f) s = .next s)) ∧
    ((passesOver k = true → ∃ t, exec (.send f) s = .next t ∧ CoreChanged s t c fun k => { k with strm := { k.strm with running := false, ended := true } }) ∧
      (passesOver k = false → exec (.send f) s = .next s)) ∧
    (∃ t, exec (.sloop f) s = .next t ∧ StrmGoes s t c 4 fun k =>
      { k with strm := { k.strm with j := if f.d = 0 then k.strm.j else AMap.put k.strm.j f.d.toNat (jreg k f.a.toNat + jreg k f.b.toNat) } }) ∧
    (jreg k f.a.toNat = jreg k f.b.toNat → ∃ t, exec (.sbne f) s = .next t ∧ StrmGoes s t c 4 id) ∧
    (jreg k f.a.toNat ≠ jreg k f.b.toNat → let d := (k.strm.pc : Int) + 4 * f.imm.toInt
      wordAt k.sprogPad k.sprog d = true → ∃ t, exec (.sbne f) s = .next t ∧
        CoreChanged s t c fun k => { k with strm := { k.strm with pc := d.toNat, next := s.now + 2 } })

/-- R192, R194, R195, R205: at the end of the cycle what the program asks of a handle is answered: an advance is made, or a wait ends, where
the handle has the count, and the program goes on; else it asks again in the next cycle. -/
def Parts.StreamAsksAreAnswered : Prop :=
  ∀ (s : State) (c h n : Nat),
    let hd := (s.core c).handle h
    let asks := fun (a : StrmAsk) => (s.core c).strm.ask = some a
    let goes := fun (v : Handle) => StrmGoes s (serveAsk s c fun _ => true) c 4 fun k =>
      { k.setHandle h v with strm := { k.strm with ask := none } }
    let keeps := CoreChanged s (serveAsk s c fun _ => true) c fun k => { k with strm := { k.strm with ask := none } }
    (asks (.put h n) → hd.fill + n ≤ hd.cnt + 1 →
      goes { hd with tail := (hd.tail + n) % (hd.cnt + 1), fill := hd.fill + n, arrv := (hd.arrv + n) % 2 ^ 32 }) ∧
    (asks (.get h n) → n ≤ hd.fill → goes { hd with head := (hd.head + n) % (hd.cnt + 1), fill := hd.fill - n }) ∧
    (asks (.filled h n) → n ≤ hd.fill → goes hd) ∧
    (asks (.roomy h n) → hd.fill + n ≤ hd.cnt + 1 → goes hd) ∧
    (asks (.put h n) ∨ asks (.roomy h n) → hd.cnt + 1 < hd.fill + n → 0 < n → keeps) ∧
    (asks (.get h n) ∨ asks (.filled h n) → hd.fill < n → keeps)

/-- R197, R201, R202, R206: a stream command that R197 refuses faults its core's group, its channels as they were: a channel already open,
one that is not, a pass outside its window, a handle that is not there. -/
def Parts.StreamCommandsFault : Prop :=
  ∀ (s : State) (c : Nat) (f : CF), StrmReady s c →
    let k := s.core c
    let x := k.chan f.d.toNat
    let kept := fun (t : State) => (t.core c).chans = k.chans ∧ (t.core c).handles = k.handles ∧ (t.core c).strm.pc = k.strm.pc
    (∀ imm, x.state = .opened ∨ x.state = .active → ∃ t, exec (.sopen f imm) s = .next t ∧ FaultTaken s t c (strmRecord s c 1) ∧ kept t) ∧
    (∀ i ∈ [Instr.sld f, .sst f, .sgth f, .ssct f, .scpy f, .smc f], x.state = .closed →
      ∃ t, exec i s = .next t ∧ FaultTaken s t c (strmRecord s c 1) ∧ kept t) ∧
    (x.state = .opened → x.dir = 0 → passOk s c x ((x.base : Int) + (jreg k f.a.toNat).toInt) = false →
      ∃ t, exec (.sld f) s = .next t ∧ FaultTaken s t c (strmRecord s c 17) ∧ kept t) ∧
    (∀ i ∈ [Instr.cbputs f, .cbwaits f], (k.handle f.d.toNat).v = false ∨ cbCount k f = 0 →
      ∃ t, exec i s = .next t ∧ FaultTaken s t c (strmRecord s c 18) ∧ kept t)

/-- The stream commands, the answers to what they ask of handles, and where they fault. Each part says its rules. -/
def Obligations.StreamProgramsAct : Prop :=
  Parts.StreamCommandsAct ∧ Parts.StreamAsksAreAnswered ∧ Parts.StreamCommandsFault

/-- R200, R202-R204, R207: an active channel reads or writes its next element, takes a token from its edge ports in turn, handles an index
token, and returns to OPEN when its pass ends. -/
def Obligations.StreamEventsHappen : Prop :=
  ∀ (s : State) (c ch : Nat), Happens s [c, ch] →
    let k := s.core c
    let x := k.chan ch
    (∀ sp a, x.state = .active → x.pass = 5 → k.stopped = false → k.gated = false → x.issued < x.total →
      chanPlace s c x (x.addr x.issued) = .ok (sp, a) →
      ∃ t u ac, exec .streamElement s = .next t ∧ Issued u t ac ∧ (ac.kind, ac.space, ac.todo) = (.load, sp, eventsOf a x.esz) ∧
        ac.src = .chan ch x.issued ∧ (u.core c).chan ch = { x with issued := x.issued + 1, count := x.count + 1 } ∧ u.mem = s.mem) ∧
    (∀ sp a n key id tok, x.state = .active → x.pass = 2 → k.stopped = false → k.gated = false → x.last = false → x.issued < x.total →
      nextIn k ch x.rr = some (n, key, id, tok) → tok.e = false → chanPlace s c x (x.addr x.issued) = .ok (sp, a) →
      ∃ t u ac, exec .channelAccept s = .next t ∧ Issued u t ac ∧ (ac.kind, ac.space, ac.todo, ac.data) = (.store, sp, eventsOf a x.esz, tokBytes tok x.esz) ∧
        ((u.core c).chan ch).issued = x.issued + 1 ∧ ((u.core c).chan ch).last = (tok.l || decide (x.issued + 1 = x.total)) ∧
        (∀ e ∈ AMap.get (u.core c).bufs key [], e.id = id → e.edge = false) ∧ u.mem = s.mem) ∧
    (∀ n key id tok dn dkey did dt ps sp, x.state = .active → x.pass = 4 → k.stopped = false → k.gated = false → x.last = false → x.partner ≠ ch →
      nextIn k x.partner (k.chan x.partner).rr = some (n, key, id, tok) → nextIn k ch x.rr = some (dn, dkey, did, dt) →
      tok.e = false → dt.e = false → (∀ l ∈ idxLanes tok, (tok.data.getD l 0).toNat < (x.dims.head?.map (·.2)).getD 0) →
      ¬ (tok.data.length = 16 ∧ 4 < x.esz) → idxPieces s c x tok (idxLanes tok) = .ok (ps, sp) →
      ∃ t u ac, exec .indexToken s = .next t ∧ Issued u t ac ∧ (ac.kind, ac.space, ac.todo) = (.store, sp, ps) ∧
        (tok.data.length ≠ 16 → ac.data = tokBytes dt x.esz) ∧ ((u.core c).chan ch).issued = x.issued + 1 ∧ ((u.core c).chan ch).last = tok.l ∧ u.mem = s.mem) ∧
    (passOver s c ch = true → x.pass = 1 ∨ x.pass = 2 ∨ x.pass = 7 → ∃ t, exec .passEnd s = .next t ∧ ((t.core c).chan ch).state = .opened ∧
      ((t.core c).chan ch).pass = 0 ∧ CoresOnly s t ∧ OtherCores s t c ∧ ∀ o, o ≠ ch → (t.core c).chan o = k.chan o) ∧
    (passOver s c ch = true → x.pass = 3 ∨ x.pass = 4 → x.partner ≠ ch → ∃ t, exec .passEnd s = .next t ∧ ((t.core c).chan ch).state = .opened ∧
      ((t.core c).chan x.partner).state = .closed ∧ CoresOnly s t ∧ OtherCores s t c)

/-! ## The sequencer (R298-R306, R344-R360, R373-R377) -/

namespace Sys2Proof.Machine

/-- The sequencer of core c may issue now, and no register of the list has a write pending (R344). -/
def SeqReady (s : State) (c : Nat) (regs : List (BitVec 5)) : Prop :=
  s.cur = .seq c ∧ (s.core c).issues s.now = true ∧ ∀ r ∈ regs, gPending (s.core c) s.now r.toNat = false

/-- The sequencer's fields after it went on to byte offset pc, its next instruction i cycles later. -/
def Seq.to (q : Seq) (pc next : Nat) : Seq := { q with pc := pc, next := next, wait := .none }

/-- v was written to g_d, to be read from cycle ready on; a write to g0 is discarded (R344). -/
def Seq.wrote (q : Seq) (d : BitVec 5) (v : DWord) (ready : Nat) : Seq :=
  if d = 0 then q else { q with g := AMap.put q.g d.toNat v, ready := AMap.put q.ready d.toNat ready }

/-- Only the sequencer of core c changed, to q, and no event was added. -/
def SeqIs (s t : State) (c : Nat) (q : Seq) : Prop := CoreChanged s t c (fun k => { k with seq := q }) ∧ t.agenda = s.agenda

/-- The result v of an instruction of n bytes was written to g_d with a latency, the next instruction follows after i cycles, and nothing
else changed (R345). -/
def SeqGives (s t : State) (c : Nat) (d : BitVec 5) (v : DWord) (lat n i : Nat) : Prop :=
  SeqIs s t c (((s.core c).seq.wrote d v (s.now + lat)).to ((s.core c).seq.pc + n) (s.now + i))

/-- The arithmetic of R350 on three registers: latency and value. -/
def seqTable : List ((CF → Instr) × Nat × (DWord → DWord → DWord)) :=
  [(.seqAdd, 1, fun a b => a + b), (.seqSub, 1, fun a b => a - b), (.seqMul, 3, fun a b => a * b), (.seqAnd, 1, fun a b => a &&& b),
   (.seqOr, 1, fun a b => a ||| b), (.seqXor, 1, fun a b => a ^^^ b),
   (.slt, 1, fun a b => if a.toInt < b.toInt then 1 else 0), (.sltn, 1, fun a b => if a < b then 1 else 0)]

/-- The arithmetic of R350 on a register and imm9. -/
def seqImmTable : List ((CF → Instr) × (CF → DWord → DWord)) :=
  [(.addi, fun f a => a + f.imm.signExtend 64), (.shli, fun f a => a <<< f.imm.toNat), (.shri, fun f a => a >>> f.imm.toNat),
   (.sari, fun f a => a.sshiftRight f.imm.toNat)]

/-- The branches of R351: whether they are taken. -/
def branchTable : List ((CF → Instr) × (DWord → DWord → Bool)) :=
  [(.beq, fun a b => a == b), (.bne, fun a b => a != b), (.blt, fun a b => decide (a.toInt < b.toInt)), (.bge, fun a b => decide (b.toInt ≤ a.toInt)),
   (.bltn, fun a b => decide (a < b)), (.bgen, fun a b => decide (b ≤ a))]

/-- The record of a sequencer's fault (R294). -/
def seqRecord (s : State) (c cause : Nat) : Rec := { cause := cause, origin := 2, core := c, offset := (s.core c).seq.pc }

/-- The access of 8 bytes that a memory instruction of the sequencer issues (R352). -/
def isSeqAccess (a : Access) (c src : Nat) (kind : AKind) (sp : Space) (x : Nat) (data : List Byte) : Prop :=
  (a.core, a.src, a.path, a.kind, a.space, a.todo, a.data) = (c, .seq src, .seq, kind, sp, [⟨x, 8, 0⟩], data)

end Sys2Proof.Machine

/-- R344, R345, R350: the sequencer's arithmetic; only g_d, unless it is g0, and SEQPC change. -/
def Obligations.SequencerArithmeticGivesItsResult : Prop :=
  ∀ (s : State) (c : Nat) (f : CF) (w : Word),
    let k := s.core c;
    (∀ r ∈ seqTable, SeqReady s c [f.a, f.b, f.d] → ∃ t, exec (r.1 f) s = .next t ∧
      SeqGives s t c f.d (r.2.2 (greg k f.a.toNat) (greg k f.b.toNat)) r.2.1 4 1) ∧
    (∀ r ∈ seqImmTable, SeqReady s c [f.a, f.d] → ∃ t, exec (r.1 f) s = .next t ∧ SeqGives s t c f.d (r.2 f (greg k f.a.toNat)) 1 4 1) ∧
    (SeqReady s c [f.d] → (∃ t, exec (.li f w) s = .next t ∧ SeqGives s t c f.d (w.signExtend 64) 1 8 2) ∧
      ∃ t, exec (.lih f w) s = .next t ∧ SeqGives s t c f.d (w ++ (greg k f.d.toNat).extractLsb' 0 32) 1 8 2)

/-- R119, R338, R351: a branch goes on, or to its target 2 cycles later; JMP, JAL and JR go to theirs, JAL and JR with the next
instruction's offset in g_d. A target at which no instruction begins faults ILLEGAL, and nothing is written. -/
def Obligations.BranchesGoToTheirTarget : Prop :=
  ∀ (s : State) (c : Nat) (f : CF) (w : Word),
    let k := s.core c
    let pc := k.seq.pc
    let begins := fun (d : Int) => wordAt k.progPad k.prog d
    let bad := fun t => FaultTaken s t c (seqRecord s c 1) ∧ (t.core c).seq = { k.seq with wait := .faulted, trapIdx := (t.core c).seq.trapIdx };
    (∀ r ∈ branchTable, SeqReady s c [f.a, f.b] →
      let d := (pc : Int) + 4 * f.imm.toInt;
      (r.2 (greg k f.a.toNat) (greg k f.b.toNat) = false → ∃ t, exec (r.1 f) s = .next t ∧ SeqIs s t c (k.seq.to (pc + 4) (s.now + 1))) ∧
      (r.2 (greg k f.a.toNat) (greg k f.b.toNat) = true → begins d = true → ∃ t, exec (r.1 f) s = .next t ∧ SeqIs s t c (k.seq.to d.toNat (s.now + 2))) ∧
      (r.2 (greg k f.a.toNat) (greg k f.b.toNat) = true → begins d = false → ∃ t, exec (r.1 f) s = .next t ∧ bad t)) ∧
    (let d := (pc : Int) + 4 * w.toInt;
      (begins d = true →
        (SeqReady s c [] → ∃ t, exec (.jmp f w) s = .next t ∧ SeqIs s t c (k.seq.to d.toNat (s.now + 2))) ∧
        (SeqReady s c [f.d] → ∃ t, exec (.jal f w) s = .next t ∧
          SeqIs s t c ((k.seq.wrote f.d (dword (pc + 8)) (s.now + 1)).to d.toNat (s.now + 2)))) ∧
      (begins d = false →
        (SeqReady s c [] → ∃ t, exec (.jmp f w) s = .next t ∧ bad t) ∧ (SeqReady s c [f.d] → ∃ t, exec (.jal f w) s = .next t ∧ bad t))) ∧
    (SeqReady s c [f.a, f.d] →
      let d := ((greg k f.a.toNat).toNat : Int);
      (begins d = true → ∃ t, exec (.jr f) s = .next t ∧ SeqIs s t c ((k.seq.wrote f.d (dword (pc + 4)) (s.now + 1)).to d.toNat (s.now + 3))) ∧
      (begins d = false → ∃ t, exec (.jr f) s = .next t ∧ bad t))

/-- R344, R345, R352: the sequencer's loads, stores and atomics issue one access of 8 bytes at their address; the register of a load or
atomic is pending until its answer. An address that 8 does not divide faults ALIGN, and nothing is issued. -/
def Obligations.SequencerMemoryInstructionsIssue : Prop :=
  ∀ (s : State) (c : Nat) (f : CF),
    let k := s.core c
    let near := greg k f.a.toNat + 8 * f.imm.signExtend 64
    let a := greg k f.a.toNat
    let pending := { k.seq with busy := if f.d = 0 then k.seq.busy else f.d.toNat :: k.seq.busy, loads := k.seq.loads + 1 }
    let issues := fun (i : Instr) (ea : DWord) (src : Nat) (kind : AKind) (acq rel : Bool) (data : List Byte) (q : Seq) =>
      ∀ sp x, seqAddr s c ea = .ok (sp, x) → ∃ t u ac, exec i s = .next t ∧
        isSeqAccess ac c src kind sp x data ∧ ac.acq = acq ∧ ac.rel = rel ∧ CoreChanged s u c (fun k => { k with seq := q }) ∧ u.agenda = s.agenda ∧
        ∃ v, Issued u v ac ∧ t.mem = v.mem ∧ t.accs = v.accs ∧ (t.core c).seq.g = (v.core c).seq.g ∧ (t.core c).seq.pc = (v.core c).seq.pc + 4 ∧
          (t.core c).seq.busy = (v.core c).seq.busy ∧ (t.core c).seq.loads = (v.core c).seq.loads
    (SeqReady s c [f.a, f.d] → k.seq.loads < 16 →
      issues (.ldg f) near f.d.toNat .load false false [] pending ∧ issues (.ldga f) a (96 + f.d.toNat) .load true false [] pending) ∧
    (SeqReady s c [f.a, f.b] → issues (.stg f) near 64 .store false false (toBytes 8 (greg k f.b.toNat).toNat) k.seq ∧
      (outstanding s c [.seq] f.imm.toNat = [] → issues (.stgr f) a 64 .store false true (toBytes 8 (greg k f.b.toNat).toNat) k.seq) ∧
      (outstanding s c [.seq] f.imm.toNat ≠ [] → exec (.stgr f) s = .next s)) ∧
    (SeqReady s c [f.a, f.b, f.d] → k.seq.loads < 16 →
      issues (.aaddg f) a f.d.toNat .add64 false false (toBytes 8 (greg k f.b.toNat).toNat) pending ∧
      issues (.acasg f) a f.d.toNat (.cas64 (greg k f.d.toNat)) false false (toBytes 8 (greg k f.b.toNat).toNat) pending) ∧
    (SeqReady s c [f.a, f.b] → near.toNat % 8 ≠ 0 → ∃ t, exec (.stg f) s = .next t ∧ FaultTaken s t c (seqRecord s c 16) ∧ t.accs = s.accs) ∧
    (SeqReady s c [f.a, f.d] → near.toNat % 8 ≠ 0 → k.seq.loads < 16 → ∃ t, exec (.ldg f) s = .next t ∧ FaultTaken s t c (seqRecord s c 16) ∧ t.accs = s.accs)

/-- R101, R104, R105, R346, R347, R353-R356: FORK loads its context, copies the registers to the stream program and sends the start token
for 2 cycles later, and a second one faults; JOIN goes on when fabric, streams and matrix queues have ended; CTX and STAGE begin a
switch; PRED sets one bit of PCON. -/
def Parts.StageInstructionsAct : Prop :=
  ∀ (s : State) (c : Nat) (f : CF),
    let k := s.core c
    let n := f.imm.toNat % 4;
    (SeqReady s c ((List.range 32).map (BitVec.ofNat 5)) → k.forked = false → ∃ t fl, exec (.fork f) s = .next t ∧
      (t.core c).forked = true ∧ (t.core c).loaded = n ∧ (t.core c).scnt = 0 ∧ (t.core c).bt = false ∧ (t.core c).seq.pc = k.seq.pc + 4 ∧
      ((t.core c).strm.running, (t.core c).strm.pc) = (!k.sprog.isEmpty, 0) ∧
      (∀ r < 32, jreg (t.core c) r = (greg k r).extractLsb' 0 32) ∧
      (t.core c).flights = k.flights ++ [fl] ∧ (∀ o ∈ fl.outs, o.tok = some startToken) ∧ Posts s t (s.now + 2) .resultDelivery [c, fl.id] ∧
      OtherCores s t c ∧ t.mem = s.mem) ∧
    (SeqReady s c ((List.range 32).map (BitVec.ofNat 5)) → k.forked = true → ∃ t, exec (.fork f) s = .next t ∧ FaultTaken s t c (seqRecord s c 1)) ∧
    (SeqReady s c [] → k.forked = true →
      (joinHolds s c = true → ∃ t, exec (.join f) s = .next t ∧ SeqIs s t c (k.seq.to (k.seq.pc + 4) (s.now + 1))) ∧
      (joinHolds s c = false → exec (.join f) s = .next s)) ∧
    (SeqReady s c [] → (∀ m o, k.seq.wait ≠ .switch m o) →
      (k.loaded = n → ∃ t, exec (.ctx f) s = .next t ∧ SeqIs s t c (k.seq.to (k.seq.pc + 4) (s.now + 1))) ∧
      (k.loaded ≠ n → k.forked = false → ∃ t, exec (.ctx f) s = .next t ∧
        CoreChanged s t c (fun k => { k with loaded := n, seq := k.seq.to (k.seq.pc + 4) (s.now + 1) })) ∧
      (k.loaded ≠ n → k.forked = true → ∃ t, exec (.ctx f) s = .next t ∧ (t.core c).seq.wait = .switch n s.now ∧
        (s.now < 2 ^ 62 → (t.core c).fires s.now = false) ∧ Posts s t (s.now + 1) .stageSwitch [c])) ∧
    (SeqReady s c [f.a] → k.forked = true →
      let kind := f.imm.toNat / 4 % 4
      let g := greg k f.a.toNat;
      (k.seq.wait = .none → stageOk kind g = true → ∃ t, exec (.stage f) s = .next t ∧ SeqIs s t c { k.seq with wait := .armed s.now }) ∧
      (∀ o, k.seq.wait = .armed o → stageHolds s c kind g = true → ∃ t, exec (.stage f) s = .next t ∧ (t.core c).seq.wait = .switch n s.now ∧
        Posts s t (s.now + 1) .stageSwitch [c]) ∧
      (∀ o, k.seq.wait = .armed o → stageHolds s c kind g = false → exec (.stage f) s = .next s)) ∧
    (SeqReady s c [] → ∃ t, exec (.pred f) s = .next t ∧ (t.core c).seq = k.seq.to (k.seq.pc + 4) (s.now + 1) ∧ CoresOnly s t ∧ OtherCores s t c ∧
      ∀ i < 16, bitAt (timed s.now 0 (t.core c).pcon) i =
        (if i = f.imm.toNat % 16 then f.imm.getLsbD 4 else bitAt (timed s.now 0 k.pcon) i))

/-- R358: TIME sets g_d to the 64-bit package cycle count of its issue cycle; it does not touch the TIMEHI latch. -/
def Obligations.TimeReadsTheCount : Prop :=
  ∀ (s : State) (c : Nat) (f : CF), SeqReady s c [f.d] →
    ∃ t, exec (.time f) s = .next t ∧ SeqGives s t c f.d s.count 2 4 1 ∧ (t.core c).latch = (s.core c).latch

/-- R357, R189, R359: WAITEV ends at its time, at its predicate line, or with a word that is not 0, which it reads every 256 cycles; XFENCE
goes on when every access of its paths has performed, at .sys with the buffered stores it drains (R265), and no cut is to be waited for. -/
def Parts.WaitsEnd : Prop :=
  ∀ (s : State) (c : Nat) (f : CF),
    let k := s.core c
    let g := greg k f.a.toNat
    let kind := f.imm.toNat % 4;
    (SeqReady s c [f.a, f.d] →
      (kind = 2 → g.toNat ≤ s.count.toNat → ∃ t, exec (.waitev f) s = .next t ∧ SeqGives s t c f.d s.count 1 4 1) ∧
      (kind = 2 → s.count.toNat < g.toNat → k.seq.wait = .none → ∃ t, exec (.waitev f) s = .next t ∧
        (t.core c).seq = { k.seq with wait := .until g.toNat f.d.toNat } ∧ Posts s t (s.now + (g.toNat - s.count.toNat)) .waitevTimeReached [c]) ∧
      (kind < 2 → g.toNat < 16 → lineAt s c g.toNat s.now = (kind == 0) → ∃ t, exec (.waitev f) s = .next t ∧ SeqGives s t c f.d s.count 1 4 1) ∧
      (kind < 2 → g.toNat < 16 → lineAt s c g.toNat s.now ≠ (kind == 0) → exec (.waitev f) s = .next s) ∧
      (kind = 3 → ∀ x v, k.seq.wait = .poll x (some v) → v ≠ 0 → ∃ t, exec (.waitev f) s = .next t ∧ SeqGives s t c f.d v 1 4 1) ∧
      (kind = 3 → k.seq.wait = .none → ∀ sp x, seqAddr s c g = .ok (sp, x) → ∃ u, SeqIs s u c { k.seq with wait := .poll g none } ∧
        exec (.waitev f) s = .next (((pollRead u c sp x).cancelEv .waitevPoll fun l => l == [c]).after 256 .waitevPoll [c]))) ∧
    (Happens s [c] → k.stopped = false → k.gated = false →
      (∀ n d, k.seq.wait = .until n d → n ≤ s.count.toNat → ∃ t, exec .waitevTimeReached s = .next t ∧
        (t.core c).seq.pc = k.seq.pc + 4 ∧ (t.core c).seq.wait = .none ∧ (d ≠ 0 → AMap.get (t.core c).seq.g d 0 = s.count)) ∧
      (∀ x v sp y, k.seq.wait = .poll x v → seqAddr s c x = .ok (sp, y) → ∃ t, exec .waitevPoll s = .next t ∧
        (s.now + 256, .waitevPoll, .nums [c]) ∈ t.agenda ∧ ∃ u ac, Issued s u ac ∧ isSeqAccess ac c 32 .load sp y [] ∧ t.accs = u.accs)) ∧
    (SeqReady s c [] →
      let before := pathsOf (f.imm.toNat % 128)
      let scope := f.b.toNat / 4
      let u := if scope = 5 then drainAll s c (fun e => e.stores.any fun x => srcOnPaths before x.1) else s
      let ids := outstanding u c before scope ++ bufferedStores u c before
      let done := ∃ t, exec (.seqXfence f) s = .next t ∧
        SeqIs (if 4 ≤ scope then acquireFar s c else s) t c (k.seq.to (k.seq.pc + 4) (s.now + 1))
      ((∀ l m, k.seq.wait ≠ .fence l m) → ids = [] → cutOf s c (!before.isEmpty) scope = none → done) ∧
      ((∀ l m, k.seq.wait ≠ .fence l m) → ids ≠ [] →
        ∃ t, exec (.seqXfence f) s = .next t ∧ SeqIs u t c { k.seq with wait := .fence ids none }) ∧
      (∀ l, k.seq.wait = .fence l none → allPerformed s c l = true → cutOf s c (!before.isEmpty) scope = none → done) ∧
      (∀ l, k.seq.wait = .fence l none → allPerformed s c l = false → exec (.seqXfence f) s = .next s))

/-- FORK, JOIN and the sequencer's waits, and how the waits end. Each part says its rules. -/
def Obligations.SequencerWaitsAndStagesAct : Prop :=
  Parts.StageInstructionsAct ∧ Parts.WaitsEnd

/-- R298-R301, R307: SYSRD gives each system register 2 cycles later, TIMELO latching TIMEHI; SYSWR sets MODE for what issues from 2 cycles
later on, WDOG and SNAPCFG for the group from 8 cycles later on, and faults on a value that R301 forbids. -/
def Obligations.SystemRegistersAreReadAndWritten : Prop :=
  ∀ (s : State) (c g : Nat) (l : Launch) (f : CF), s.launchOf c = some (g, l) →
    let k := s.core c
    let n := f.imm.toNat
    let x := s.ctx l.ctx
    let value : DWord :=
      if n = 0 then dword l.ctx else if n = 1 then x.statebase else if n = 2 then x.fltbase else if n = 3 then (k.mode.head?.map (·.2)).getD 0
      else if n = 4 then timed s.now 0 l.wdog else if n = 5 then timed s.now 0 l.snapcfg else if n = 6 then dword (k.grel * 2 ^ 10 + c)
      else if n = 7 then dword (l.origin * 2 ^ 22 + l.rows * 2 ^ 8 + l.cols) else if n = 8 then dword (dieOf c) else if n = 9 then dword s.topo.pkg.toNat
      else if n = 10 then s.count &&& 0xFFFFFFFF#64 else dword k.latch.toNat
    (SeqReady s c [f.d] → ∃ t, exec (.sysrd f) s = .next t ∧ CoresOnly s t ∧ OtherCores s t c ∧
      (t.core c).seq = (k.seq.wrote f.d value (s.now + 2)).to (k.seq.pc + 4) (s.now + 2) ∧
      (t.core c).latch = if n = 10 then s.count.extractLsb' 32 32 else k.latch) ∧
    (SeqReady s c [f.a] →
      let v := greg k f.a.toNat;
      (n = 3 → v.toNat < 32 → v.getLsbD 3 = false → v.toNat % 8 ≤ 5 → ∃ t, exec (.syswr f) s = .next t ∧ CoresOnly s t ∧ OtherCores s t c ∧
        (t.core c).seq = k.seq.to (k.seq.pc + 4) (s.now + 1) ∧ (t.core c).mode.head? = some (s.now + 2, v)) ∧
      (n = 4 → v.toNat < 2 ^ 32 → ∃ t m, exec (.syswr f) s = .next t ∧ AMap.find? t.launches g = some m ∧ m.wdog.head? = some (s.now + 8, v) ∧
        (t.core c).seq = k.seq.to (k.seq.pc + 4) (s.now + 1) ∧ t.mem = s.mem) ∧
      (n = 5 → v.toNat < 2 ^ 32 → (v.extractLsb' 2 6) = 0 → v.getLsbD 0 = (timed s.now 0 l.snapcfg).getLsbD 0 → ∃ t m, exec (.syswr f) s = .next t ∧
        AMap.find? t.launches g = some m ∧ m.snapcfg.head? = some (s.now + 8, v) ∧ (s.now + 8, .cutPeriod, .nums [g]) ∈ t.agenda) ∧
      (n = 3 → 32 ≤ v.toNat → ∃ t, exec (.syswr f) s = .next t ∧ FaultTaken s t c (seqRecord s c 1) ∧ (t.core c).mode = k.mode))

/-- R303: BRK writes a record with CAUSE 21 and CODE imm9 and freezes its launch to FROZEN, SEQPC at the next instruction. -/
def Obligations.BrkFreezes : Prop :=
  ∀ (s : State) (c n : Nat) (l : Launch) (f : CF), SeqReady s c [] → s.launchOf c = some (n, l) → l.live? = true →
    let r : Rec := { cause := 21, origin := 2, core := c, offset := (s.core c).seq.pc, frz := true, queue := l.queue, code := f.imm.toNat }
    ∃ t m, exec (.brk f) s = .next t ∧ t.mem = (s.record l.ctx r).1.mem ∧ (t.core c).seq.pc = (s.core c).seq.pc + 4 ∧
      AMap.find? t.launches n = some m ∧ m.state = .freezing ∧ m.after = .frozen ∧ (c ∈ l.cores → (s.now, .stopWaveArrival, .nums [n, c]) ∈ t.agenda)

/-- R302, R304, R306: TRAP writes its record, asks for its answer every 256 cycles, and takes it; MARKER gives 0 with snapshots off, else it
asks for a cut and waits for it; FLTRD reads the fault ring, its head written once the release it makes is done. -/
def Parts.TrapMarkerAndFltrdAct : Prop :=
  ∀ (s : State) (c n : Nat) (l : Launch) (f : CF), s.launchOf c = some (n, l) →
    let k := s.core c;
    (SeqReady s c [f.a, f.d] →
      let r : Rec := { cause := 20, origin := 2, core := c, offset := k.seq.pc, queue := l.queue, code := f.imm.toNat, detail := (greg k f.a.toNat).toNat };
      (k.seq.wait = .none → k.seq.trapIdx = none → ringRoom s l.ctx = true → ∀ i, (s.record l.ctx r).2 = some i → ∃ t, exec (.trap f) s = .next t ∧
        t.mem = (s.record l.ctx r).1.mem ∧ (t.core c).seq = { k.seq with wait := .trap i none, trapIdx := some i } ∧
        (s.now + 256, .trapPoll, .nums [c]) ∈ t.agenda) ∧
      (k.seq.wait = .none → k.seq.trapIdx = none → ringRoom s l.ctx = false → exec (.trap f) s = .next s) ∧
      (∀ i v, k.seq.wait = .trap i (some v) → v.getLsbD 63 = true → ∃ t, exec (.trap f) s = .next t ∧
        SeqIs s t c (({ k.seq with trapIdx := none }.wrote f.d (v &&& 0x7FFFFFFFFFFFFFFF#64) (s.now + 2)).to (k.seq.pc + 4) (s.now + 2)))) ∧
    (Happens s [c] → k.stopped = false → k.gated = false → ∀ i v, k.seq.wait = .trap i v → ∃ t, exec .trapPoll s = .next t ∧
      (s.now + 256, .trapPoll, .nums [c]) ∈ t.agenda ∧
      ∃ u ac, Issued s u ac ∧ isSeqAccess ac c 32 .load .virt (answerAddr (s.ctx l.ctx) i) [] ∧ t.accs = u.accs) ∧
    (SeqReady s c [f.d] →
      (l.snapOn s.now = false → ∃ t, exec (.marker f) s = .next t ∧ SeqGives s t c f.d 0 1 4 1) ∧
      (l.snapOn s.now = true → ∃ t, exec (.marker f) s = .next t ∧ CoreChanged s t c (fun k => { k with seq := { k.seq with wait := .cut l.interval f.d.toNat } }) ∧
        Posts s t s.now .cut [n, c])) ∧
    (SeqReady s c [f.a, f.d] →
      let base := (s.ctx l.ctx).ring.1
      let g := (greg k f.a.toNat).toNat;
      ∀ r, reach s c .virt base 16 false = .ok r → seqBehind s c .virt base 16 r = false →
      let u := touchUnit (acquireFar s c) c .seq r false
      let b := takeBytes u c r
      let head := ofBytes ((b.drop 8).take 8)
      let used := (ofBytes (b.take 8) + 2 ^ 32 - head) % 2 ^ 32
      let answers := fun (t : State) (v : Nat) => (f.d ≠ 0 → AMap.get (t.core c).seq.g f.d.toNat 0 = dword v) ∧ (t.core c).seq.pc = k.seq.pc + 4;
      (f.imm = 8 → ∃ t, exec (.fltrd f) s = .next t ∧ t.mem = s.mem ∧ answers t used) ∧
      (f.imm = 9 → seqRelease s c (pathsOf 127) 5 = none → let new := (head + min g used) % 2 ^ 32
        ∀ w, reach u c .virt (base + 8) 8 true = .ok w → seqBehind u c .virt (base + 8) 8 w = false →
          ∃ t, exec (.fltrd f) s = .next t ∧ t.mem = (giveBytes u c .seq w (toBytes 8 new)).mem ∧ answers t new) ∧
      (f.imm.toNat < 8 → used ≤ g → ∃ t, exec (.fltrd f) s = .next t ∧ t.mem = s.mem ∧ answers t 0) ∧
      (f.imm.toNat < 8 → g < used → let at_ := base + 64 + 64 * ((head + g) % 2 ^ (s.ctx l.ctx).ring.2) + 8 * f.imm.toNat
        ∀ w, reach u c .virt at_ 8 false = .ok w → seqBehind u c .virt at_ 8 w = false →
          ∃ t, exec (.fltrd f) s = .next t ∧ t.mem = s.mem ∧ answers t (ofBytes ((takeBytes (touchUnit u c .seq w false) c w).take 8))))

/-- R376: GRPID gives a core's place in its group, the group's number, or its slices and lent ways, every other bit 0. -/
def Parts.GrpidReadsTheGroup : Prop :=
  ∀ (s : State) (c n : Nat) (l : Launch) (f : CF), SeqReady s c [f.d] → s.launchOf c = some (n, l) →
    let k := s.core c;
    (f.imm = 0 → ∃ t, exec (.grpid f) s = .next t ∧ SeqGives s t c f.d (dword (k.grel + k.grel / l.cols * 2 ^ 8 + k.grel % l.cols * 2 ^ 12)) 2 4 2) ∧
    (f.imm = 1 → ∃ t, exec (.grpid f) s = .next t ∧ SeqGives s t c f.d (dword l.gnum) 2 4 2) ∧
    (f.imm = 2 → ∃ t, exec (.grpid f) s = .next t ∧ SeqGives s t c f.d (dword (l.slices.length + l.ways * 2 ^ 8)) 2 4 2)

/-- R377: GANG faults ILLEGAL when it issues in a launch with GANG = 0; otherwise it gives the gang's number and round, or the start cycle
of the current round. -/
def Parts.GangReadsTheGang : Prop :=
  ∀ (s : State) (c n : Nat) (l : Launch) (f : CF), SeqReady s c [f.d] → s.launchOf c = some (n, l) →
    (l.gang = none → ∃ t, exec (.gang f) s = .next t ∧ FaultTaken s t c (seqRecord s c 1) ∧ (t.core c).seq.pc = (s.core c).seq.pc) ∧
    (∀ g, l.gang = some g →
      (f.imm = 0 → ∃ t, exec (.gang f) s = .next t ∧ SeqGives s t c f.d (dword (g.gang * 2 ^ 32 + g.round)) 2 4 2) ∧
      (f.imm = 1 → ∃ t, exec (.gang f) s = .next t ∧ SeqGives s t c f.d (dword g.start) 2 4 2))

/-- GRPID and GANG. Each part says its rules. -/
def Obligations.GrpidAndGangReadTheirGroup : Prop :=
  Parts.GrpidReadsTheGroup ∧ Parts.GangReadsTheGang

/-- R374, R375: SEAM answers the open seams of the loaded context and shuts or opens those it names for tokens that leave from 2 cycles
later on; GUARD answers GDROP and sets the guard's mode from 4 cycles later on, a sink word that names no such node faulting ILLEGAL. -/
def Parts.SeamAndGuardAct : Prop :=
  ∀ (s : State) (c n : Nat) (l : Launch) (f : CF), SeqReady s c [f.a, f.d] → s.launchOf c = some (n, l) →
    let k := s.core c
    let w := greg k f.a.toNat;
    (∃ t, exec (.seam f) s = .next t ∧ CoresOnly s t ∧ OtherCores s t c ∧
      (t.core c).seq = (k.seq.wrote f.d (dword (openSeams k s.now)) (s.now + 2)).to (k.seq.pc + 4) (s.now + 2) ∧
      (f.imm = 0 → (t.core c).seamShut = k.seamShut) ∧
      (f.imm ≠ 0 → ∀ e < 64, bitAt w.toNat e = true → AMap.find? k.bind (64 * k.loaded + e) = some 16 →
        seamClosed (t.core c) (s.now + 2) k.loaded e = (f.imm == 1))) ∧
    (f.imm.toNat < 2 ∨ (f.imm = 2 ∧ sinkOk s l w = true) → ∃ t m, exec (.guard f) s = .next t ∧ AMap.find? t.launches n = some m ∧
      (f.imm ≠ 0 → m.gmode.head? = some (s.now + 4, f.imm.toNat, w)) ∧ (f.imm = 0 → m = l) ∧
      (f.d ≠ 0 → AMap.get (t.core c).seq.g f.d.toNat 0 = dword l.gdrop.toNat) ∧ (t.core c).seq.pc = k.seq.pc + 4 ∧ t.mem = s.mem) ∧
    (f.imm = 2 → sinkOk s l w = false → ∃ t, exec (.guard f) s = .next t ∧ FaultTaken s t c (seqRecord s c 1))

/-- TRAP, the marker instructions, FLTRD, SEAM and GUARD. Each part says its rules. -/
def Obligations.SequencerGroupInstructionsAct : Prop :=
  Parts.TrapMarkerAndFltrdAct ∧ Parts.SeamAndGuardAct

/-! ## The matrix engine (R20, R21, R57-R73, R124, R211-R235) -/

namespace Sys2Proof.Machine

/-- The fault of a k-step of token t in queue q (R218, R294). -/
def kRecord (c q cause : Nat) (t : XTok) : Rec :=
  { cause := cause, origin := 4 + q, core := c, tag := t.tag, detail := t.tag + t.next * 2 ^ 16 + t.fb * 2 ^ 24 }

/-- A frame after a flight's contributions were inserted into it (R55). -/
def Frame.inserted (f : Frame) (n : Nat) (l : List (Nat × Nat × Elem)) : Frame :=
  (l.filter fun p => p.1 == n).foldl (fun f p => f.insertAt p.2.1 p.2.2) f

/-- The operations of the frame queue by opcode, each with what it refuses its words for (R213). -/
def frameTable : List ((NF → Instr) × Nat × (Core → Nat → Firing → Bool)) :=
  [(.mxz, 0x92, fun _ w _ => badFrameWord w), (.mxpeek, 0x93, fun k w _ => badElemWord k w), (.mxrd, 0x94, fun k w _ => badElemWord k w),
   (.mxdr, 0x95, fun _ w _ => decide (128 ≤ w)), (.mxspl, 0x96, fun _ w _ => badFrameWord w), (.mxfil, 0x97, fun _ w _ => badFrameWord w),
   (.mxadd, 0x98, fun _ w q => badFrameWord w ||
     (q.lit.toNat % 4 == 3 && (decide (128 ≤ (q.bl 0).toNat) || decide (127 < (q.bl 0).toNat + fld w 14 8)))),
   (.mxcls, 0x99, fun _ w _ => badFrameWord w), (.mxst, 0x9A, fun _ _ _ => false), (.mxwt, 0x9B, fun _ w _ => badFrameWord w),
   (.mxpol, 0x9C, fun _ _ _ => false)]

/-- The entry e at the head of core c's frame queue is offered its start (R211). -/
def FqReady (s : State) (c : Nat) (e : FqEnt) : Prop :=
  Happens s [c] ∧ (s.core c).mx.fq.head? = some e ∧ (s.core c).mx.fqBusy ≤ s.now ∧ (s.core c).stopped = false ∧ (s.core c).mx.halted.contains 2 = false

/-- The head entry e left the queue, which it holds for some cycles, and its result v is on its way to its outputs (R234). -/
def FqEnds (s t : State) (c : Nat) (e : FqEnt) (lat hold : Nat) (v : Val) : Prop :=
  (t.core c).mx.fq = (s.core c).mx.fq.drop 1 ∧ (t.core c).mx.fqBusy = s.now + hold ∧
  ∃ fl : Flight, (t.core c).flights = (s.core c).flights ++ [fl] ∧ fl.outs = e.outs.map (shapeOut (e.good (s.core c)) v) ∧
    (s.now + lat, .resultDelivery, .nums [c, fl.id]) ∈ t.agenda

/-- The frames of a range of n from fb on are as given, and every other frame is unchanged. -/
def FramesSet (s t : State) (c fb n : Nat) (h : Nat → Frame) : Prop :=
  (∀ i < n, (t.core c).frame (fb + i) = h i) ∧ ∀ m, (∀ i < n, m ≠ fb + i) → (t.core c).frame m = (s.core c).frame m

/-- The record of an entry's fault (R211, R294). -/
def fqRecord (c : Nat) (e : FqEnt) (cause : Nat) : Rec :=
  { cause := cause, origin := 6, core := c, pe := e.pe, slot := e.slot, cctx := e.cctx, tag := (e.tag.ctag ++ e.tag.itag).toNat }

end Sys2Proof.Machine

/-- R124, R211, R214, R215: MXI and MXIS take an entry of the queue x names with the token of A and B, and send A; a token that R215 rejects
faults ILLEGAL; a full queue, its entries that the bin unit takes in this cycle counted, leaves the node not ready. -/
def Parts.MatrixTokensEnterTheirQueue : Prop :=
  ∀ r ∈ [(Instr.mxi, false), (.mxis, true)], ∀ (f : NF) (s : State) (q : Firing), NodeReady s (r.1 f) q → q.e = false → q.x = false →
    let k := s.core q.core
    let qn := if q.f.x = 13 then 1 else 0
    let tok : XTok := ⟨s.nextId, q.bl 0 ++ q.a.lane 0, q.lit, r.2, 0, none, s.now + 1⟩
    let used := (k.mx.xq qn).length + binEntries k s.now qn
    (used < 8 → badToken k q.core tok = false → ∃ t u, exec (r.1 f) s = .next t ∧
      CoreChanged s u q.core (fun k => { k with mx := k.mx.setXq qn (enterXq tok (k.mx.xq qn)) }) ∧ u.agenda = s.agenda ∧
      Fired u t q 1 (resultTokens q q.a.val) (sfWritten q q.a.val)) ∧
    (used < 8 → badToken k q.core tok = true → ∃ t, exec (r.1 f) s = .next t ∧ FaultTaken s t q.core (nodeRecord q 1)) ∧
    (8 ≤ used → exec (r.1 f) s = .next s)

/-- R62, R216-R222: an engine with no selected k-step selects the one queue's offer, or by the shares between two, and starts its fetch; the
fetch ends in the k-step's contributions or in its fault; the issue puts them in flight for the latency of R233 and spends the balance;
the completion inserts them and settles the frames that R62 says. -/
def Parts.KstepsRun : Prop :=
  ∀ (s : State) (c : Nat),
    let k := s.core c
    (Happens s [c] → k.mx.sel = none → k.stopped = false → k.launch.isSome = true → rendezvous s c = none →
      ∀ q a, (offered s c q = some a ∧ ((q = 0 ∧ (offered s c 1 = none ∨ k.mx.c1 ≤ k.mx.c0)) ∨ (q = 1 ∧ (offered s c 0 = none ∨ k.mx.c0 < k.mx.c1)))) →
        ∃ t x, exec .kstepSelect s = .next t ∧ (t.core c).mx.sel = some x ∧ (x.q, x.tokId, x.s, x.fetched) = (q, a.id, a.next, false) ∧
          (x.fetchEnd, .kstepFetch, .nums [c, a.id, a.next]) ∈ t.agenda ∧
          ((t.core c).mx.c0, (t.core c).mx.c1) = ((k.mx.spend q).c0, (k.mx.spend q).c1) ∧ t.mem = s.mem ∧ OtherCores s t c) ∧
    (∀ x tok, Happens s [c, x.tokId, x.s] → k.mx.sel = some x → k.xtok x.tokId = some tok → x.fetched = false → x.fetchEnd ≤ s.now →
      sameLaunch s c x.owner = true →
      (∀ r, tileCheck s c tok x = .ok r → ∃ t, exec .kstepFetch s = .next t ∧ t.mem = s.mem ∧ t.agenda = s.agenda ∧
        (t.core c).mx.sel = some { x with fetched := true, contrib := r.contrib, k := r.k, texp := r.texp, cls := r.cls, rows := r.rows }) ∧
      (∀ e, tileCheck s c tok x = .error e → ∃ t, exec .kstepFetch s = .next t ∧ FaultTaken s t c (kRecord c x.q e tok) ∧
        (t.core c).mx.sel = none ∧ x.q ∈ (t.core c).mx.halted ∧ ∀ n, (t.core c).frame n = k.frame n)) ∧
    (∀ x tok, Happens s [c] → allIssue s c = true → k.mx.sel = some x → k.xtok x.tokId = some tok → x.group = [] → sameLaunch s c x.owner = true →
      let n := k.tokSpan tok
      let i := (kTime (tok.rows * tok.cols)).1
      let lst := bitAt tok.tok.toNat 16 && x.s == tok.ks
      tok.fb + n ≤ 128 → (∀ f ∈ k.framesOf tok.fb n, f.cls = x.cls ∧ f.refuses tok.acc x.texp x.k = none) →
      ∃ t fl, exec .kstepIssue s = .next t ∧ (t.core c).mx.flights = k.mx.flights ++ [fl] ∧ fl.contrib = x.contrib ∧
        fl.frames = (List.range n).map (tok.fb + ·) ∧ (s.now + (kTime (tok.rows * tok.cols)).2, .kstepComplete, .nums [c, fl.id]) ∈ t.agenda ∧
        FramesSet s t c tok.fb n (fun j => let f := k.frame (tok.fb + j)
          f.issue tok.acc x.texp x.k lst fun e => decide (x.rows ≤ j / (tok.cols / f.cls.bw) * f.cls.bh + e / f.cls.bw)) ∧
        (t.core c).mx.sel = none ∧ (t.core c).mx.balance = k.mx.balance - i ∧ (t.core c).mx.arrayFree = s.now + i ∧
        (t.die (dieOf c)).d = (s.die (dieOf c)).d - i ∧ t.mem = s.mem) ∧
    (∀ fl, Happens s [c, fl.id] → k.mx.flights.find? (·.id == fl.id) = some fl → fl.frames.Nodup → ∃ t, exec .kstepComplete s = .next t ∧
      (t.core c).mx.flights = k.mx.flights.filter (·.id != fl.id) ∧ t.mem = s.mem ∧
      ∀ n, (t.core c).frame n =
        let g := (k.frame n).inserted n fl.contrib
        if n ∈ fl.frames then (if g.inflight ≤ 1 ∧ g.lst then { g with inflight := g.inflight - 1 }.settle else { g with inflight := g.inflight - 1 }) else g)

/-- R20, R21, R224: a die grants the requests at its queue's head while D + 256 is within CAP, and no further; a grant adds 256 to its
engine's balance 4 cycles later; 64 cycles without an issue give the balance back; CAP is the least share that the sensors and the
operator leave. -/
def Parts.PowerIsGranted : Prop :=
  (∀ (s : State) (d : Nat), Happens s [d] →
    let x := s.die d
    ∃ t n, exec .governorGrant s = .next t ∧ n ≤ x.waiting.length ∧ (t.die d).waiting = x.waiting.drop n ∧ (t.die d).d = x.d + 256 * n ∧
      (0 < n → (t.die d).d ≤ x.cap) ∧ (n < x.waiting.length → x.cap < (t.die d).d + 256) ∧
      (∀ e ∈ x.waiting.take n, (s.now + 4, .grantArrival, .nums [e % 1024]) ∈ t.agenda) ∧ t.cores = s.cores ∧ t.mem = s.mem) ∧
  (∀ (s : State) (c : Nat), Happens s [c] → ∃ t, exec .grantArrival s = .next t ∧ t.agenda = s.agenda ∧ CoreChanged s t c fun k =>
    { k with mx := { k.mx with balance := k.mx.balance + 256, requested := false, lastIssue := max k.mx.lastIssue s.now } }) ∧
  (∀ (s : State) (c : Nat), Happens s [c] → (s.core c).mx.lastIssue + 64 ≤ s.now → ∃ t, exec .balanceReturn s = .next t ∧
    (t.core c).mx.balance = 0 ∧ (t.die (dieOf c)).d = (s.die (dieOf c)).d - (s.core c).mx.balance ∧ t.mem = s.mem ∧ OtherCores s t c) ∧
  (∀ (s : State) (d : Nat), Happens s [d] →
    let hot := Config.sensor (4 * s.freeCtr)
    let supply := Config.sensor (4 * s.now + 1)
    ∃ t, exec .capUpdate s = .next t ∧
      (let cap := (t.die d).cap
       cap ∈ [(s.die d).opCap, 61440, 40960, 20480] ∧ cap ≤ (s.die d).opCap ∧ (95 ≤ hot → cap ≤ 61440) ∧ (100 ≤ hot → cap ≤ 40960) ∧
       (105 ≤ hot → cap ≤ 20480) ∧ (41 ≤ supply → cap ≤ 40960) ∧ (Config.sensor (4 * s.now + 2) = 0 → cap ≤ 20480)) ∧
      (s.now, .governorGrant, .nums [d]) ∈ t.agenda ∧ t.cores = s.cores ∧ t.mem = s.mem) ∧
  (∀ (s : State) (d n : Nat), Happens s [d, n] → 5120 ≤ n → n ≤ 81920 → ∃ t, exec .operatorCap s = .next t ∧
    (t.die d) = { s.die d with opCap := n } ∧ t.cores = s.cores ∧ t.mem = s.mem ∧ t.agenda = s.agenda)

/-- K-steps run, on power that the die grants. Each part says its rules. -/
def Obligations.KstepsRunOnPower : Prop :=
  Parts.KstepsRun ∧ Parts.PowerIsGranted

/-- R49, R50, R211, R213: an operation of the frame queue that stands ready takes an entry with its words and holds its outputs, an MXDR that
rounds by SR, and is not to end in an error token, with the Shaker states of its roundings; words that R213
refuses send an error token of cause FRAME_RANGE; a full queue leaves the node not ready. -/
def Parts.FrameOperationsEnterTheQueue : Prop :=
  ∀ r ∈ frameTable, ∀ (f : NF) (s : State) (q : Firing), NodeReady s (r.1 f) q → q.e = false → q.x = false →
    let k := s.core q.core
    let used := k.mx.fq.length + (if s.now < k.mx.fqBusy then 1 else 0)
    (r.2.2 k (q.a.lane 0).toNat q = true → ∃ t, exec (r.1 f) s = .next t ∧ FailsOnData s t q 1 19) ∧
    (r.2.2 k (q.a.lane 0).toNat q = false → used < 8 → ∃ t u outs e, exec (r.1 f) s = .next t ∧ Held s u q outs none ∧
      (e.op, e.lit, e.cctx, e.pe, e.slot, e.outs) = (r.2.1, q.lit, q.cctx, q.pe, q.slot, outs) ∧
      e.a.data = (if q.a.vec then q.a.lanes else [q.a.lane 0]) ∧ e.b.map (·.data) = q.b.map (·.lanes) ∧
      (let lit := q.lit.toNat
       let shakes := r.2.1 = 0x95 ∧ s.rnd q.core (fld lit 18 16) = 5 ∧ drainCause k lit e.b (q.a.lane 0).toNat = none
       e.rm = s.rnd q.core (fld lit 18 16) ∧ (¬ shakes → (t.core q.core).shaker = k.shaker) ∧
       (shakes → e.sh = s.shaker q.core q.pe ∧ t.shaker q.core q.pe = shakeOn (256 * 2 ^ (lit % 4 + fld lit 3 2)) 0 (s.shaker q.core q.pe))) ∧
      t.agenda = u.agenda ∧
      CoreChanged u t q.core fun k => { k with shaker := (t.core q.core).shaker, mx := { k.mx with fq := k.mx.fq ++ [e] } }) ∧
    (r.2.2 k (q.a.lane 0).toNat q = false → 8 ≤ used → exec (r.1 f) s = .next s)

/-- Matrix tokens enter xq0 and xq1, frame operations fq. Each part says its rules. -/
def Obligations.MatrixNodesEnterTheirQueue : Prop :=
  Parts.MatrixTokensEnterTheirQueue ∧ Parts.FrameOperationsEnterTheQueue

/-- R62-R69, R73, R213, R223-R232, R234: what each entry of the frame queue does when its frames let it start: MXZ, MXCLS, MXRD, MXPEEK, MXST,
MXWT, MXPOL, MXSPL, MXFIL, MXADD and MXDR. -/
def Obligations.FrameEntriesAct : Prop :=
  ∀ (s : State) (c : Nat) (e : FqEnt), FqReady s c e →
    let k := s.core c
    let w := laneOf (some e.a) 0
    let fb := w % 128
    let n := fld w 14 8 + 1
    let fs := k.framesOf fb n
    let lit := e.lit.toNat
    let run := fun (t : State) => exec .fqEntryStart s = .next t
    let cls := (k.frame fb).cls
    (e.op ∈ [0x92, 0x96, 0x97, 0x98, 0x99, 0x9B] → oneClass fs = false → ∃ t, run t ∧ FaultTaken s t c (fqRecord c e 4)) ∧
    (oneClass fs = true → busyFrames k fb n = false →
      (e.op = 0x92 → ∃ t, run t ∧ FqEnds s t c e (2 + ceilDiv n 8) (2 + ceilDiv n 8) e.val ∧ t.mem = s.mem ∧
        FramesSet s t c fb n (fun i => Frame.blank (k.frame (fb + i)).cls .zeroed)) ∧
      (∀ cl, e.op = 0x99 → Cls.ofCode (lit % 4) = some cl → ∃ t, run t ∧ FqEnds s t c e 2 1 e.val ∧ t.mem = s.mem ∧
        FramesSet s t c fb n (fun _ => Frame.blank cl .empty)) ∧
      (e.op = 0x96 → (∀ f ∈ fs, f.void = false) → ∀ sp a l, let img := fs.flatMap (·.image)
        fqPlace s c e img.length = .ok (sp, a) → reach s c sp a img.length true = .ok l →
        let lat := reachLevel s c sp l + ceilDiv img.length 128
        ∃ t, run t ∧ FqEnds s t c e lat lat e.val ∧ t.mem = (giveBytes s c .mxe l img).mem ∧
          FramesSet s t c fb n (fun i => { k.frame (fb + i) with state := .spilled })) ∧
      (e.op = 0x97 → ∀ sp a l, let len := n * cls.imageBytes
        fqPlace s c e len = .ok (sp, a) → reach s c sp a len false = .ok l →
        let u := touchUnit s c .mxe l false
        let lat := reachLevel s c sp l + ceilDiv len 128
        (∀ new, framesIn cls n (takeBytes u c l) = .ok new →
          ∃ t, run t ∧ FqEnds u t c e lat lat e.val ∧ t.mem = u.mem ∧ (t.core c).mx.frames = (k.putFrames fb (new.map Frame.filled)).mx.frames) ∧
        (∀ x, framesIn cls n (takeBytes u c l) = .error x → ∃ t, run t ∧ FaultTaken u t c (fqRecord c e x))) ∧
      (e.op = 0x98 → lit % 4 = 0 → (∀ f ∈ fs, f.void = false) → ∀ sp a l new k', let len := n * cls.imageBytes
        fqPlace s c e len = .ok (sp, a) → reach s c sp a len false = .ok l →
        let u := touchUnit s c .mxe l false
        let lat := reachLevel s c sp l + ceilDiv len 128 + 2
        framesIn cls n (takeBytes u c l) = .ok new → addFrames k fb new = .ok k' →
        ∃ t, run t ∧ FqEnds u t c e lat lat e.val ∧ t.mem = u.mem ∧ (t.core c).mx.frames = k'.mx.frames) ∧
      (e.op = 0x98 → lit % 4 = 3 → let sb := laneOf e.b 0
        let src := k.framesOf sb n
        (∀ f ∈ fs, f.void = false) → oneClass src = true → (∀ f ∈ src, f.void = false ∧ f.state ≠ .accumulating) → busyFrames k sb n = false →
        (∀ k', addFrames k fb src = .ok k' → ∃ t, run t ∧ FqEnds s t c e (2 + n) (2 + n) e.val ∧ t.mem = s.mem ∧
          (t.core c).mx.frames = k'.mx.frames) ∧
        (∀ x, addFrames k fb src = .error x → ∃ t, run t ∧ FaultTaken s t c (fqRecord c e x)))) ∧
    (oneClass fs = true → e.op = 0x9B →
      (rangeIdle k s.now fb n = true → ∃ t, run t ∧ FqEnds s t c e 1 1 e.val ∧ t.mem = s.mem ∧ (t.core c).mx.frames = k.mx.frames) ∧
      (rangeIdle k s.now fb n = false → run s)) ∧
    (e.op = 0x94 ∨ e.op = 0x93 → (k.frame fb).void = true → ∃ t, run t ∧ FaultTaken s t c (fqRecord c e 2)) ∧
    (e.op = 0x94 → (k.frame fb).void = false → (k.frame fb).state ≠ .accumulating → busyFrames k fb 1 = false → ∃ t, run t ∧
      FqEnds s t c e 4 1 (Val.vec16 (elemLanes (k.frame fb) ((k.frame fb).elem (fld w 15 8)) (bitAt w 16))) ∧ (t.core c).mx.frames = k.mx.frames) ∧
    (e.op = 0x93 → (k.frame fb).void = false → ∃ t, run t ∧ (t.core c).mx.frames = k.mx.frames ∧
      FqEnds s t c e 4 1 (Val.vec16 (elemLanes (k.frame fb) (peeked k fb (fld w 15 8) s.freeCtr) (bitAt w 16)))) ∧
    (e.op = 0x9A → ∃ t, run t ∧ FqEnds s t c e 2 1 (Val.vec16 (mxStatus k s.now)) ∧ (t.core c).mx.frames = k.mx.frames) ∧
    (e.op = 0x9C → ∃ t, run t ∧ FqEnds s t c e 1 1 e.val ∧ let m := (t.core c).mx
      (m.w0, m.w1) = (if w % 16 = 0 ∧ w / 16 % 16 = 0 then (1, 1) else (w % 16, w / 16 % 16)) ∧ (m.c0, m.c1) = (m.w0, m.w1) ∧ m.frames = k.mx.frames) ∧
    (e.op = 0x95 → bitAt lit 27 = false →
      let m := 16 * 2 ^ (lit % 4)
      let n := 16 * 2 ^ fld lit 3 2
      let nf := k.span fb m n
      let sz := typeBits (fld lit 23 20) / 8
      let base := laneOf e.b 0
      let pitch := laneOf e.b 1
      let off := fun i => laneOf e.b (2 + i)
      fb + nf ≤ 128 → oneClass (k.framesOf fb nf) = true → (∀ f ∈ k.framesOf fb nf, f.void = false ∧ f.state ≠ .accumulating) →
      busyFrames k fb nf = false → n * sz ≤ pitch → base + (m - 1) * pitch + n * sz ≤ 2 ^ 21 → base % sz = 0 → pitch % sz = 0 →
      (∀ i < 3, bitAt lit (4 + i) = true → off i + 4 * (if i = 2 then n else m) ≤ 2 ^ 21 ∧ off i % 4 = 0) →
      (s.sod c = true ∨ firstOvf k fb nf = none) →
      let sc := fun i j => if bitAt lit (4 + i) then [scaleAt s c (off i + 4 * j)] else []
      let vals := drainVals k fb m n (fun i => sc 0 i ++ sc 1 i) (sc 2)
      let out := drainRound (fld lit 23 20) e.rm (bitAt lit 19) vals 0 (if e.rm = 5 ∧ e.sh = [] then s.shaker c e.pe else e.sh)
      ∃ t, run t ∧ FqEnds s t c e (max 6 nf) (max 4 nf) e.val ∧ t.mem = (putRows s c base pitch n sz out).mem ∧
        FramesSet s t c fb nf (fun i => { k.frame (fb + i) with state := .drained }))

/-! ## Rows: nodes, messages, bins and their configuration (R419-R449) -/

namespace Sys2Proof.Machine

/-- The row node's firing q waits as operation op on h for n (R444, R446). -/
def RowWaits (s t : State) (q : Firing) (op h n : Nat) (ids : List Nat) : Prop :=
  ∃ u outs w, Held s u q outs none ∧
    (w.op, w.h, w.n, w.ids, w.att, w.cctx, w.pe, w.slot, w.outs) = (op, h, n, ids, q.lit, q.cctx, q.pe, q.slot, outs) ∧
    t.agenda = u.agenda ∧ CoreChanged u t q.core fun k => { k with waits := k.waits ++ [w] }

/-- Exactly the row units of core c changed, by f. -/
def RowsChanged (s u : State) (c : Nat) (f : Rows → Rows) : Prop := u.agenda = s.agenda ∧ CoreChanged s u c fun k => { k with rows := f k.rows }

/-- Message m arrives in the event i, and its unit takes it in this cycle: it has taken no other, and none stands before it (R421, R433,
R442). -/
structure Arrives (s : State) (i : Instr) (id : Nat) (m : RowMsg) : Prop where
  event : Happens s [id]
  message : AMap.find? s.msgs id = some m
  free : (if i = .dispatchArrival then (s.core m.dst).rows.binAt else (s.core m.dst).rows.cmbAt) ≤ s.now
  first : ∀ p ∈ s.msgs, p.2.left = true → p.2.dst = m.dst → p.2.comb = m.comb → p.2.due ≤ s.now → takenFirst p (id, m) = false

/-- A message with a header stands at its unit's port, to leave for a core from a cycle on (R420, R421). -/
def Sent (t : State) (h : RowHdr) (dst from_ : Nat) : Prop :=
  ∃ id m, AMap.find? t.msgs id = some m ∧ m.hdr = h ∧ m.dst = dst ∧ m.due = from_ ∧ m.left = false ∧ m.comb = (h.flags % 16 != 0)

/-- The header of a row that is sent to its alternate expert (R430). -/
def RowHdr.rerouted (h : RowHdr) : RowHdr :=
  { h with d1 := dword (h.layer * 2 ^ 48 + h.alt * 2 ^ 32 + 0xFFFF * 2 ^ 16 + h.homePkg * 2 ^ 8 + h.rank * 2 ^ 5 + 16) }

/-- The sequencer of core c issues an instruction that reads a 64-byte descriptor d at an address, in lat cycles (R447). -/
def DescrRead (s : State) (c : Nat) (regs : List (BitVec 5)) (addr : DWord) (d : List DWord) (lat : Nat) : Prop :=
  SeqReady s c regs ∧ ∃ sp a y l, seqAddr s c addr = .ok (sp, a) ∧ seqAddr s c (addr + 56) = .ok y ∧ reach s c sp a 64 false = .ok l ∧ seqBehind s c sp a 64 l = false ∧
    let b := takeBytes (touchUnit (acquireFar s c) c .seq l false) c l
    d = ((List.range 8).map fun i => dword (ofBytes ((b.drop (8 * i)).take 8))) ∧ lat = 10 + 8 * reachLevel s c sp l

/-- The sequencer's next instruction follows after i cycles. -/
def SeqWent (s t : State) (c i : Nat) : Prop :=
  (t.core c).seq.pc = (s.core c).seq.pc + 4 ∧ (t.core c).seq.next = s.now + i ∧ (t.core c).seq.g = (s.core c).seq.g

end Sys2Proof.Machine

/-- R424-R427, R429, R444, R446, R448, R449: the row nodes. CFW and CFWR answer the winners and keep or repair a path; STAMP gathers its
rounds and queues headers; DISP, CMBADD, CMBOUT, BINNX and BINWT wait for their unit; RWST answers the status vector. -/
def Obligations.RowNodesAct : Prop :=
  ∀ (f : NF) (s : State) (q : Firing), q.e = false → q.x = false →
    let k := s.core q.core
    let lit := q.lit.toNat
    let n0 := (q.a.lane 0).toNat
    let key := nkey q.cctx q.pe q.slot
    let wins := Val.vec16 (winners q.a.lanes ((q.b.map (·.lanes)).getD []))
    let mem := AMap.get k.rows.paths key []
    (NodeReady s (.cfw f) q →
      (bitAt lit 0 = false → ∃ t, exec (.cfw f) s = .next t ∧ Fired s t q 2 (resultTokens q wins) (sfWritten q wins)) ∧
      (bitAt lit 0 = true → (∀ e ∈ mem, e.1 ≠ q.tag) → mem.length < 4 → ∀ a b o, q.a.tok = some a → q.b = some o → o.tok = some b →
        ∃ u t, exec (.cfw f) s = .next t ∧ RowsChanged s u q.core (fun r => { r with paths := AMap.put r.paths key (mem ++ [(q.tag, a, b)]) }) ∧
          Fired u t q 2 (resultTokens q wins) (sfWritten q wins)) ∧
      (bitAt lit 0 = true → 4 ≤ mem.length → exec (.cfw f) s = .next s)) ∧
    (NodeReady s (.cfwr f) q →
      let key := nkey q.cctx q.pe (lit % 64)
      let mem := AMap.get k.rows.paths key []
      (bitAt lit 6 = false → ∃ t, exec (.cfwr f) s = .next t ∧ Fired s t q 2 (resultTokens q wins) (sfWritten q wins)) ∧
      (bitAt lit 6 = true → (∀ e ∈ mem, e.1 ≠ q.tag) → ∃ t, exec (.cfwr f) s = .next t ∧ FailsOnData s t q 2 1) ∧
      (∀ x y, bitAt lit 6 = true → mem.find? (fun e => e.1 == q.tag) = some (q.tag, x, y) →
        let x' : Token := { x with data := removePairs x.data q.a.lanes }
        let y' : Token := { y with data := removePairs y.data q.a.lanes }
        let v := Val.vec16 (winners x'.data y'.data)
        let new := if bitAt lit 7 then mem.filter fun e => e.1 != q.tag else mem.map fun e => if e.1 = q.tag then (q.tag, x', y') else e
        ∃ u t, exec (.cfwr f) s = .next t ∧ RowsChanged s u q.core (fun r => { r with paths := AMap.put r.paths key new }) ∧
          Fired u t q 2 (resultTokens q v) (sfWritten q v))) ∧
    (NodeReady s (.stamp f) q → ∀ a, q.a.tok = some a →
      let table := AMap.get k.rows.stamps key []
      let old := (table.find? fun e => e.1 == q.tag).elim [] (·.2)
      let rest := table.filter fun e => e.1 != q.tag
      let rounds := old ++ [a]
      let n := fld lit 4 2 + 1
      (old ≠ [] ∨ table.length < 4) →
      (rounds.length < n + b2n (bitAt lit 6) → ∃ u t, exec (.stamp f) s = .next t ∧
        RowsChanged s u q.core (fun r => { r with stamps := AMap.put r.stamps key (rest ++ [(q.tag, rounds)]) }) ∧
        Fired u t q 1 (twoTokens q none (some q.a.val)) (twoSf q none (some q.a.val))) ∧
      (n + b2n (bitAt lit 6) ≤ rounds.length → k.rows.hdrs.length + 8 * n ≤ 64 → AMap.find? k.rows.layers (lit % 4) = none → ∃ u t, exec (.stamp f) s = .next t ∧
        RowsChanged s u q.core (fun r => { r with stamps := AMap.put r.stamps key rest }) ∧ FailsOnData u t q 12 1) ∧
      (n + b2n (bitAt lit 6) ≤ rounds.length → 64 < k.rows.hdrs.length + 8 * n → exec (.stamp f) s = .next s) ∧
      (n + b2n (bitAt lit 6) ≤ rounds.length → ∀ l, AMap.find? k.rows.layers (lit % 4) = some l →
        (∀ w m, k.rows.hdrs.length + 8 * n ≤ 64 → stampAll s q.core l lit q.tag.itag.toNat rounds = some (w, m) → ∃ u t, exec (.stamp f) s = .next t ∧
          u.mem = w.mem ∧ (u.core q.core).rows.hdrs = (w.core q.core).rows.hdrs ∧ AMap.get (u.core q.core).rows.stamps key [] = rest ∧
          Fired u t q 12 (twoTokens q (some (Val.scalar (word m))) (some q.a.val)) (twoSf q (some (Val.scalar (word m))) (some q.a.val))))) ∧
    (NodeReady s (.disp f) q → let ls := lit % 4
      (freeHdrs k.rows ls < n0 → ∃ t, exec (.disp f) s = .next t ∧ FailsOnData s t q 4 1) ∧
      (n0 ≤ freeHdrs k.rows ls → ∃ t u outs j, exec (.disp f) s = .next t ∧ Held s u q outs none ∧
        (j.cctx, j.pe, j.slot, j.outs, j.n, j.ls, j.begun) = (q.cctx, q.pe, q.slot, outs, n0, ls, false) ∧
        RowsChanged u t q.core (fun r => { r with disp := r.disp ++ [j] }))) ∧
    (NodeReady s (.cmbadd f) q → let off := (q.bl 0).toNat
      (inCombine k n0 = none → ∃ t, exec (.cmbadd f) s = .next t ∧ FailsOnData s t q 4 1) ∧
      (∀ x, inCombine k n0 = some x →
        (let bad := x.loc = false ∨ bitAt (staged s q.core x n0) 32 = true ∨ (∃ w ∈ k.waits, w.op = 0xA6 ∧ w.h = n0) ∨ off % 64 ≠ 0
         let last := off + x.width * typeBits x.cfmt / 8
         (bad → ∃ t, exec (.cmbadd f) s = .next t ∧ FailsOnData s t q 4 1) ∧
         (¬ bad → 2 ^ 21 < last → ∃ t, exec (.cmbadd f) s = .next t ∧ FailsOnData s t q 4 6) ∧
         (¬ bad → last ≤ 2 ^ 21 → s.now < k.rows.cmbAt → exec (.cmbadd f) s = .next s) ∧
         (¬ bad → last ≤ 2 ^ 21 → k.rows.cmbAt ≤ s.now → ∃ t, exec (.cmbadd f) s = .next t ∧
           RowWaits (s.modRows q.core fun r => { r with cmbAt := s.now + 1 }) t q 0xA6 n0 (s.now + 4 + x.area / 64) [off])))) ∧
    (NodeReady s (.cmbout f) q → ∃ t, exec (.cmbout f) s = .next t ∧ RowWaits s t q 0xA7 n0 0 []) ∧
    (NodeReady s (.binwt f) q →
      (fld n0 5 4 ≠ 3 → fld n0 7 6 = 0 → ∃ t, exec (.binwt f) s = .next t ∧ RowWaits s t q 0xA5 (n0 % 64) (fld n0 31 8) []) ∧
      (fld n0 5 4 = 3 ∨ fld n0 7 6 ≠ 0 → ∃ t, exec (.binwt f) s = .next t ∧ FailsOnData s t q 2 1)) ∧
    (NodeReady s (.binnx f) q → let h := rowHdrOf (s.scratch q.core n0 32)
      (n0 % 64 ≠ 0 ∨ 2 ^ 21 < n0 + 64 ∨ 2 ^ 21 < n0 + h.size → ∃ t, exec (.binnx f) s = .next t ∧ FailsOnData s t q 4 6) ∧
      (n0 % 64 = 0 → n0 + 64 ≤ 2 ^ 21 → n0 + h.size ≤ 2 ^ 21 → ∃ t id m w, exec (.binnx f) s = .next t ∧ AMap.find? t.msgs id = some m ∧
        (m.hdr, m.src, m.dst, m.bin) = (h, q.core, q.core, 16) ∧ m.payload = s.scratch q.core (n0 + 64) (h.size - 64) ∧
        Posts s t (s.now + 4) .dispatchArrival [id] ∧ (t.core q.core).waits = k.waits ++ [w] ∧ (w.op, w.n) = (0xA4, id) ∧ t.mem = s.mem)) ∧
    (NodeReady s (.rwst f) q → let v := Val.vec16 (rowStatus k)
      ∃ t, exec (.rwst f) s = .next t ∧ Fired s t q 2 (resultTokens q v) (sfWritten q v))

/-- R420, R421, R430, R433, R442, R443: a message that leaves reaches its unit in its time, behind those before it; what a message does when it arrives and its unit takes it: a dispatch is accepted once, a duplicate counted, one with no bin
refused; a result or null fills its rank's place at home; a bounce resends or drops; a refusal is tried again every 256 cycles until its
wait is over; and the combine unit writes and releases the row of slot NEXT. -/
def Obligations.RowMessagesAct : Prop :=
  ∀ (s : State) (id : Nat) (m : RowMsg),
    let c := m.dst
    let h := m.hdr
    let k := s.core c
    (Arrives s .dispatchArrival id m → m.malformed 0 = false →
      (servesRows s c = false ∨ boundBin k m = none → ∃ t, exec .dispatchArrival s = .next t ∧
        Sent t (h.setFlags (8 + h.rrBit)) h.home s.now ∧ (t.core c).rows.bins = k.rows.bins ∧ t.mem = s.mem) ∧
      (∀ b x, servesRows s c = true → boundBin k m = some (b, x) →
        let w := windowFor k.rows h
        (w.seen h.serial = true → ∃ t, exec .dispatchArrival s = .next t ∧ (t.core c).rows.accepted = k.rows.accepted ∧
          AMap.get (t.core c).rows.cnt 2 0 = (AMap.get k.rows.cnt 2 0 + 1) % 2 ^ 32 ∧ (t.core c).rows.bins = k.rows.bins ∧ t.mem = s.mem) ∧
        (∀ p y, w.seen h.serial = false → h.fmt = x.rfmt → h.len + 1 = x.ksteps * x.k → receiver k b = some (p, y) → y.closed = false →
          (y.state = .opened ∨ y.state = .firing) → y.r + uncounted k b < y.cap → ∃ t, exec .dispatchArrival s = .next t ∧
          AMap.find? (t.core c).rows.accepted id = some (m, b, s.now + ceilDiv h.size 64) ∧ windowFor (t.core c).rows h = w.note h.serial ∧
          t.mem = s.mem ∧ t.agenda = s.agenda))) ∧
    (Arrives s .resultArrival id m → m.malformed 1 = false → ∀ x v, placeOf s c h = some (x, v) →
      (bitAt v (8 + h.rank) = true → ∃ t, exec .resultArrival s = .next t ∧ t.mem = s.mem) ∧
      (bitAt v (8 + h.rank) = false → x.at_ h.slot + 320 + (h.rank + 1) * x.area ≤ 2 ^ 21 → h.fmt = x.cfmt → h.len + 1 = x.width → ∃ t, exec .resultArrival s = .next t ∧
        t.mem = ((s.putScratch c (x.at_ h.slot + 320 + h.rank * x.area) (m.payload.take x.area)).putScratch c (x.at_ h.slot)
          (toBytes 8 (setBit v (8 + h.rank)))).mem)) ∧
    (Arrives s .nullArrival id m → m.malformed 3 = false → ∀ x v, placeOf s c h = some (x, v) → ∃ t, exec .nullArrival s = .next t ∧
      t.mem = (if bitAt v (8 + h.rank) then s else s.putScratch c (x.at_ h.slot) (toBytes 8 (setBit (setBit v (8 + h.rank)) (16 + h.rank)))).mem) ∧
    (Arrives s .bounceArrival id m → m.malformed 4 = false → ∀ i l, layerOf k.rows h.layer = some (i, l) →
      (h.rr = false → h.alt ≠ 0xFFFF → l.pol ≠ 0 → ∃ t, exec .bounceArrival s = .next t ∧ t.mem = (keepBounce s c h).mem ∧
        (t.core c).rows.resend = k.rows.resend ++ [(h.rerouted, i)]) ∧
      (h.rr = true ∨ h.alt = 0xFFFF ∨ l.pol = 0 → ∃ t, exec .bounceArrival s = .next t ∧
        t.mem = (dropAtSource (keepBounce s c h) c h 1).mem ∧ (t.core c).rows.resend = k.rows.resend)) ∧
    (Arrives s .refusalArrival id m → m.malformed 8 = false →
      let h := h.setFlags h.rrBit
      (∀ x, k.rows.retry.find? (fun x => x.msg.hdr == h) = some x → ∃ t, exec .refusalArrival s = .next t ∧
        (t.core c).rows.retry = k.rows.retry.map fun y => if y.id = x.id then { y with next := s.now + 256 } else y) ∧
      (∀ i l, k.rows.retry.find? (fun x => x.msg.hdr == h) = none → layerOf k.rows h.layer = some (i, l) →
        ∃ t x, exec .refusalArrival s = .next t ∧ (t.core c).rows.retry = k.rows.retry ++ [x] ∧
          (x.msg.hdr, x.ls, x.first, x.next, x.bound) = (h, i, s.now, s.now + 256, l.bound) ∧ (x.msg.dst, x.msg.bin) = (m.src % 4096, m.bin))) ∧
    (∀ x, Happens s [c, x.id] → k.rows.retry.find? (fun y => y.id == x.id) = some x →
      (x.next ≤ s.now → ∃ t, exec .refusalRetry s = .next t ∧ Sent t x.msg.hdr x.msg.dst s.now ∧ (t.core c).rows.retry = (k.rows.retry.map fun y => if y.id = x.id then { y with next := s.now + 256 } else y)) ∧
      (x.first + x.bound ≤ s.now → layerOf k.rows x.msg.hdr.layer = none → ∃ t, exec .refusalWaitExpiry s = .next t ∧
        (t.core c).rows.retry = k.rows.retry.filter (fun y => y.id != x.id) ∧ t.mem = (dropAtSource s c x.msg.hdr 4).mem)) ∧
    (AMap.find? s.msgs id = some m → m.dstPkg = s.topo.pkg.toNat →
      let lat := if m.dst = m.src then 2 else 30 + ceilDiv h.size 384 + 12 * crossings (dieOf m.src) (dieOf m.dst)
      let before := fun (p : Nat × RowMsg) => p.2.left = true ∧ p.2.src = m.src ∧ p.2.dst = m.dst ∧ p.2.comb = m.comb
      let t := leaveRow s id m
      ∃ due, s.now + lat ≤ due ∧ (∀ p ∈ s.msgs, before p → p.2.due ≤ due) ∧ (due = s.now + lat ∨ ∃ p ∈ s.msgs, before p ∧ p.2.due = due) ∧
        AMap.find? t.msgs id = some { m with due := due, left := true } ∧ Posts s t due (arrivalOf m) [id]) ∧
    (Happens s [c] → ∀ x n rm, k.rows.cmb = some x →
      (x.writing = some (n, rm, false) → n ≤ s.now →
        let out := roundAll x.ofmt rm (bitAt x.dw0.toNat 35) ((List.range x.width).map fun j => (exactSum (addends s c x j), j % 16)) (s.shaker c (fld x.dw0.toNat 31 26))
        let a := (k.handle x.hout).slotAddr (k.handle x.hout).tail
        ∃ t, exec .combineRowWrite s = .next t ∧ t.mem = (s.putScratch c a (out.1.flatMap (toBytes (typeBits x.ofmt / 8)))).mem ∧
          (t.core c).rows.cmb = some { x with writing := some (s.now + 2, rm, true), addrs := AMap.put x.addrs x.next a }) ∧
      (x.writing = some (n, rm, true) → n ≤ s.now → ∃ t, exec .combineRowWrite s = .next t ∧
        (t.core c).handle x.hout = (k.handle x.hout).put 1 ∧ (t.core c).rows.cmb = some { x with next := x.next + 1, writing := none }))

/-- R434-R438: a counted row enters its group's slots and the header store, and CNT rows fire an open bin, as an expired timer does; a fixed
group takes its slots and queue entries; its last reads consume the slots; a settled group, with frames that a drain may read, drains its rows, and leaves with its last result. -/
def Parts.BinsFireAndDrain : Prop :=
  ∀ (s : State) (c b : Nat) (x : Bin),
    let k := s.core c
    let fired := fun (x : Bin) => { x with state := .firing, timer := none, fixed := 0, groups := [], fires := x.fires + 1 }
    (∀ id m n due, Happens s [c, id] → AMap.find? k.rows.accepted id = some (m, n, due) → due ≤ s.now → receiver k n = some (b, x) → k.bin b = some x →
      x.closed = false → x.r < x.cap → let trig := x.trigger s.now
      ∃ t, exec .rowCounted s = .next t ∧ t.mem = (placeRow s c x m).mem ∧ (t.core c).rows.accepted = AMap.del k.rows.accepted id ∧
        (t.core c).bin b = some (if x.state = .opened ∧ trig.1 ≤ x.r + 1 then fired { x with r := x.r + 1 }
          else { x with r := x.r + 1, timer := if x.state = .opened ∧ x.r = 0 ∧ trig.2 ≠ 0 then some (s.now + trig.2) else x.timer })) ∧
    (Happens s [c, b] → k.bin b = some x → ∀ n, x.timer = some n → n ≤ s.now → x.state = .opened → ∃ t, exec .binTimerExpiry s = .next t ∧
      (t.core c).bin b = some (fired x) ∧ t.mem = s.mem) ∧
    (Happens s [c, b] → k.bin b = some x → canFix k x = true → 16 * x.fixed + 16 ≤ x.r → ∃ t, exec .groupFix s = .next t ∧
      (t.core c).bin b = some { x with fixed := x.fixed + 1, groups := x.groups ++ [⟨x.fixed, 16, x.toks, x.toks, false, none⟩] } ∧
      (t.core c).handle x.ha = (k.handle x.ha).put x.ksteps ∧ ((t.core c).mx.xq x.xq).length = (k.mx.xq x.xq).length + x.toks ∧
      t.mem = ((List.range x.ksteps).foldl (fun s j => s.putScratch c ((k.handle x.ha).slotAddr
        ((x.t0 + x.fixed * x.ksteps + j) % ((k.handle x.ha).cnt + 1))) (toBytes 8 (x.rfmt + 15 * 2 ^ 8 + (x.k - 1) * 2 ^ 20))) s).mem) ∧
    (Happens s [c, b] → k.bin b = some x → ∀ y, x.groups.find? (fun y => !y.adv && y.toRead == 0) = some y → x.ksteps ≤ (k.handle x.ha).fill → ∃ t, exec .binGroupAdvance s = .next t ∧
      (t.core c).handle x.ha = (k.handle x.ha).get x.ksteps ∧ t.agenda = s.agenda ∧ t.mem = s.mem ∧
      (16 * (y.g + 1) < x.r → (t.core c).bin b = some { x with groups := x.groups.map fun z => if z.g = y.g then { z with adv := true } else z })) ∧
    (∀ y, Happens s [c, b, y.g] → k.bin b = some x → x.groups.find? (fun z => z.g == y.g) = some y →
      (∀ n, y.free = some n → n ≤ s.now → x.state = .firing → ∃ t, exec .binDrain s = .next t ∧
        (t.core c).bin b = some { x with groups := x.groups.filter fun z => z.g != y.g } ∧ t.mem = s.mem) ∧
      (let nf := x.toks * x.frames
       let fs := k.framesOf (x.fb y.g 0) nf
       y.free = none → y.toSettle = 0 → oneClass fs = true → (∀ f ∈ fs, f.void = false ∧ f.state ≠ .accumulating) →
       busyFrames k (x.fb y.g 0) nf = false → (s.sod c = true ∨ firstOvf k (x.fb y.g 0) nf = none) → ∃ t, exec .binDrain s = .next t ∧
        FramesSet s t c (x.fb y.g 0) nf (fun i => { k.frame (x.fb y.g 0 + i) with state := .drained }) ∧
        AMap.get (t.core c).rows.cnt 9 0 = (AMap.get k.rows.cnt 9 0 + y.rows) % 2 ^ 32 ∧ t.mem = s.mem ∧
        (∀ q < y.rows, let h := rowHdrOf (s.scratch c (x.hdrs + 32 * (16 * y.g + q)) 32)
          ∃ id m, AMap.find? t.msgs id = some m ∧ (m.hdr.d0, m.hdr.flags % 16, m.dst, m.due, m.left) = (h.d0, 1, h.home, s.now + max 6 nf + q, false)) ∧
        (t.core c).bin b = some { x with groups := x.groups.map fun z => if z.g = y.g then { z with free := some (s.now + max 6 nf + y.rows - 1) } else z }))

/-- R422, R431, R434, R438, R440, R441, R444, R447: BINCFG, CMBCFG, SPILLCFG and EXMAP read their descriptor and install it, or fault with its
address; BINTRG sets a bin's trigger or the BT condition; BINSEAL fires or drains an open bin; CMBWT waits for NEXT. -/
def Parts.RowUnitsAreConfigured : Prop :=
  ∀ (s : State) (c : Nat) (f : CF) (d : List DWord) (lat : Nat),
    let k := s.core c
    let ga := greg k f.a.toNat
    let v := ga.toNat
    let dw := fun i => (d.getD i 0).toNat
    let bad := fun (i : Instr) (cause : Nat) (addr : DWord) => ∃ t, exec i s = .next t ∧
      FaultTaken s t c { seqRecord s c cause with addr := addr.toNat } ∧ (t.core c).rows = k.rows ∧ (t.core c).seq.pc = k.seq.pc
    (DescrRead s c [f.a, f.b] (greg k f.b.toNat) d lat → v < 16 →
      let x : Bin := ⟨d.getD 0 0, d.getD 1 0, d.getD 2 0, .opened, true, false, 0, 0, 0, 0, none, none, 0, 0, 0, 0, []⟩
      let x : Bin := { x with t0 := (k.handle x.ha).tail, cnt := x.cap }
      (binBad k v x d = none → (∀ y, k.bin x.twin = some y → x.twin = v ∨ y.twin ≠ v) → ∃ t, exec (.bincfg f) s = .next t ∧
        (t.core c).bin v = some x ∧ (∀ b, b ≠ v → (t.core c).bin b = k.bin b) ∧ SeqWent s t c lat ∧ t.mem = s.mem) ∧
      (∀ e, binBad k v x d = some e → bad (.bincfg f) e (greg k f.b.toNat))) ∧
    (SeqReady s c [f.a] →
      (∀ x, f.imm = 0 → k.bin (v % 16) = some x → v < 2 ^ 45 → fld v 23 4 ≤ x.cap → fld v 44 24 ≤ 2 ^ 20 → ∃ t, exec (.bintrg f) s = .next t ∧
        (t.core c).bin (v % 16) = some { x with trig := some (s.now + 1, if fld v 23 4 = 0 then x.cap else fld v 23 4, fld v 44 24) } ∧
        SeqWent s t c 2 ∧ t.mem = s.mem) ∧
      (f.imm ≠ 0 → v < 2 ^ 48 → fld v 31 18 = 0 → fld v 17 16 ≠ 3 → fld v 47 32 ≠ 0 → ∃ t, exec (.bintrg f) s = .next t ∧
        (t.core c).rows = { k.rows with btMask := v % 2 ^ 16, btEv := fld v 17 16, btN := fld v 47 32, btCount := 0 } ∧ SeqWent s t c 2)) ∧
    (SeqReady s c [f.a, f.d] → ∀ b x, b < 16 → v = 2 ^ b → k.bin b = some x → x.twin = b →
      (x.state = .opened → 0 < x.r → ∃ t, exec (.binseal f) s = .next t ∧ (t.core c).bin b =
        some { x with closed := true, state := .firing, timer := none, fixed := 0, groups := [], fires := x.fires + 1 } ∧
        (f.d ≠ 0 → AMap.get (t.core c).seq.g f.d.toNat 0 = dword (2 ^ b))) ∧
      (x.state = .opened → x.r = 0 → ∃ t, exec (.binseal f) s = .next t ∧
        (t.core c).bin b = some { x with closed := true, state := .drained, receiving := false, timer := none } ∧
        (f.d ≠ 0 → AMap.get (t.core c).seq.g f.d.toNat 0 = 0)) ∧
      (x.state = .firing → ∃ t, exec (.binseal f) s = .next t ∧ (t.core c).bin b = some { x with closed := true })) ∧
    (DescrRead s c [f.a] ga d lat →
      let x : Combine := ⟨d.getD 0 0, d.getD 1 0, 0, none, []⟩
      let x : Combine := { x with next := x.base }
      (combineBad k x d = none → ∃ t, exec (.cmbcfg f) s = .next t ∧ (t.core c).rows.cmb = some x ∧ SeqWent s t c (lat + ceilDiv x.slots 16) ∧
        t.mem = ((List.range x.slots).foldl (fun s i => let w := staged s c x (x.base + i)
          s.putScratch c (x.at_ (x.base + i)) (toBytes 8 (w % 2 ^ 32 + w / 2 ^ 34 * 2 ^ 34))) s).mem) ∧
      (∀ e, combineBad k x d = some e → bad (.cmbcfg f) e ga)) ∧
    (SeqReady s c [f.a, f.d] → v < 2 ^ 20 → ∀ x, k.rows.cmb = some x →
      (v ≤ x.next - x.base → ∃ t, exec (.cmbwt f) s = .next t ∧ SeqGives s t c f.d (dword (x.next - x.base)) 1 4 1) ∧
      (x.next - x.base < v → exec (.cmbwt f) s = .next s)) ∧
    (DescrRead s c [f.a] ga d lat →
      let rest := k.rows.spills.filter fun x => fld (x.getD 0 0).toNat 63 48 != fld (dw 0) 63 48
      (dw 0 % 2 ^ 48 = 0 → dw 1 % 64 = 0 → 0 < fld (dw 2) 63 32 → fld (dw 2) 63 32 ≤ 2 ^ 20 → fld (dw 2) 31 0 % 64 = 0 → 128 ≤ fld (dw 2) 31 0 →
        dw 3 % 64 = 0 → (∀ w ∈ d.drop 4, w = 0) → rest.length < 4 → ∃ t, exec (.spillcfg f) s = .next t ∧ (t.core c).rows.spills = rest ++ [d] ∧
        SeqWent s t c lat ∧ t.mem = s.mem) ∧
      (4 ≤ rest.length → bad (.spillcfg f) 1 ga)) ∧
    (DescrRead s c [f.a] ga d lat → let n := f.imm.toNat % 4
      (readLayer d = none → bad (.exmap f) 1 ga) ∧
      (∀ l, readLayer d = some l → (∀ h ∈ k.rows.hdrs, h.2 ≠ n) → (∀ j ∈ k.rows.disp, j.ls ≠ n) → ∃ t, exec (.exmap f) s = .next t ∧
        (t.core c).rows = { k.rows with layers := AMap.put k.rows.layers n l } ∧ SeqWent s t c lat ∧ t.mem = s.mem))

/-- Bins fire and drain, and row units are configured. Each part says its rules. -/
def Obligations.BinsAndRowUnitsAct : Prop :=
  Parts.BinsFireAndDrain ∧ Parts.RowUnitsAreConfigured

/-! ## Barriers, counters, queues and the units of the sequencer (R305, R308-R317, R322-R329, R378-R396, R457) -/

namespace Sys2Proof.Machine

/-- Operation o is on its way to its unit, where it arrives as event i (R329, R384). -/
def SentOp (s t : State) (o : UnitOp) (i : Instr) : Prop :=
  ∃ id, AMap.find? t.ops id = some o ∧ (o.half, i, .nums [id]) ∈ t.agenda ∧ t.mem = s.mem

/-- The operation of an arrival event, and the only one that its unit serves in this cycle. -/
def OpArrives (s : State) (id : Nat) (o : UnitOp) (ops : List Nat) : Prop :=
  Happens s [id] ∧ AMap.find? s.ops id = some o ∧
  (s.ops.filter fun p => ops.contains p.2.op && p.2.target == o.target && decide (p.2.half ≤ s.now)) = [(id, o)]

/-- The core of an operation still runs the launch that sent it, and waits for its answer at its instruction. -/
def Awaits (s : State) (o : UnitOp) : Prop := (s.core o.core).launch = some o.launch ∧ (s.core o.core).seq.wait = .answer

/-- The operation's answer v stands in its register, to be read and followed from cycle n on (R344). -/
def Answered (s t : State) (o : UnitOp) (v : DWord) (n : Nat) : Prop :=
  (o.reg ≠ 0 → AMap.get (t.core o.core).seq.g o.reg 0 = v) ∧ (t.core o.core).seq.pc = (s.core o.core).seq.pc + 4 ∧ (t.core o.core).seq.next = n ∧
  (t.core o.core).seq.wait = .none

/-- What an instruction's release at a scope drains as it begins: the core's buffered stores, at .sys (R265). -/
def drained (s : State) (c scope : Nat) : State := if scope = 5 then drainAll s c (fun e => e.stores.any fun x => srcOnPaths (pathsOf 127) x.1) else s

/-- The accesses of core c that a release at a scope waits for, its NT and WC stores among them (R189). -/
def earlier (s : State) (c scope : Nat) : List Nat :=
  outstanding (drained s c scope) c (pathsOf 127) scope ++ bufferedStores (drained s c scope) c (pathsOf 127)

/-- A release at a scope has nothing to wait for: no earlier access, and no cut of the core's region (R189, R273). -/
def Clear (s : State) (c scope : Nat) : Prop := earlier s c scope = [] ∧ cutOf s c true scope = none

/-- Whether an instruction that waits at its first issue has not begun to wait. -/
def Fresh (k : Core) : Prop := k.seq.wait = .none

/-- The operations that reach a barrier's entry. -/
def barrierOps : List Nat := [1, 0x30, 0x31, 0x33]

/-- The operations of a work counter. -/
def counterOps : List Nat := [0x34, 0x35, 0x36, 0x89]

end Sys2Proof.Machine

/-- R378-R384, R389-R391: the barrier instructions. BARINI, BARARV and BARAW send their operation, arrivals only once every earlier access
has performed; BARWT and the wait of BARAW are released at once by a generation that is past, or wait; a foreign or malformed word faults ILLEGAL. -/
def Parts.BarrierInstructionsAct : Prop :=
  ∀ (s : State) (c : Nat) (f : CF),
    let k := s.core c
    let w := greg k f.a.toNat
    let key := w.toNat
    let b := s.bar key
    let there := s.now + barTime c (key / 4096)
    let waits := fun (i : Instr) (g : BitVec 16) => (∀ x ∈ b.waiters, x ≠ (c, g)) →
      (b.releases g = true → ∃ t, exec i s = .next t ∧ (t.core c).seq.wait = .answer ∧
        Posts s t (max s.now (b.tripAt + barTime c (key / 4096))) .barrierTrip [c, key, b.gen.toNat, b2n b.down, g.toNat] ∧ OtherCores s t c) ∧
      (b.releases g = false → ∃ t, exec i s = .next t ∧ (t.core c).seq.wait = .arrived (some g) ∧ t.agenda = s.agenda ∧
        t.bar key = { b with waiters := b.waiters ++ [(c, g)] })
    (SeqReady s c [f.a, f.b, f.d] → Fresh k →
      (barWord w = true → barConfig (greg k f.b.toNat).toNat = true → foreign s c key = false → ∃ t, exec (.barini f) s = .next t ∧
        SentOp s t (seqOp s c 0x30 key (greg k f.b.toNat) f.d.toNat there [s.ctxOf c]) .barrierArrival ∧ (t.core c).seq.wait = .answer) ∧
      (barWord w = false ∨ barConfig (greg k f.b.toNat).toNat = false ∨ foreign s c key = true → ∃ t, exec (.barini f) s = .next t ∧
        FaultTaken s t c (seqRecord s c 1)) ∧
      (barWord w = true → foreign s c key = false → waits (.barwt f) ((greg k f.b.toNat).extractLsb' 0 16))) ∧
    (SeqReady s c [f.a, f.d] → Fresh k →
      (arrivalOk s c w = false → (∃ t, exec (.bararv f) s = .next t ∧ FaultTaken s t c (seqRecord s c 1)) ∧
        ∃ t, exec (.baraw f) s = .next t ∧ FaultTaken s t c (seqRecord s c 1)) ∧
      (arrivalOk s c w = true → Clear s c (b.scope + 3) →
        (∃ t, exec (.bararv f) s = .next t ∧ SentOp s t (seqOp s c 0x31 key (dword f.imm.toNat) f.d.toNat there []) .barrierArrival ∧
          (t.core c).seq.pc = k.seq.pc + 4 ∧ (f.d ≠ 0 → (t.core c).seq.busy = f.d.toNat :: k.seq.busy)) ∧
        ∃ t, exec (.baraw f) s = .next t ∧ SentOp s t (seqOp s c 0x33 key (dword f.imm.toNat) f.d.toNat there []) .barrierArrival ∧
          (t.core c).seq.wait = .arrived none ∧ (t.core c).seq.pc = k.seq.pc) ∧
      (arrivalOk s c w = true → earlier s c (b.scope + 3) ≠ [] → ∀ i ∈ [Instr.bararv f, .baraw f],
        ∃ t, exec i s = .next t ∧ SeqIs (drained s c (b.scope + 3)) t c { k.seq with wait := .fence (earlier s c (b.scope + 3)) none })) ∧
    (SeqReady s c [f.a, f.d] → ∀ g, k.seq.wait = .arrived (some g) → waits (.baraw f) g)

/-- R380-R384, R391: what reaches an entry: BARINI configures it; an arrival counts, trips it when it fills EXPECT and breaks it when it
exceeds it; BARARV's answer goes back to its core and is written to its register there; a timeout breaks it; ARRIVEs of every member send TRIP, which trips a system entry; a release completes its waiter's instruction. -/
def Parts.BarrierEntriesAct : Prop :=
  ∀ (s : State) (id : Nat) (o : UnitOp),
    let key := o.target
    let b := s.bar key
    let v := o.val.toNat
    let n := o.val.toNat
    let answer := fun (t : State) (down : Bool) =>
      SentOp s t { o with op := 0x131, val := barStatus b.gen down, half := s.now + barTime o.core (key / 4096) } .barrierArrival
    (OpArrives s id o barrierOps → o.queue = none → o.op = 0x30 → Awaits s o → b.waiters = [] → (b.state = .idle ∨ (b.owner = o.ctx ∧ b.count = 0)) →
      fld v 51 50 = 0 → ∃ t, exec .barrierArrival s = .next t ∧ Answered s t o (dword b.gen.toNat) (s.now + 2) ∧
        ((t.bar key).state, (t.bar key).owner, (t.bar key).scope, (t.bar key).expect, (t.bar key).count, (t.bar key).tmo, (t.bar key).gang, (t.bar key).gen) =
          (BarState.counting, o.ctx, fld v 49 48, fld v 23 0, 0, fld v 31 24, fld v 47 32, b.gen)) ∧
    (OpArrives s id o barrierOps → o.queue = none → o.op = 0x31 → (s.core o.core).launch = some o.launch → b.state ≠ .idle → b.state ≠ .broken → b.queue = [] →
      (b.count + n < b.expect → ∃ t, exec .barrierArrival s = .next t ∧ (t.bar key).state = .counting ∧ (t.bar key).count = b.count + n ∧ (t.bar key).gen = b.gen ∧
        answer t false) ∧
      (b.count + n = b.expect → b.scope ≠ 2 → ∃ t, exec .barrierArrival s = .next t ∧ (t.bar key).state = .tripped ∧ (t.bar key).count = 0 ∧
        (t.bar key).gen = b.gen + 1 ∧ (t.bar key).tripAt = s.now ∧ answer t false) ∧
      (b.expect < b.count + n → ∃ t, exec .barrierArrival s = .next t ∧ (t.bar key).state = .broken ∧ (t.bar key).count = 0 ∧ (t.bar key).gen = b.gen ∧
        answer t true)) ∧
    (Happens s [id] → AMap.find? s.ops id = some o → o.op = 0x131 → (s.core o.core).launch = some o.launch → ∃ t, exec .barrierArrival s = .next t ∧
      (o.reg ≠ 0 → AMap.get (t.core o.core).seq.g o.reg 0 = o.val) ∧ o.reg ∉ (t.core o.core).seq.busy ∧ AMap.find? t.ops id = none ∧
      t.bars = s.bars ∧ t.mem = s.mem) ∧
    (∀ key n, let b := s.bar key
      (Happens s [key, n] → ∃ t, exec .barrierTimeout s = .next t ∧ Posts s t s.now .barrierTimeout [key, n, 1] ∧ t.bars = s.bars) ∧
      (Happens s [key, n, 1] → b.state = .counting → b.t0 = n → b.tmo ≠ 0 → 0 < b.count → b.queue = [] → ∃ t, exec .barrierTimeout s = .next t ∧
        (t.bar key).state = .broken ∧ (t.bar key).count = 0 ∧ (t.bar key).gen = b.gen ∧
        ∀ w ∈ b.waiters, (s.now + barTime w.1 (key / 4096), .barrierTrip, .nums [w.1, key, b.gen.toNat, 1, w.2.toNat]) ∈ t.agenda) ∧
      (∀ pkg, Happens s [pkg, key, b.gang, b.gen.toNat] → b.scope = 2 → (b.state = .counting ∨ b.state = .tripped) →
        let got := if b.arrives.contains pkg then b.arrives else b.arrives ++ [pkg]
        (barMembers s b).all got.contains = false → ∃ t, exec .arrive s = .next t ∧ t.bar key = { b with arrives := got } ∧ t.agenda = s.agenda) ∧
      (∀ pkg, Happens s [pkg, key, b.gang, b.gen.toNat] → b.scope = 2 → (b.state = .counting ∨ b.state = .tripped) →
        let got := if b.arrives.contains pkg then b.arrives else b.arrives ++ [pkg]
        (barMembers s b).all got.contains = true → ∃ t, exec .arrive s = .next t ∧ t.bar key = { b with arrives := [] } ∧
          Posts s t s.now .trip [key, b.gang, b.gen.toNat] ∧
          t.outbox.length = s.outbox.length + ((barMembers s b).filter (· != s.topo.pkg.toNat)).length) ∧
      (Happens s [key, b.gang, b.gen.toNat] → (∀ p ∈ s.ops, ¬ (p.2.op ∈ barrierOps ∧ p.2.target = key ∧ p.2.half ≤ s.now)) →
        b.scope = 2 → b.state = .counting → b.count = b.expect → b.queue = [] → ∃ t, exec .trip s = .next t ∧ (t.bar key).state = .tripped ∧
        (t.bar key).gen = b.gen + 1 ∧ (t.bar key).count = 0 ∧ t.mem = s.mem)) ∧
    (∀ c key g down w, Happens s [c, key, g, down, w] → (s.core c).launch.isSome = true → (s.core c).seq.wait = .answer → outstanding s c [.seq] ((s.bar key).scope + 3) = [] →
      let d := ((s.core c).prog.getD ((s.core c).seq.pc / 4) 0).toNat / 2 ^ 19 % 32
      ∃ t, exec .barrierTrip s = .next t ∧ (t.core c).seq.pc = (s.core c).seq.pc + 4 ∧ (t.core c).seq.wait = .none ∧ (t.core c).seq.next = s.now + 1 ∧
        (d ≠ 0 → AMap.get (t.core c).seq.g d 0 = barStatus (BitVec.ofNat 16 g) (down == 1)) ∧ t.mem = s.mem)

/-- The barrier instructions, and the entries they count at. Each part says its rules. -/
def Obligations.BarriersAct : Prop :=
  Parts.BarrierInstructionsAct ∧ Parts.BarrierEntriesAct

/-- R385, R386, R390, R392, R393: CNTINI, CNTADDG and CNTWZ go to their counter, which takes the value, adds and answers the old value, or
keeps the waiter until it is 0; QUIES reads the last sweep, or waits for a quiescent one. -/
def Obligations.CountersAct : Prop :=
  ∀ (s : State),
    (∀ (c : Nat) (f : CF),
      let k := s.core c
      let g := greg k f.a.toNat
      let n := g.toNat
      let w := s.wcnt n
      let there := s.now + counterTime c n / 2
      (SeqReady s c [f.a, f.b, f.d] → Fresh k →
        (n < 8192 → (w.v = true → w.owner = s.ctxOf c) → ∃ t, exec (.cntini f) s = .next t ∧
          SentOp s t (seqOp s c 0x34 n (greg k f.b.toNat) f.d.toNat there [s.ctxOf c]) .counterArrival ∧ (t.core c).seq.wait = .answer) ∧
        (n < 8192 → w.v = true → w.owner = s.ctxOf c → Clear s c 4 → ∃ t, exec (.cntaddg f) s = .next t ∧
          SentOp s t (seqOp s c 0x35 n (greg k f.b.toNat) f.d.toNat there [s.ctxOf c]) .counterArrival ∧ (t.core c).seq.wait = .answer) ∧
        (8192 ≤ n → ∀ i ∈ [Instr.cntini f, .cntaddg f], ∃ t, exec i s = .next t ∧ FaultTaken s t c (seqRecord s c 1))) ∧
      (SeqReady s c [f.a, f.d] → Fresh k → n < 8192 → w.v = true → w.owner = s.ctxOf c → c ∉ w.waiters →
        (∀ p ∈ s.ops, ¬ (p.2.core = c ∧ p.2.op = 0x36)) → ∃ t, exec (.cntwz f) s = .next t ∧
          SentOp s t (seqOp s c 0x36 n 0 f.d.toNat there [s.ctxOf c]) .counterArrival ∧ (t.core c).seq.wait = .arrived none) ∧
      (SeqReady s c [f.d] → ∀ m l, s.launchOf c = some (m, l) →
        (f.imm = 0 → ∃ t, exec (.quies f) s = .next t ∧ SeqGives s t c f.d (dword (b2n l.lastQuiet + l.sweeps % 2 ^ 32 * 2 ^ 32)) 2 4 2) ∧
        (f.imm ≠ 0 → Fresh k → ∃ t, exec (.quies f) s = .next t ∧ SeqIs s t c { k.seq with wait := .until (2 ^ 64) f.d.toNat }))) ∧
    (∀ (id : Nat) (o : UnitOp), OpArrives s id o counterOps → o.node = none →
      let n := o.target
      let w := s.wcnt n
      let half := s.now + counterTime o.core n / 2
      (o.op = 0x34 → Awaits s o → w.v = false → w.waiters = [] → ∃ t, exec .counterArrival s = .next t ∧
        t.wcnt n = { w with v := true, owner := o.ctx, zc := 0, value := o.val } ∧ Answered s t o 0 half) ∧
      (o.op = 0x35 → Awaits s o → w.v = true → w.owner = o.ctx → w.waiters = [] → ∃ t, exec .counterArrival s = .next t ∧
        (t.wcnt n).value = w.value + o.val ∧ Answered s t o w.value half ∧
        (t.wcnt n).zc = (if w.value ≠ 0 ∧ (w.value + o.val = 0 ∨ w.value.msb ≠ (w.value + o.val).msb) then w.zc + 1 else w.zc)) ∧
      (o.op = 0x36 → w.v = true → w.owner = o.ctx → (s.core o.core).launch = some o.launch → (s.core o.core).stopped = false →
        (s.core o.core).gated = false → w.value ≠ 0 → ∃ t, exec .counterArrival s = .next t ∧
        t.wcnt n = { w with waiters := w.waiters ++ [o.core] } ∧ t.agenda = s.agenda))

/-- R305, R309, R314, R325, R328: HALT ends its core, and with the last one its launch; CANCEL and DONE stop what they reach, which ends once
the accesses it issued have performed (DEDUCED, log 26); the queue
registers are written as R309 lets them; ENQ copies a record into a ring and advances TAIL, or answers all ones where there is no room. -/
def Obligations.QueuesTakeTheirRecords : Prop :=
  ∀ (s : State),
    (∀ (c n : Nat) (l : Launch) (f : CF), SeqReady s c [] → s.launchOf c = some (n, l) →
      (joinHolds s c = false → exec (.halt f) s = .next s) ∧
      (joinHolds s c = true → ∃ t, exec (.halt f) s = .next t ∧ (t.core c).seq.halted = true ∧ (t.core c).seq.pc = (s.core c).seq.pc + 4 ∧
        OtherCores s t c ∧ t.mem = s.mem ∧ Posts s t s.now .spillPassPlace [l.queue] ∧
        (l.state = .running ∨ l.state = .gating → (∀ d ∈ l.cores, d ≠ c → (s.core d).seq.halted = true) →
          AMap.find? t.launches n = some { l with state := .complete, gstate := .quiescent }) ∧
        (l.state ≠ .running → l.state ≠ .gating → t.launches = s.launches)) ∧
      (∀ r ∈ [(Instr.cancel f, true), (.seqDone f, false)],
        ∃ t, exec r.1 s = .next t ∧ AMap.find? t.launches n = some { l with ending := some (f.imm.toNat, r.2, tailsOf s l.ctx) } ∧
          t.core c = { s.core c with stopped := true } ∧ OtherCores s t c ∧ t.agenda = s.agenda ∧ t.accs = s.accs ∧ t.mem = s.mem)) ∧
    (∀ (n : Nat) (l : Launch) (lvl : Nat) (can : Bool) (tails : AMap Nat), AMap.find? s.launches n = some l → l.ending = some (lvl, can, tails) →
      let ns := reached s n l lvl
      let u := stopReached s ns
      (∀ m ∈ ns, ∀ x, AMap.find? s.launches m = some x → ∀ d ∈ x.cores, (s.core d).launch = some m → (u.core d).stopped = true ∧
        (u.core d).mx.xq0 = [] ∧ (u.core d).mx.xq1 = [] ∧ (u.core d).mx.fq = [] ∧ (u.core d).mx.sel = none) ∧ u.mem = s.mem ∧
      serveEnded s n = if (l.state = .running ∨ l.state = .gating) ∧ owing u ns = false then endLevel u n lvl can tails else u) ∧
    (∀ (q : Nat) (v : DWord), s.cur = .ev (.word q v) →
      let k := s.queue q
      let n := v.extractLsb' 0 32
      (k.en = true → v.getLsbD 31 = false → (k.state = .empty ∨ k.state = .blocked ∨ k.state = .armed) → ∃ t, exec .qcfgWrite s = .next t ∧
        ((t.queue q).en, (t.queue q).state, (t.queue q).weight, (t.queue q).ctx) = (false, QState.suspended, fld v.toNat 23 16, k.ctx) ∧ t.mem = s.mem) ∧
      (k.en = false → k.state = .suspended → v.getLsbD 31 = true → k.saved = true → ∃ t, exec .qcfgWrite s = .next t ∧
        ((t.queue q).en, (t.queue q).state, (t.queue q).weight, (t.queue q).ctx) = (true, QState.armed, fld v.toNat 23 16, v.toNat % 4096)) ∧
      (k.en = false → k.state = .suspended → v.getLsbD 31 = true → k.saved = false → k.tail = k.head → ∃ t, exec .qcfgWrite s = .next t ∧
        ((t.queue q).en, (t.queue q).state, (t.queue q).weight, (t.queue q).ctx) = (true, QState.empty, fld v.toNat 23 16, v.toNat % 4096)) ∧
      (k.en = false → k.state = .suspended → v.getLsbD 31 = true → k.saved = false → k.tail ≠ k.head → ∃ t, exec .qcfgWrite s = .next t ∧
        ((t.queue q).en, (t.queue q).state, (t.queue q).ctx) = (true, QState.blocked, v.toNat % 4096) ∧ Posts s t s.now .headCheck [q]) ∧
      (k.en = false → k.state = .suspended → ∃ t, exec .qbaseWrite s = .next t ∧ t.queue q = { k with base := v &&& 0x00FFFFFFFFFFFF9F#64 }) ∧
      (k.en = false → k.state = .error → ∃ t, exec .qbaseWrite s = .next t ∧
        ((t.queue q).base, (t.queue q).state, (t.queue q).head, (t.queue q).tail) = (v &&& 0x00FFFFFFFFFFFF9F#64, QState.suspended, 0, 0)) ∧
      (k.en = true → exec .qbaseWrite s = .next s) ∧
      ((n - k.head).toNat ≤ 2 ^ fld k.base.toNat 4 0 → k.state ≠ .empty → ∃ t, exec .qtailWrite s = .next t ∧ (t.queue q).tail = n ∧
        (t.queue q).head = k.head ∧ (t.queue q).state = k.state ∧ t.mem = s.mem) ∧
      (2 ^ fld k.base.toNat 4 0 < (n - k.head).toNat → k.state ≠ .error → ∃ t, exec .qtailWrite s = .next t ∧ (t.queue q).state = .error ∧
        (t.queue q).tail = k.tail)) ∧
    (∀ id a, Happens s [id] → AMap.find? s.accs id = some a → a.src = .seq 65 → a.stage = .performed → a.kind = .load → ∀ r va,
      a.merged = [(r, va, 0, 0)] → ∃ t x, exec .accessResponse s = .next t ∧ Issued { s with accs := AMap.del s.accs id } t x ∧
        (x.core, x.src, x.kind, x.space, x.data) = (a.core, Src.seq 66, AKind.store, Space.virt, a.got) ∧
        x.todo = (List.range (a.got.length / 8)).map fun i => ⟨r + 8 * i, 8, 8 * i⟩) ∧
    (∀ q c p d, Happens s [q, c, p, d] → let k := s.queue q
      (s.core c).seq.wait = .answer → (s.core c).stopped = false →
      (enqCopying s c = true → ∃ t, exec .qtailWrite s = .next t ∧ Posts s t (s.now + 1) .qtailWrite [q, c, p, d] ∧ t.queues = s.queues) ∧
      (enqCopying s c = false → k.state ≠ .error → k.used ≠ 2 ^ fld k.base.toNat 4 0 → ∃ t, exec .qtailWrite s = .next t ∧ t.mem = s.mem ∧
        (t.queue q).tail = k.tail + 1 ∧ (t.core c).seq.pc = (s.core c).seq.pc + 4 ∧ (d ≠ 0 → AMap.get (t.core c).seq.g d 0 = dword k.tail.toNat))) ∧
    (∀ (c : Nat) (f : CF), SeqReady s c [f.a, f.b, f.d] → Fresh (s.core c) →
      let k := s.core c
      let q := (greg k f.a.toNat).toNat
      let p := (greg k f.b.toNat).toNat
      let x := s.queue q
      let ring := x.ringAddr x.tail.toNat
      let full := !x.en || x.state == .error || x.used == 2 ^ fld x.base.toNat 4 0
      let lat := ringLevel s c (s.ctxOf c) ring + ringLevel s c (s.ctxOf c) p + 4
      (16384 ≤ q ∨ x.ctx ≠ s.ctxOf c → ∃ t, exec (.enq f) s = .next t ∧ FaultTaken s t c (seqRecord s c 1)) ∧
      (q < 16384 → x.ctx = s.ctxOf c → p % 64 ≠ 0 → ∃ t, exec (.enq f) s = .next t ∧ FaultTaken s t c (seqRecord s c 16)) ∧
      (q < 16384 → x.ctx = s.ctxOf c → p % 64 = 0 → Clear s c 5 → enqUnder s q = false → full = true → ∃ t, exec (.enq f) s = .next t ∧
        SeqGives s t c f.d (BitVec.allOnes 64) lat 4 lat) ∧
      (q < 16384 → x.ctx = s.ctxOf c → p % 64 = 0 → Clear s c 5 → enqUnder s q = false → full = false →
        let n := min 128 (65536 - p % 65536)
        ∃ u t a, exec (.enq f) s = .next t ∧ Posts s u (s.now + (lat - 1)) .qtailWrite [q, c, p, f.d.toNat] ∧ u.mem = s.mem ∧
          (u.core c).seq.wait = .answer ∧ OtherCores s u c ∧ Issued u t a ∧ (a.core, a.src, a.kind, a.space) = (c, Src.seq 65, AKind.load, Space.virt) ∧
          (a.todo = (List.range (n / 8)).map fun i => ⟨p + 8 * i, 8, 8 * i⟩) ∧ a.merged = [(ring, p + n, 128 - n, 0)]))

/-- R322, R323, R326, R327, R329: PQPUSH, PQPOP, DQPUSH, DQPOP and DQSTEAL go to their unit; a priority queue pushes and pops one item a cycle
and refills its front; a deque is pushed and popped at BOTTOM by its owner and stolen from at TOP. -/
def Obligations.PriorityQueuesAndDequesAct : Prop :=
  ∀ (s : State),
    (∀ (c : Nat) (f : CF), let k := s.core c
      let g := greg k f.a.toNat
      let half := s.now + (64 + 24 * crossings (dieOf c) (g.toNat / 64)) / 2
      let x := greg k f.b.toNat
      (SeqReady s c [f.a, f.b, f.d] → Fresh k → pqNamed s c g = true → x ≠ BitVec.allOnes 64 → Clear s c 4 →
        ∃ t, exec (.pqpush f) s = .next t ∧ SentOp s t (seqOp s c 0x39 g.toNat x f.d.toNat half []) .pqArrival ∧ (t.core c).seq.wait = .answer) ∧
      (SeqReady s c [f.a, f.d] → pqNamed s c g = true → ∃ t, exec (.pqpop f) s = .next t ∧
        SentOp s t (seqOp s c 0x3A g.toNat 0 f.d.toNat half []) .pqArrival ∧ (t.core c).seq.wait = .answer) ∧
      (SeqReady s c [f.a, f.d] → pqNamed s c g = false → ∃ t, exec (.pqpop f) s = .next t ∧ FaultTaken s t c (seqRecord s c 1)) ∧
      (SeqReady s c [f.a, f.d] → Fresh k → hasDeques s c = true → g ≠ BitVec.allOnes 64 → earlier s c 2 = [] →
        ∃ t, exec (.dqpush f) s = .next t ∧ SentOp s t (seqOp s c 0x3B c g f.d.toNat (s.now + 4) []) .dequeArrival ∧ (t.core c).seq.wait = .answer) ∧
      (SeqReady s c [f.d] → hasDeques s c = true →
        (∃ t, exec (.dqpop f) s = .next t ∧ SentOp s t (seqOp s c 0x3C c 0 f.d.toNat (s.now + 4) []) .dequeArrival ∧ (t.core c).seq.wait = .answer) ∧
        ∀ n l v r, s.launchOf c = some (n, l) → (if f.imm = 0 then stealOrder l c else (stealOrder l c).take f.imm.toNat) = v :: r →
          ∃ t, exec (.dqsteal f) s = .next t ∧ SentOp s t (seqOp s c 0x3D v 0 f.d.toNat (s.now + probeTime c v / 2) r) .dequeArrival ∧
            (t.core c).seq.wait = .answer)) ∧
    (∀ n, Happens s [n] → let p := s.pq n
      (∀ x, p.nextStart ≤ s.now → p.transit.length < p.free.length → leastItem p.back = some x → ∃ t, exec .pqRefillStart s = .next t ∧
        t.pq n = { p with back := p.back.erase x, transit := p.transit ++ [(s.now + 210, x)], nextStart := s.now + 4 } ∧
        (s.now + 210, .pqRefillLand, .nums [n]) ∈ t.agenda ∧ t.mem = s.mem) ∧
      (∀ x i r, p.transit.find? (fun t => decide (t.1 ≤ s.now)) = some x → p.free = i :: r → ∃ t, exec .pqRefillLand s = .next t ∧
        t.pq n = { p with front := AMap.put p.front i x.2, transit := p.transit.erase x } ∧ t.agenda = s.agenda)) ∧
    (∀ id o, OpArrives s id o [0x39, 0x3A] → Awaits s o → let p := s.pq o.target
      let d := 64 + 24 * crossings (dieOf o.core) (o.target / 64)
      p.served ≠ s.now + 1 →
      (o.op = 0x39 → ∃ t, exec .pqArrival s = .next t ∧ t.pq o.target = { (p.push o.val).1 with served := s.now + 1 } ∧
        Answered s t o (if (p.push o.val).2 then 1 else 0) (s.now + (d - d / 2))) ∧
      (∀ i x, o.op = 0x3A → p.laneLeast (o.core % 4) = some (i, x) → ∃ t, exec .pqArrival s = .next t ∧
        t.pq o.target = { p with front := AMap.del p.front i, served := s.now + 1 } ∧ Answered s t o x (s.now + (d - d / 2)))) ∧
    (∀ id o, OpArrives s id o [0x3B, 0x3C, 0x3D] → Awaits s o → (s.core o.target).dqServed ≠ s.now + 1 →
      let v := o.target
      let top := (deque s v).1
      let bottom := (deque s v).2
      let n := dequeLen s v
      let half := s.now + (probeTime o.core v - probeTime o.core v / 2)
      (o.op = 0x3B → n < 1024 → ∃ t, exec .dequeArrival s = .next t ∧ Answered s t o 1 (s.now + 4) ∧
        t.mem = ((s.putScratch v (itemOff bottom) (toBytes 8 o.val.toNat)).putScratch v 0x1FDFF4 (toBytes 4 ((bottom + 1) % 2 ^ 32))).mem) ∧
      (o.op = 0x3C → 0 < n → n ≤ 1024 → let b := (bottom + 2 ^ 32 - 1) % 2 ^ 32
        ∃ t, exec .dequeArrival s = .next t ∧ Answered s t o (dword (ofBytes (s.scratch v (itemOff b) 8))) (s.now + 4) ∧
          t.mem = (s.putScratch v 0x1FDFF4 (toBytes 4 b)).mem) ∧
      (o.op = 0x3D → 0 < n → n ≤ 1024 → ∃ t, exec .dequeArrival s = .next t ∧ Answered s t o (dword (ofBytes (s.scratch v (itemOff top) 8))) half ∧
        t.mem = (s.putScratch v 0x1FDFF0 (toBytes 4 ((top + 1) % 2 ^ 32))).mem) ∧
      (o.op = 0x3D → n = 0 → o.victims = [] → ∃ t, exec .dequeArrival s = .next t ∧ Answered s t o (BitVec.allOnes 64) half ∧ t.mem = s.mem) ∧
      (n = 0 → o.op = 0x3C → ∃ t, exec .dequeArrival s = .next t ∧ Answered s t o (BitVec.allOnes 64) (s.now + 4) ∧ t.mem = s.mem))

/-- R308, R310, R457: a write to a register block takes effect on the register that stands there; one that the block's access table denies
performs nothing. (What a write to a place that no rule describes does, nothing, is the model's choice: log 10.) -/
def Obligations.RegisterWritesAct : Prop :=
  ∀ (s : State) (master pa : Nat) (v : DWord), master < 2 ^ 16 → s.cur = .ev (.reg (BitVec.ofNat 16 master) pa v) →
    (accessOk s master pa true = false → exec .registerWrite s = .next s) ∧
    (accessOk s master pa true = true → regAt pa = none → exec .registerWrite s = .next s) ∧
    (∀ r, accessOk s master pa true = true → regAt pa = some r → ∃ t, exec .registerWrite s = .next t ∧ t.mem = s.mem ∧ t.cores = s.cores ∧
      (r = .gangbase → t = { s with gangbase := v &&& 0x800FFFFFFFC00000#64 }) ∧
      (∀ q, (r = .qbase q → t.agenda = insertDue s.now .qbaseWrite (.word q v) s.agenda) ∧ (r = .qcfg q → t.agenda = insertDue s.now .qcfgWrite (.word q v) s.agenda) ∧
        (r = .qtail q → t.agenda = insertDue s.now .qtailWrite (.word q v) s.agenda)) ∧
      (∀ d, r = .bkfree d → (t.die d).bkfree = (v &&& 0x000FFFFFFFFF001F#64)) ∧
      (∀ h p, r = .route h p → AMap.get t.routes (256 * h + p) 0 = (v &&& 0xF00000000000FFFF#64)) ∧
      (r = .ctxcmd → v.extractLsb' 60 4 = 1 → t.agenda = insertDue s.now .ctxCreate (.word 0 v) s.agenda) ∧
      (r = .pgcmd → v.extractLsb' 60 4 = 1 → t.agenda = insertDue s.now .pgRetry (.word 0 v) s.agenda) ∧
      (r = .ctxrsp ∨ r = .pgrsp ∨ (∃ q, r = .qstat q) ∨ (∃ a, r = .other a) → t = s) ∧
      (∀ n, r = .pqcfg n false → t.pq n = { s.pq n with en := v.msb, ctx := v.toNat % 4096 }))

/-! ## Pages, the pager, contexts and the scheduler (R246, R280, R281, R305, R309-R321, R397-R418) -/

namespace Sys2Proof.Machine

/-- The answer word of a command register: V, STATUS and a context (R310, R401). -/
def answerWord (status x : Nat) : DWord := dword (2 ^ 63 + status * 2 ^ 60 + x)

/-- The sequencer waits for operation op, which lies with its unit (R413-R418). -/
def Queued (t : State) (c op : Nat) (f : UnitOp → Prop) : Prop :=
  (t.core c).seq.wait = .answer ∧ ∃ id o, AMap.find? t.ops id = some o ∧ o.core = c ∧ o.op = op ∧ f o

/-- g_d of core c took v, and the next instruction follows after i cycles. -/
def SeqTook (s t : State) (c : Nat) (d : BitVec 5) (v : DWord) (i : Nat) : Prop :=
  (d ≠ 0 → AMap.get (t.core c).seq.g d.toNat 0 = v) ∧ (t.core c).seq.pc = (s.core c).seq.pc + 4 ∧ (t.core c).seq.next = s.now + i

/-- The register word of a command (R310, R401). -/
def Commands (s : State) (v : DWord) : Prop := ∃ q, s.cur = .ev (.word q v)

/-- The records of a queue's head, its priority and cost (R318). -/
def spillsOf (s : State) (k : Queue) : List (List DWord) :=
  k.spill ++ k.launches.flatMap fun n => match AMap.find? s.launches n with | some l => launchSpills s n l | none => []

end Sys2Proof.Machine

/-- R246, R402, R405, R407, R413-R418: the page instructions. PROMOTE and DEMOTE answer at once or send their 64 rows to the banks; TLBINV drops
the pages from every TLB and waits; SLWAYS and BNKHINT wait for the window's accesses, and the time of each of the three begins when its wait
ends; PSTAT answers what its leaf says. -/
def Obligations.PageInstructionsAct : Prop :=
  ∀ (s : State) (c n : Nat) (l : Launch) (f : CF), s.launchOf c = some (n, l) →
    let k := s.core c
    let ctx := s.ctxOf c
    let g := (greg k f.a.toNat).toNat
    let bad := fun (i : Instr) => ∃ t, exec i s = .next t ∧ FaultTaken s t c (seqRecord s c 1)
    (SeqReady s c [f.a, f.d] → ∀ tr m, translate s c ctx (g / 65536 * 65536) .read = .ok (tr, m) →
      let st := fld tr.leaf 61 59
      let half := m + 24 * crossings (dieOf c) (homeDie tr.pa) + 8
      ∀ r ∈ [(Instr.promote f, 0x40), (.demote f, 0x41)],
        (st = 5 → exec r.1 s = .next s) ∧
        (st ≠ 5 → tr.pa / 2 ^ 48 = 1 → ∃ t, exec r.1 s = .next t ∧ SeqTook s t c f.d 1 half) ∧
        (st ≠ 5 → tr.pa / 2 ^ 48 ≠ 1 → tr.pa / 2 ^ 48 ≠ 0 → ∃ t, exec r.1 s = .next t ∧ SeqTook s t c f.d 2 half) ∧
        (st = 6 → tr.pa / 2 ^ 48 = 0 → ∃ t, exec r.1 s = .next t ∧ SeqTook s t c f.d 5 half) ∧
        (st ≠ 5 → st ≠ 6 → memRegion s tr.pa = some 0 → tr.pa / 2 ^ 48 = 0 → ∃ t, exec r.1 s = .next t ∧
          Queued t c r.2 (fun o => o.victims = [64, 0, f.imm.toNat % 2, tr.pa]) ∧
          ∀ a ∈ blockRows tr.pa, (s.now + (half - half / 2), .promotionRun, .nums [homeDie a, (bankRow a).1]) ∈ t.agenda)) ∧
    (SeqReady s c [f.a] →
      (f.imm ≠ 1 → g < 2 ^ 56 → ∃ t, exec (.tlbinv f) s = .next t ∧ Queued t c 0x42 (fun o => o.half = 0) ∧
        (∀ d, ∀ e ∈ (t.die d).tlb, e.hit ctx g = false) ∧ ∀ d, ∀ e ∈ (t.core d).tlb, e.hit ctx g = false) ∧
      (f.imm = 1 → g = 0 → ∃ t, exec (.tlbinv f) s = .next t ∧ Queued t c 0x42 (fun o => o.half = 0) ∧
        (∀ d, ∀ e ∈ (t.die d).tlb, e.ctx ≠ ctx) ∧ ∀ d, ∀ e ∈ (t.core d).tlb, e.ctx ≠ ctx) ∧
      ((f.imm = 1 ∧ g ≠ 0) ∨ (f.imm ≠ 1 ∧ 2 ^ 56 ≤ g) → bad (.tlbinv f))) ∧
    (SeqReady s c [f.a, f.d] →
      (g ≤ 12 → ∃ t, exec (.slways f) s = .next t ∧ Queued t c 0x43 (fun o => o.val = dword g ∧ o.victims = windowAccesses s n) ∧ t.mem = s.mem) ∧
      (12 < g → bad (.slways f))) ∧
    (SeqReady s c [f.a, f.b] → let v := (greg k f.b.toNat).toNat
      (f.imm = 0 → g % 65536 = 0 → v < 65536 → ∃ t, exec (.bnkhint f) s = .next t ∧ SeqWent s t c 4 ∧ t.mem = s.mem) ∧
      (f.imm = 1 → g % 65536 = 0 → v < 2 ^ 48 → fld v 35 24 ≠ 0 → fld v 35 24 ≤ 768 → fld v 23 0 ≠ 0 → (fld v 47 36 + fld v 35 24) * 65536 ≤ l.winSize →
        ∃ t m, exec (.bnkhint f) s = .next t ∧ AMap.find? t.launches n = some m ∧ m.window = some ⟨fld v 47 36, fld v 35 24, fld v 23 0, g, []⟩ ∧
          Queued t c 0x44 (fun o => o.half = 0)) ∧
      (2 ≤ f.imm.toNat → v = 0 → ∃ t m, exec (.bnkhint f) s = .next t ∧ AMap.find? t.launches n = some m ∧ m.window = none ∧
        Queued t c 0x44 (fun o => o.half = 0)) ∧
      (2 ≤ f.imm.toNat → v ≠ 0 → bad (.bnkhint f))) ∧
    (∀ id o, s.ops = [(id, o)] → o.op = 0x42 ∨ o.op = 0x43 ∨ o.op = 0x44 → o.half = 0 →
      (allSettled s o.victims = false → servePage s = s) ∧
      (allSettled s o.victims = true → (servePage s).ops = [(id, { o with half := s.now + pageTime s o })])) ∧
    (SeqReady s c [f.a, f.d] →
      (∀ e, s.walk ctx g .look = .error e → ∃ t, exec (.pstat f) s = .next t ∧
        SeqGives s t c f.d (if e.2 = 3 then dword (7 * 2 ^ 60) else 0) (missTime s c ctx g e.1 + 12) 4 (missTime s c ctx g e.1 + 12)) ∧
      (∀ tr x, s.walk ctx g .look = .ok tr → translate s c ctx g .look = .ok x →
        let lat := x.2 + 24 * crossings (dieOf c) (homeDie tr.pa) + 12
        ∃ t, exec (.pstat f) s = .next t ∧ SeqGives s t c f.d (dword (pstatValue s (dieOf c) ctx g tr)) lat 4 lat))

/-- R402, R404-R410: an idle bank runs its oldest job, a forced one runs at once: the bank is held 60 cycles,
after which a promotion's row is in its slot and a demotion's row has left it; the Banker makes a page MIGRATING, copies it and gives its leaf the new frame by compare-and-swap; its counters
are halved. -/
def Obligations.PromotionsAndMovesRun : Prop :=
  (∀ (s : State) (d b : Nat) (j : PJob) (r : List PJob), Happens s [d, b] →
    let k := s.bankAt d b
    k.running = none → k.jobs = j :: r →
    (bankIdle s d b = false → ∃ t, exec .promotionRun s = .next t ∧ (s.now + 1, .promotionRun, .nums [d, b]) ∈ t.agenda ∧ t.dies = s.dies) ∧
    (∀ x ∈ [(Instr.promotionRun, j.since ≤ s.now ∧ bankIdle s d b = true), (.promotionForce, j.since + 4096 ≤ s.now)], x.2 →
      (∀ i, j.demote = false → k.holding j.row = none → k.choose = some i → ∃ t, exec x.1 s = .next t ∧
        t.bankAt d b = { k with jobs := r, held := s.now + 60, running := some (j, i) } ∧
        (s.now + 60, .promotionRun, .nums [d, b]) ∈ t.agenda ∧ t.mem = s.mem) ∧
      (∀ i p, j.demote = true → j.pin = false → k.holding j.row = some (i, p) → ∃ t, exec x.1 s = .next t ∧
        t.bankAt d b = { k with jobs := r, held := s.now + 60, running := some (j, i) } ∧ t.mem = s.mem))) ∧
  (∀ (s : State) (d b i : Nat) (j : PJob), Happens s [d, b] →
    let k := s.bankAt d b
    k.running = some (j, i) → k.held ≤ s.now → k.jobs = [] →
    (j.demote = false → AMap.find? k.slots i = none → ∃ t, exec .promotionRun s = .next t ∧
      t.bankAt d b = { k with running := none, slots := AMap.put k.slots i ⟨j.pin, j.row, k.pseq, j.leaf⟩, pseq := k.pseq + 1 }) ∧
    (∀ p, j.demote = true → AMap.find? k.slots i = some p → p.leaf = 0 → ∃ t, exec .promotionRun s = .next t ∧
      t.bankAt d b = { k with running := none, slots := AMap.del k.slots i })) ∧
  (∀ (s : State) (d : Nat), Happens s [d] →
    let k := s.die d
    (∀ m r frame rest tr, k.bkrun = none → k.bkq = m :: r → k.bkctl.msb = true → m.kind = 0 → s.walk m.ctx m.va .look = .ok tr → tr.level = 4 → tr.leafPa = m.leafPa →
      let e := dword (s.phys64 m.leafPa)
      e.getLsbD 56 = true → leafState e = 0 → returnFull k = false → k.bkspare = frame :: rest → ∃ t, exec .bankerMove s = .next t ∧
        t.mem = (s.putPhys m.leafPa (toBytes 8 (withState e 5).toNat)).mem ∧ (t.die d).bkrun = some (m, frame, withState e 5) ∧
        (t.die d).bkspare = rest ∧ (t.die d).bkq = r ∧ ∀ c, ∀ x ∈ (t.core c).tlb, x.leafPa ≠ m.leafPa) ∧
    (∀ m x e, k.bkrun = some (m, x, e) → m.kind = 0 → ∃ t, exec .bankerMove s = .next t ∧
      Posts s t (s.now + copyTime s d (fld e.toNat 51 13 * 2 ^ 13)) .migrationComplete [d] ∧ t.mem = s.mem) ∧
    (∀ m frame e, k.bkrun = some (m, frame, e) → s.phys64 m.leafPa ≠ e.toNat → ∃ t, exec .migrationComplete s = .next t ∧
      (t.die d).bkspare = k.bkspare ++ [frame] ∧ (t.die d).bkrun = none ∧ t.mem = s.mem) ∧
    (∀ m frame e, k.bkrun = some (m, frame, e) → s.phys64 m.leafPa = e.toNat → ∃ t, exec .migrationComplete s = .next t ∧
      (t.die d).bkrun = none ∧ (t.die d).bkspare = k.bkspare ∧ bkptrField (t.die d).bkptr 0 = (bkptrField k.bkptr 0 + 1) % 65536) ∧
    (∃ t, exec .bankerHalve s = .next t ∧ (t.die d).bkcnt = (k.bkcnt.map fun e => if e.n / 2 = 0 then BkCnt.free else { e with n := e.n / 2 }) ∧
      (∀ h, h ≠ d → t.die h = s.die h) ∧ t.mem = s.mem))

/-- R2, R401: the pager's commands: RSV bits of PGCMD read 0; one written while V = 0 is ignored; a set RSV bit answers STATUS 3, an unknown OP 4, a record that is not stalled
2; a retry or refusal frees its entry; an invalidation drops the pages and answers when the accesses they translated have performed. -/
def Obligations.PagerCommandsAct : Prop :=
  ∀ (s : State) (v : DWord), Commands s v →
    let ctx := fld v.toNat 59 48
    let arg := v.toNat % 2 ^ 40
    let kept := v &&& 0xFFFF00FFFFFFFFFF#64
    (s.pgrsp.msb = false → ∀ i ∈ [Instr.pgRetry, .pgRefuse, .pgInvalidatePage, .pgInvalidateContext, .pgcmdBadOp], exec i s = .next s) ∧
    (s.pgrsp.msb = true →
      (fld v.toNat 47 40 ≠ 0 → ∀ i ∈ [Instr.pgRetry, .pgRefuse, .pgInvalidatePage, .pgInvalidateContext, .pgcmdBadOp],
        exec i s = .next { s with pgcmd := kept, pgrsp := answerWord 3 0 }) ∧
      (fld v.toNat 47 40 = 0 →
        exec .pgcmdBadOp s = .next { s with pgcmd := kept, pgrsp := answerWord 4 0 } ∧
        (arg < 2 ^ 32 → stalledAt s ctx arg = none → ∀ i ∈ [Instr.pgRetry, .pgRefuse], exec i s = .next { s with pgcmd := kept, pgrsp := answerWord 2 0 }) ∧
        (∀ d e, arg < 2 ^ 32 → stalledAt s ctx arg = some (d, e) →
          ((∀ x ∈ e.asks, x.1 = 1) → ∃ t, exec .pgRetry s = .next t ∧ t.pgrsp = answerWord 0 0 ∧ (t.die d).stalls = (s.die d).stalls.erase e ∧ t.mem = s.mem ∧
            ∀ x ∈ e.asks, (s.now, .imageDecode, .nums [x.2.1]) ∈ t.agenda) ∧
          (∀ q va, e.asks = [(0, q, va)] → e.ids = [] → ∃ t, exec .pgRefuse s = .next t ∧ t.pgrsp = answerWord 0 0 ∧ (t.queue q).state = .error) ∧
          (e.asks = [] → e.ids = [] → ∃ t, exec .pgRefuse s = .next t ∧ t.pgrsp = answerWord 0 0 ∧ (t.die d).stalls = (s.die d).stalls.erase e)) ∧
        (∃ t, exec .pgInvalidatePage s = .next t ∧ t.pgrsp = 0 ∧ (∀ c, ∀ x ∈ (t.core c).tlb, x.hit ctx (arg * 65536) = false) ∧
          ∃ id o, AMap.find? t.ops id = some o ∧ o.core = 4096 ∧ o.op = 0x42 ∧ o.half = 0) ∧
        (arg ≠ 0 → exec .pgInvalidateContext s = .next { s with pgcmd := kept, pgrsp := answerWord 3 0 }) ∧
        (arg = 0 → ∃ t, exec .pgInvalidateContext s = .next t ∧ t.pgrsp = 0 ∧ (∀ c, ∀ x ∈ (t.core c).tlb, x.ctx ≠ ctx) ∧
          ∃ id o, AMap.find? t.ops id = some o ∧ o.core = 4096 ∧ o.op = 0x42 ∧ o.half = 0)))

/-- R280, R281, R287, R288, R310: the context commands: one written while V = 0 is ignored; CREATE takes the lowest free CTXID and loads its
descriptor; STOP freezes a RUNNING or GATING context; RESUME runs a FROZEN or FAULTED one again; DESTROY leaves it DEAD and RELEASE free.
(That a command with RSV bits 47:46 set is carried out as if they were 0, which is how they then read, is the model's choice: log 22.) -/
def Obligations.ContextCommandsAct : Prop :=
  ∀ (s : State) (v : DWord), Commands s v →
    let x := fld v.toNat 59 48
    let c := s.ctx x
    let answers := fun (i : Instr) (st y : Nat) => exec i s = .next { s with ctxcmd := v &&& 0xFFFF3FFFFFFFFFFF#64, ctxrsp := answerWord st y }
    (s.ctxrsp.msb = false → ∀ i ∈ [Instr.ctxCreate, .ctxStop, .ctxResume, .ctxDestroy, .ctxRelease, .ctxcmdBadOp], exec i s = .next s) ∧
    (s.ctxrsp.msb = true → x < 4096 →
      answers .ctxcmdBadOp 4 x ∧
      ((∀ y < 4096, (s.ctx y).state ≠ .free) → answers .ctxCreate 1 0) ∧
      (∀ y, (List.range 4096).find? (fun x => (s.ctx x).state == .free) = some y →
        let pa := fld v.toNat 45 0 * 64
        let d := (List.range 8).map fun i => s.phys64 (pa + 8 * i)
        (memRegion s pa = none ∨ ctxDescOk d = false → answers .ctxCreate 3 0) ∧
        ((memRegion s pa).isSome = true → ctxDescOk d = true → ∃ t, exec .ctxCreate s = .next t ∧ t.ctxrsp = answerWord 0 y ∧
          t.ctx y = ⟨.loading, dword (d.getD 0 0), dword (d.getD 1 0), dword (d.getD 2 0), dword (d.getD 3 0), dword (d.getD 4 0), d.getD 5 0⟩)) ∧
      (c.state ≠ .running → c.state ≠ .gating → answers .ctxStop 2 x) ∧
      (∀ n l, c.state = .running ∨ c.state = .gating → (∀ p ∈ s.launches, p.2.ctx = x → p.2.state ≠ .loading) →
        (s.launches.filter fun p => p.2.ctx == x).find? (fun p => p.2.live?) = some (n, l) → AMap.find? s.launches n = some l → ∃ t m, exec .ctxStop s = .next t ∧
        t.ctxrsp = answerWord 0 x ∧ AMap.find? t.launches n = some m ∧ m.state = .freezing ∧ m.after = .frozen ∧ m.toStop = l.cores ∧ m.frozeAt = s.now) ∧
      (c.state ≠ .frozen → c.state ≠ .faulted → answers .ctxResume 2 x) ∧
      (c.state = .frozen ∨ c.state = .faulted →
        ((∀ p ∈ s.launches, p.2.ctx ≠ x) → ∃ t, exec .ctxResume s = .next t ∧ t.ctxrsp = answerWord 0 x ∧ (t.ctx x).state = .ready) ∧
        (∀ n l, AMap.find? s.launches n = some l → l.ctx = x → l.state = .frozen ∨ l.state = .faulted → ∃ t m, exec .ctxResume s = .next t ∧
          t.ctxrsp = answerWord 0 x ∧ AMap.find? t.launches n = some m ∧ m.state = .saved)) ∧
      (c.state = .free ∨ c.state = .dead → answers .ctxDestroy 2 x) ∧
      (c.state ≠ .free → c.state ≠ .dead → (∀ p ∈ s.launches, p.2.ctx ≠ x) → (∀ b ∈ s.bars, b.2.owner ≠ x) → ∃ t, exec .ctxDestroy s = .next t ∧
        t.ctxrsp = answerWord 0 x ∧ (t.ctx x).state = .dead ∧ (∀ w ∈ t.wcnts, w.2.owner ≠ x) ∧ t.mem = s.mem) ∧
      (c.state ≠ .dead ∨ (∃ q ∈ s.queues, q.2.ctx = x ∧ q.2.en = true) → answers .ctxRelease 2 x) ∧
      (c.state = .dead → (∀ q ∈ s.queues, ¬ (q.2.ctx = x ∧ q.2.en = true)) → ∃ t, exec .ctxRelease s = .next t ∧ t.ctxrsp = answerWord 0 x ∧ t.ctx x = Ctx.none))

/-- R305, R309, R312-R321: a head is read and checked, and armed once its dependences are met; the decision places the one armed head that can
pay and be placed; YIELD gates its instance for another head or answers 0; and a spill pass becomes due when PRODUCT has ended and rings hold rows. -/
def Obligations.SchedulerActs : Prop :=
  (∀ (s : State) (q : Nat) (l : List (List DWord)), Happens s [q] →
    let k := s.queue q
    let r := l.getD 0 []
    k.state = .blocked → k.recs = [] → k.tail ≠ k.head → ringRecs s q k.head.toNat 1 = .ok l →
    (recOk r = false → ∃ t, exec .headCheck s = .next t ∧ (t.queue q).state = .error) ∧
    (recOk r = true → recGang r = false → recLen r = 1 → ∃ t, exec .headCheck s = .next t ∧ (t.queue q).recs = l ∧ (t.queue q).state = .blocked ∧
      Posts s t s.now .dependenceEvaluation [q, 1, k.head.toNat] ∧ t.mem = s.mem)) ∧
  (∀ (s : State) (q : Nat), Happens s [q] →
    let k := s.queue q
    let r := k.recs.getD 0 []
    k.recs ≠ [] → k.state = .blocked → k.saved = false → k.ending = none →
    (evalDeps s q r 4 = .ok (true, false) → recKind r = 0 ∨ recKind r = 1 → ∃ t, exec .dependenceEvaluation s = .next t ∧
      t.queue q = { k with state := .armed } ∧ (∀ p, p ≠ q → t.queue p = s.queue p) ∧ t.mem = s.mem) ∧
    (evalDeps s q r 4 = .ok (false, false) → exec .dependenceEvaluation s = .next s)) ∧
  (∀ (s : State) (q p : Nat) (k : Queue), (∀ x ∈ s.queues, x.2.resv = [] ∧ x.2.spillRec = none) →
    (armedQueues s = [] → exec .placementDecision s = .next s) ∧
    (armedQueues s = [(q, k)] → s.queue q = k → headPrio k = p → p ≤ 7 → placeable s q p = true → headCost s q ≤ k.deficit → k.deficit < 65536 → k.waits < 64 →
      let u := (s.modQueue q fun k => { k with deficit := min k.deficit 65535 }).modQueue q fun k => { k with deficit := k.deficit - headCost s q, waits := 0 }
      ∀ t, placeHead u q (busyCores u [] q) = some t → exec .placementDecision s = .next t ∧ (t.queue q).state = .active ∧ (t.queue q).waits = 0)) ∧
  (∀ (s : State) (c n : Nat) (l : Launch) (f : CF), SeqReady s c [f.d] → s.launchOf c = some (n, l) →
    (yieldsTo s n l = false → ∃ t, exec (.yield f) s = .next t ∧ SeqGives s t c f.d 0 4 4 4) ∧
    (yieldsTo s n l = true → (s.queue l.queue).launches = [n] → ∃ t, exec (.yield f) s = .next t ∧
      AMap.find? t.launches n = some { l with yields := true } ∧ SeqTook s t c f.d 1 1 ∧ OtherCores s t c ∧ t.mem = s.mem) ∧
    (l.yields = true → l.state = .running → let t := serveYield s n
      AMap.find? t.launches n = some { l with yields := false, state := .gating, gstate := .gated, kind := 0 } ∧ (∀ d ∈ l.cores, (t.core d).gated = true) ∧
      t.mem = s.mem)) ∧
  (∀ (s : State) (q : Nat) (d : List DWord) (rest : List (List DWord)), Happens s [q] →
    let k := s.queue q
    let rec_ := (d.getD 3 0).toNat
    k.state = .active → k.spilled = false → productOver s k = true → spillsOf s k = d :: rest → k.launches ≠ [] →
    let holds := anyHold s q ((d :: rest).filter fun x => (x.getD 3 0).toNat == rec_)
    (holds = .ok false → exec .spillPassPlace s = .next s) ∧
    (∀ r, holds = .ok true → schedRead s q rec_ 16 = .ok r → memberOk r = true → ∃ t, exec .spillPassPlace s = .next t ∧
      t.queue q = { k with spilled := true, spillRec := some r } ∧ t.mem = s.mem))

/-! ## Collectives, management (R26, R27, R451, R455, R458-R461) -/

/-- R459-R461: AREDX waits for a free slot, faults on a bad descriptor, and else answers its ticket and starts the collective; COLWT polls or
takes a collective's status; LNKST answers a port's word or the summary. A received image waits, or is added to the range that awaits it;
an image that does not come in time ends the collective with status 2 and its range as before. -/
def Obligations.CollectivesAct : Prop :=
  (∀ (s : State) (c : Nat) (f : CF) (d : List DWord) (lat : Nat),
    let k := s.core c
    let ga := greg k f.a.toNat
    let w := fun (i hi lo : Nat) => fld (d.getD i 0).toNat hi lo
    let bad := fun (cause : Nat) => ∃ t, exec (.aredx f) s = .next t ∧ FaultTaken s t c { seqRecord s c cause with addr := ga.toNat } ∧
      (t.core c).colls = k.colls ∧ (t.core c).seq.pc = k.seq.pc
    (DescrRead s c [f.a, f.d] ga d lat →
      (lowestFree 4 (k.colls.map (·.1)) = none → exec (.aredx f) s = .next s) ∧
      (∀ slot, lowestFree 4 (k.colls.map (·.1)) = some slot →
        (ga.toNat % 64 ≠ 0 → bad 16) ∧
        (ga.toNat % 64 = 0 → aredxOk s d = false → bad 1) ∧
        (ga.toNat % 64 = 0 → aredxOk s d = true → ∃ t, exec (.aredx f) s = .next t ∧
          AMap.find? (t.core c).colls slot =
            some ⟨k.collCnt, 0, w 0 47 32, w 0 63 48, w 0 6 0, w 0 14 8, (d.getD 1 0).toNat, w 2 63 32, 0, 0, false, [], 0⟩ ∧
          (t.core c).collCnt = k.collCnt + 1 ∧ SeqTook s t c f.d (dword (k.collCnt.toNat * 2 ^ 32 + slot)) (lat - 6) ∧ t.mem = s.mem))) ∧
    (SeqReady s c [f.a, f.d] → let v := ga.toNat
      (∀ x, AMap.find? k.colls (v % 4) = some x → x.count.toNat = v / 2 ^ 32 → fld v 31 2 = 0 →
        (f.imm ≠ 0 → ∃ t, exec (.colwt f) s = .next t ∧ SeqGives s t c f.d (dword x.status) 2 4 2) ∧
        (f.imm = 0 → x.phase ≠ 4 → exec (.colwt f) s = .next s) ∧
        (f.imm = 0 → x.phase = 4 → ∃ t, exec (.colwt f) s = .next t ∧ SeqTook s t c f.d (dword x.status) 2 ∧
          (t.core c).colls = AMap.del k.colls (v % 4) ∧ t.mem = s.mem)) ∧
      ((∀ x, AMap.find? k.colls (v % 4) = some x → x.count.toNat ≠ v / 2 ^ 32 ∨ fld v 31 2 ≠ 0) → ∃ t, exec (.colwt f) s = .next t ∧
        SeqGives s t c f.d 6 2 4 2)) ∧
    (SeqReady s c [f.d] → let p := f.imm.toNat
      let lat := 100 + 12 * crossings (dieOf c) (if p < 8 ∨ p = 16 then 4 else 5)
      ∃ t, exec (.lnkst f) s = .next t ∧ SeqGives s t c f.d (dword (if p = 16 then linkSummary s else (s.port p).status)) lat 4 lat)) ∧
  (∀ (s : State) (l : List Nat) (b : List Byte), s.cur = .ev (.bytes l b) →
    ((∀ p ∈ s.cores, ∀ x ∈ p.2.colls, ¬ (x.2.gang = l.getD 0 0 ∧ x.2.seqn = l.getD 1 0 ∧ (x.2.phase = 2 ∨ x.2.phase = 3))) →
      exec .collectiveImage s = .next { s with images := s.images ++ [(l, b)] }) ∧
    (∀ c slot k x pcs r, s.cores = [(c, k)] → k.colls = [(slot, x)] → k.stopped = false → s.images = [] → x.phase = 2 →
      let ms := (collSelf s x).1
      let me := (collSelf s x).2
      let m := me + 2 ^ x.round
      let u := giveBytes { s with images := [(l, b)] } c .lnk pcs b
      me % 2 ^ (x.round + 1) ≠ 2 ^ x.round → m < ms.length → l = [x.gang, x.seqn, m, 0, 0, x.fc] →
      reach { s with images := [(l, b)] } c .virt (x.stg + x.size k) b.length true = .ok pcs →
      imageFrames ((x.frames (u.core c)).map (·.cls)) b = .ok r → sameShape (x.frames (u.core c)) r = true → ∃ t, exec .collectiveImage s = .next t ∧
        AMap.find? (t.core c).colls slot = some { x with round := x.round + 1, deadline := 0 } ∧ t.images = [] ∧ t.mem = u.mem ∧
        ∀ i g, r[i]? = some g → (t.core c).frame (x.fb + i) = g.elems.foldl (fun d e => d.insertAt e.1 e.2) ((u.core c).frame (x.fb + i)))) ∧
  (∀ (s : State) (c slot n dl : Nat), Happens s [c, slot, n, dl] → ∀ x, AMap.find? (s.core c).colls slot = some x →
    (x.count.toNat ≠ n ∨ x.deadline ≠ dl ∨ dl = 0 ∨ x.phase = 4 → exec .collectiveTimeout s = .next s) ∧
    (x.count.toNat = n → x.deadline = dl → dl ≠ 0 → x.phase ≠ 4 → x.phase ≠ 0 → stepColl s c slot = s → ∃ t, exec .collectiveTimeout s = .next t ∧
      AMap.find? (t.core c).colls slot = some { x with status := 2, phase := 4, saved := [], deadline := 0 } ∧
      (∀ i g, x.saved[i]? = some g → (t.core c).frame (x.fb + i) = g) ∧ t.mem = s.mem))

/-- R26, R27, R451, R455, R458: power-on and module reset leave the main side as at reset, running only verified firmware; a die reset clears what
its die holds; telemetry, fault log and topology are read out; a topology record or firmware image takes effect only if it verifies; a cleared
port is DOWN. The order of what is read out, that a die reset drops the launches on it, and that a device record which does not verify leaves the
main side off, are the model's choice (logs 25, 42). -/
def Obligations.ManagementActs : Prop :=
  (∀ (s : State), ∀ i ∈ [Instr.powerOn, .moduleReset], ∃ t, exec i s = .next t ∧
    t.powered = (fwGood s s.fwActive && deviceGood s.device) ∧
    (t.device, t.topo, t.faultLog, t.fwActive, t.fwStaged, t.fwMin) = (s.device, s.topo, s.faultLog, s.fwActive, s.fwStaged, s.fwMin) ∧
    t.mem = State.reset.mem ∧ t.cores = State.reset.cores ∧ t.dies = State.reset.dies ∧ t.launches = State.reset.launches ∧ t.queues = State.reset.queues ∧
    t.ctxs = State.reset.ctxs ∧ t.ports = State.reset.ports ∧ t.bars = State.reset.bars ∧ t.wcnts = State.reset.wcnts ∧ t.access = State.reset.access ∧
    (t.pgrsp, t.ctxrsp, t.gangbase, t.count) = (State.reset.pgrsp, State.reset.ctxrsp, State.reset.gangbase, State.reset.count) ∧
    t.mgmtLog = s.mgmtLog ++ (if fwGood s s.fwActive = true then [] else [(1, s.fwActive.version)]) ++ (if deviceGood s.device = true then [] else [(4, 0)]) ∧
    t.routes = (if topoGood s.topo = true then writeRoutes s.topo else [])) ∧
  (∀ (s : State) (d : Nat), Happens s [d] → ∃ t, exec .dieReset s = .next t ∧
    (d < 4 → (∀ c, dieOf c = d → t.core c = Core.idle) ∧ t.die d = Die.reset ∧ (∀ p ∈ t.launches, p.2.die ≠ d) ∧ (∀ b ∈ t.bars, b.1 / 4096 ≠ d) ∧
      (∀ e ∈ t.entries, e.1 / 64 ≠ d) ∧ t.ports = s.ports) ∧
    (d = 4 → t.queues = [] ∧ t.ctxs = [] ∧ t.launches = [] ∧ t.routes = s.routes.filter (fun r => decide (256 ≤ r.1)) ∧ (t.count, t.gangbase, t.ctxrsp, t.pgrsp) = (0, 0, State.reset.ctxrsp, State.reset.pgrsp) ∧
      (∀ p < 8, t.port p = Port.reset) ∧ ∀ w ∈ t.wcnts, 4096 ≤ w.1) ∧
    (d = 5 → t.cores = s.cores ∧ t.queues = s.queues ∧ t.routes = s.routes.filter (fun r => decide (r.1 < 256)) ∧ (∀ p, 8 ≤ p → p < 16 → t.port p = Port.reset) ∧ ∀ w ∈ t.wcnts, w.1 < 4096)) ∧
  (∀ (s : State), ∃ t, exec .readTelemetry s = .next t ∧ t = { s with mgmtOut := t.mgmtOut, freeCtr := t.freeCtr } ∧
    ∃ l : List Nat, l.length = 6 ∧ t.mgmtOut = l ++ ((List.range 4).flatMap fun d => [(s.die d).cap, (s.die d).d]) ++ (List.range 16).map fun p => (s.port p).status) ∧
  (∀ (s : State), exec .readFaultLog s = .next { s with mgmtOut := s.faultLog.flatMap fun r => r.map (·.toNat) }) ∧
  (∀ (s : State), let t := s.topo
    exec .readTopology s = .next { s with mgmtOut := [t.pkg.toNat, t.master, t.retired.length] ++ t.retired ++ [t.ports.length] ++
      (t.ports.flatMap fun p => [p.1, p.2]) ++ [t.routes.length] ++ (t.routes.flatMap fun p => [p.1, p.2.toNat]) }) ∧
  (∀ (s : State) (r : TopoRec), s.cur = .ev (.topo r) →
    (r.sigEd = true ∧ r.sigMl = true → ∃ t, exec .replaceTopology s = .next t ∧ t.topo = r ∧ t = { s with topo := r, routes := t.routes } ∧
      t.routes = (if s.powered = true then writeRoutes r else s.routes) ∧
      ∀ h < 2, ∀ p < 256, ∀ v, s.powered = true → r.routes = [(p, v)] → AMap.get t.routes (256 * h + p) 0 = v) ∧
    (r.sigEd = false ∨ r.sigMl = false → exec .replaceTopology s = .next { s with mgmtLog := s.mgmtLog ++ [(3, r.pkg.toNat)] })) ∧
  (∀ (s : State) (p : Nat), Happens s [p] →
    ((s.port p).state ≠ .failed → exec .clearPort s = .next s) ∧
    ((s.port p).state = .failed → ∃ t, exec .clearPort s = .next t ∧ t.port p = { Port.reset with en := (s.port p).en, since := s.now, rx := (s.port p).rx } ∧
      (∀ q, q ≠ p → t.port q = s.port q) ∧ t.mem = s.mem)) ∧
  (∀ (s : State) (w : FwImage), s.cur = .ev (.fw w) →
    (w.sigEd = true ∧ w.sigMl = true ∧ s.fwMin ≤ w.version → exec .stageFirmware s = .next { s with fwActive := w, fwStaged := some s.fwActive }) ∧
    (w.sigEd = false ∨ w.sigMl = false ∨ w.version < s.fwMin →
      exec .stageFirmware s = .next { s with fwStaged := some w, mgmtLog := s.mgmtLog ++ [(1, w.version)] }))

/-! ## Launches on cores, saves, cuts and gangs (R272-R275, R281-R297, R331, R341-R343, R362, R369-R372, R388) -/

namespace Sys2Proof.Machine

/-- Event i about launch n happens, and the launch is l. -/
def LaunchEvent (s : State) (args : List Nat) (n : Nat) (l : Launch) : Prop := Happens s args ∧ args.head? = some n ∧ AMap.find? s.launches n = some l

/-- Launch n is now m. -/
def Becomes (t : State) (n : Nat) (m : Launch) : Prop := AMap.find? t.launches n = some m

/-- A core runs launch n from this cycle on. -/
def Runs (s t : State) (c n : Nat) : Prop :=
  (t.core c).launch = some n ∧ (t.core c).seq.running = true ∧ (t.core c).seq.next = s.now ∧ (t.core c).stopped = false ∧ (t.core c).gated = false

/-- A stop wave of launch n leaves core c: each core is reached after twice its hops (R287). -/
def WaveFrom (s t : State) (n : Nat) (l : Launch) (c : Nat) : Prop :=
  ∀ k ∈ l.cores, (s.now + 2 * hops c k, .stopWaveArrival, .nums [n, k]) ∈ t.agenda

end Sys2Proof.Machine

/-- R281-R287, R331, R341-R343, R362: an image is accepted, rejected or waits; a loaded launch runs with its arguments in g1-g4; a stop wave stops
its cores; a group that has stopped begins its save, cut or rollback; a save frees the cores; a restore runs on or leaves the launch FAULTED. -/
def Obligations.LaunchesLoadStopAndSave : Prop :=
  (∀ (s : State) (key : Nat) (e : Entry) (n0 : Nat) (l0 : Launch), Happens s [key] → AMap.find? s.entries key = some e →
    (e.state ≠ .decoding → exec .imageDecode s = .next s) ∧
    (e.state = .decoding → e.users.head? = some n0 → AMap.find? s.launches n0 = some l0 →
      (∀ im u, loadImage s e (some l0.recd) = .ok (im, u) →
        (∀ n ∈ e.users, ∀ l, AMap.find? s.launches n = some l → l.fits im = true ∧ l.entry = key) → ∃ t, exec .imageDecode s = .next t ∧
        AMap.find? t.entries key = some { e with state := .inUse, img := some im, gen := imageGen u e.ctx e.image } ∧ t.mem = u.mem ∧
        ∀ n ∈ e.users, ∀ l, AMap.find? s.launches n = some l → l.started = false →
          (s.now + (loadTime im + 1), .coreLoadComplete, .nums [n]) ∈ t.agenda) ∧
      (∀ b, loadImage s e (some l0.recd) = .error b → b.stall = none → ∃ t, exec .imageDecode s = .next t ∧
        AMap.find? t.entries key = some { e with state := .absent, users := [], img := none }) ∧
      (∀ b x, loadImage s e (some l0.recd) = .error b → b.stall = some x → x.1 ≠ 5 → (s.die 4).stalls.length < 256 →
        (∀ y ∈ (s.die 4).stalls, ¬ (y.ctx = (s.queue l0.queue).ctx ∧ y.va = b.va / 65536)) → ∃ t y, exec .imageDecode s = .next t ∧ t.entries = s.entries ∧
        (t.die 4).stalls = (s.die 4).stalls ++ [y] ∧ (y.ctx, y.va, y.ids, y.asks) = ((s.queue l0.queue).ctx, b.va / 65536, [], [(1, key, b.va)])))) ∧
  (∀ (s : State) (n : Nat) (l : Launch) (im : Image), LaunchEvent s [n] n l →
    (l.state ≠ .loading ∨ l.started = true → exec .coreLoadComplete s = .next s) ∧
    (l.state = .loading → l.started = false → s.imageOf l = some im → l.gang = none → l.snapOn s.now = false → (endingReach s).contains n = false → ∃ t, exec .coreLoadComplete s = .next t ∧
      Becomes t n { l with state := .running, gstate := .running, started := true } ∧
      ∀ c ∈ l.cores, (t.core c).launch = some n ∧ (t.core c).seq.running = true ∧ (t.core c).seq.next = s.now ∧ (t.core c).prog = im.seqProg ∧ (t.core c).sprog = im.strmProg ∧
        (t.core c).ctxm = im.ctxm ∧ ∀ j < 4, AMap.get (t.core c).seq.g (j + 1) 0 = l.recd.getD (12 + j) 0) ∧
    (l.state = .loading → l.started = false → s.imageOf l = some im → l.snapOn s.now = true → ∃ t m, exec .coreLoadComplete s = .next t ∧
      Becomes t n m ∧ (m.state, m.gstate, m.started) = (.loading, .stitched, false) ∧ Posts s t (s.now + saveTime 2 l.ways) .coreLoadComplete [n, 1]) ∧
    (l.state ≠ .loading ∨ l.started = false → exec .restore s = .next s) ∧
    (l.state = .loading → l.started = true → s.imageOf l = some im →
      let half := (l.source s.now).1
      let seed := (l.source s.now).2.seed
      let r : Rec := if l.kind = 2 then { cause := 10, origin := 14, detail := l.live } else { cause := 3, origin := 10 }
      (∀ va, restoreBad s l half seed = some va → ∃ t m, exec .restore s = .next t ∧ Becomes t n m ∧ (m.state, m.gstate, m.after) = (.faulted, .released, .faulted) ∧
        t.faultLog = s.faultLog ++ [Rec.dws { r with frz := true, queue := l.queue, addr := va, core := l.origin } l.ctx s.count]) ∧
      (restoreBad s l half seed = none → l.gang = none → (endingReach s).contains n = false → ∃ t m, exec .restore s = .next t ∧ Becomes t n m ∧
        (m.state, m.gstate, m.stalled) = (.running, .running, 0) ∧ ∀ c ∈ l.cores, Runs s t c n) ∧
      (∀ x, restoreBad s l half seed = none → l.gang = some x → x.st = 0 → ∃ t m y, exec .restore s = .next t ∧ Becomes t n m ∧
        (m.state, m.gstate, m.gang) = (.loading, .stitched, some y) ∧ y.st = 1)) ∧
    (l.state ≠ .saving → l.state ≠ .freezing → exec .saveComplete s = .next s) ∧
    (l.state = .saving ∨ l.state = .freezing →
      (l.resume = false → ∃ t m, exec .saveComplete s = .next t ∧ Becomes t n m ∧ m.state = (if l.state = .saving then .saved else l.after) ∧
        (m.gstate, m.ways, m.window) = (.released, l.ways, none) ∧ ∀ c ∈ l.cores, (t.core c).launch ≠ some n) ∧
      (l.resume = true → ∃ t m, exec .saveComplete s = .next t ∧ Becomes t n m ∧ (m.state, m.gstate, m.resume) = (.loading, .reserved, false)))) ∧
  (∀ (s : State) (n c : Nat), Happens s [n, c] →
    ((s.core c).launch ≠ some n → exec .stopWaveArrival s = .next s) ∧
    ((s.core c).launch = some n → ∃ t, exec .stopWaveArrival s = .next t ∧ (t.core c).stopped = true ∧ OtherCores s t c ∧ t.mem = s.mem)) ∧
  (∀ (s : State) (n : Nat) (l : Launch), LaunchEvent s [n] n l →
    (l.toStop ≠ [] → exec .groupFrozen s = .next s) ∧
    (l.toStop = [] →
      (l.state = .freezing → ∃ t, exec .groupFrozen s = .next t ∧ Becomes t n { l with gstate := .quiescent, kind := 1 } ∧
        Posts s t (s.now + saveTime 1 l.ways) .saveComplete [n]) ∧
      (l.state = .cutting → ∃ t, exec .groupFrozen s = .next t ∧ t.launches = s.launches ∧ Posts s t (s.now + saveTime 2 l.ways) .cut [n, l.origin, 1]) ∧
      (l.state = .rollingBack → ∃ t, exec .groupFrozen s = .next t ∧ t.launches = s.launches ∧ Posts s t (s.now + saveTime 2 l.ways) .rollback [n])))

/-- R272-R275, R285, R289-R292, R296, R297, R388: a cut stops the region, writes its half, commits the open interval and lets it run on; an
uncorrectable error rolls back a region with snapshots, faults one without, and poisons a line of memory and the page that maps it; a rollback discards the open interval;
the sweeps find a gated group quiescent and wake WAITQ; the watchdog freezes a stalled group. -/
def Obligations.CutsRollbacksAndSweepsAct : Prop :=
  (∀ (s : State) (n c : Nat) (l : Launch), LaunchEvent s [n, c] n l →
    ((l.state ≠ .running ∧ l.state ≠ .gating) ∨ l.snapOn s.now = false → exec .cut s = .next s) ∧
    (l.state = .running ∨ l.state = .gating → l.snapOn s.now = true → ∃ t, exec .cut s = .next t ∧
      Becomes t n { l with state := .cutting, toStop := l.cores, frozeAt := s.now } ∧ WaveFrom s t n l c ∧ t.mem = s.mem)) ∧
  (∀ (s : State) (n c : Nat) (l : Launch), LaunchEvent s [n, c, 1] n l →
    (l.state ≠ .cutting → exec .cut s = .next s) ∧
    (l.state = .cutting → ∃ t m, exec .cut s = .next t ∧ Becomes t n m ∧ (m.live, m.interval, m.rollbacks, m.lastCut) = (l.interval, l.interval + 1, 0, s.now) ∧
      m.state = (if l.gstate = .gated then .gating else .running) ∧ (l.interval % 2 = 0 → m.cuta = dword l.interval ∧ m.cutb = l.cutb) ∧
      (l.interval % 2 = 1 → m.cutb = dword l.interval ∧ m.cuta = l.cuta) ∧ (∀ k ∈ l.cores, (t.core k).stopped = false) ∧
      ∀ d i, ∀ e ∈ (t.slice d i).stores, e.launch ≠ n)) ∧
  (∀ (s : State) (n : Nat) (l : Launch), LaunchEvent s [n] n l →
    (l.cutDue s.now = none → exec .cutPeriod s = .next s) ∧
    (∀ x, l.cutDue s.now = some x → ∃ t, exec .cutPeriod s = .next t ∧ t.launches = s.launches ∧
      (if x ≤ s.now then Posts s t s.now .cut [n, l.origin] else Posts s t x .cutPeriod [n]))) ∧
  (∀ (s : State) (c n : Nat) (l : Launch), s.launchOf c = some (n, l) → s.cur = .ev (.site (.coreState c)) →
    (l.state = .rollingBack → exec .uncorrectableError s = .next s) ∧
    (l.state = .freezing → l.snapOn s.now = false → ∃ t, exec .uncorrectableError s = .next t ∧ Becomes t n { l with after := .faulted } ∧
      t.mem = (s.record l.ctx { cause := 10, origin := 14, core := c, frz := true, queue := l.queue }).1.mem) ∧
    (l.state = .running → l.snapOn s.now = true → l.rollbacks < 2 → l.gstate ≠ .released → ∃ t, exec .uncorrectableError s = .next t ∧
      Becomes t n { l with state := .rollingBack, toStop := l.cores, frozeAt := s.now } ∧ WaveFrom s t n l c ∧ t.mem = s.mem) ∧
    (l.state = .running → l.snapOn s.now = false → ∃ t, exec .uncorrectableError s = .next t ∧ FaultTaken s t c { cause := 10, origin := 14, core := c })) ∧
  (∀ (s : State) (pa : Nat), s.cur = .ev (.site (.memLine pa)) → let a := pa / 128 * 128
    let u := { s with poison := s.poison ++ [a, a + 32, a + 64, a + 96].filter fun x => !s.poison.contains x }
    let leaves := (s.ctxs.filter fun x => x.2.state != .free).flatMap fun x => leavesOf u pa 4 1 x.2.root
    (leaves = [] → exec .uncorrectableError s = .next u) ∧
    (∀ x, leaves = [x] → exec .uncorrectableError s =
      .next (dropTlb (u.putPhys x (toBytes 8 (withState (dword (s.phys64 x)) 6).toNat)) fun t => t.leafPa == x))) ∧
  (∀ (s : State) (n : Nat) (l : Launch) (im : Image), LaunchEvent s [n] n l →
    (l.state ≠ .rollingBack → exec .rollback s = .next s) ∧
    (l.state = .rollingBack → l.started = true → s.imageOf l = some im → (endingReach s).contains n = false → let bad := restoreBad (discardStores s n) { l with kind := 2 } (l.live % 2) l.cut.seed
      (bad = none → ∃ t m, exec .rollback s = .next t ∧ Becomes t n m ∧
        (m.state, m.gstate, m.interval, m.rollbacks, m.stalled) = (.running, .running, l.live + 1, l.rollbacks + 1, 0) ∧
        (∀ c ∈ l.cores, Runs s t c n) ∧ ∀ d i, ∀ e ∈ (t.slice d i).stores, e.launch ≠ n) ∧
      (∀ va, bad = some va → ∃ t m, exec .rollback s = .next t ∧ Becomes t n m ∧
        (m.state, m.after, m.toStop) = (.freezing, .faulted, m.cores)))) ∧
  (∀ (s : State) (n : Nat) (l : Launch), LaunchEvent s [n] n l →
    let quiet := l.cores.all fun c => coreEmpty s c && !activeSince (s.core c) (s.now - l.sweepTime)
    (l.gstate = .released ∨ l.gstate = .reserved → exec .quiescenceSweep s = .next s) ∧
    (l.gstate ≠ .released → l.gstate ≠ .reserved → ∃ t m, exec .quiescenceSweep s = .next t ∧ Becomes t n m ∧ m.sweeps = l.sweeps + 1 ∧ m.lastQuiet = quiet ∧
      (s.now + l.sweepTime, .quiescenceSweep, .nums [n]) ∈ t.agenda ∧
      (quiet = true → l.state = .gating → (m.state, m.gstate, m.kind) = (.saving, .quiescent, 0) ∧
        (s.now + saveTime 0 l.ways, .saveComplete, .nums [n]) ∈ t.agenda) ∧
      (quiet = false ∨ l.state ≠ .gating → m.state = l.state ∧ m.gstate = l.gstate) ∧
      ∀ c ∈ l.cores, ∀ d, (s.core c).seq.wait = .until (2 ^ 64) d →
        (quiet = true → (t.core c).seq.pc = (s.core c).seq.pc + 4 ∧ (t.core c).seq.next = s.now + 2 ∧
          (d ≠ 0 → AMap.get (t.core c).seq.g d 0 = dword (1 + (l.sweeps + 1) % 2 ^ 32 * 2 ^ 32))) ∧
        (quiet = false → t.core c = s.core c))) ∧
  (∀ (s : State) (n c : Nat) (l : Launch), LaunchEvent s [n] n l →
    let u := s.modLaunch n fun x => { x with stalled := 0 }
    (l.state = .gating → ∃ t m, exec .watchdogExpiry s = .next t ∧ Becomes t n m ∧ (m.state, m.after, m.kind, m.toStop) = (.freezing, .saved, 1, l.cores) ∧
      WaveFrom s t n l l.origin ∧ t.mem = s.mem) ∧
    (l.state = .running → (l.cores.find? fun c => (countedWait u c).isSome) = some c → u.launchOf c = some (n, { l with stalled := 0 }) →
      ∃ t, exec .watchdogExpiry s = .next t ∧ FaultTaken u t c { cause := 11, origin := 13, core := c, detail := (countedWait u c).getD 0 }) ∧
    (l.state ≠ .gating → l.state ≠ .running → exec .watchdogExpiry s = .next u))

/-- R362, R369-R372: a member's READY is noted; when all are READY and the deadline has come the round GOes and every member starts in cycle S;
past the grace window it is abandoned, also by a coordinator whose own group is not READY (log 44): the launch goes, or is held saved where it had run; its head waits
for the next slice boundary, and the filler runs until then. -/
def Obligations.GangsStartOrGiveUp : Prop :=
  (∀ (s : State) (g r m : Nat), Happens s [g, r, m] →
    let u := { s with gangPosts := s.gangPosts ++ [(g, r, m)] }
    ((g, r, m) ∈ s.gangPosts ∨ (∃ p ∈ s.launches, ∃ x, p.2.gang = some x ∧ x.gang = g ∧ x.round ≠ r) ∨ (∃ p ∈ s.queues, p.2.names g = true ∧ r < p.2.gangRound) →
      exec .ready s = .next s) ∧
    (∀ d, gangLaunches s g r = [] → gangDue s g r = some d → d + gangGrace (gangDesc s g) < s.count.toNat → exec .ready s = .next s) ∧
    (∀ n l x, (∀ p ∈ s.launches, ∀ y, p.2.gang = some y → y.gang = g → y.round = r) → (∀ p ∈ s.queues, p.2.names g = true → p.2.gangRound ≤ r) → (g, r, m) ∉ s.gangPosts → gangLaunches s g r = [(n, l)] → l.gang = some x →
      (x.deadline + gangGrace (gangDesc s g) < s.count.toNat → exec .ready s = .next s) ∧
      (s.count.toNat ≤ x.deadline + gangGrace (gangDesc s g) →
        (allPosted u g r = false ∨ s.count.toNat < x.deadline → exec .ready s = .next u) ∧
        (allPosted u g r = true → x.deadline ≤ s.count.toNat → ∃ t, exec .ready s = .next t ∧
          Posts s t s.now .go [g, r, s.count.toNat + gangLb (gangDesc s g)] ∧ ∀ p ∈ t.gangPosts, p.1 = g → r < p.2.1)))) ∧
  (∀ (s : State) (g r n : Nat) (l : Launch) (x : Gang), gangLaunches s g r = [(n, l)] → l.gang = some x →
    let grace := x.deadline + gangGrace (gangDesc s g)
    (Happens s [g, r, n] →
      (s.count.toNat < x.deadline → ∃ t, exec .sliceBoundary s = .next t ∧ t.launches = s.launches ∧
        Posts s t (s.now + (x.deadline - s.count.toNat)) .sliceBoundary [g, r, n]) ∧
      (x.deadline ≤ s.count.toNat → allPosted s g r = false → exec .sliceBoundary s = .next s) ∧
      (x.deadline ≤ s.count.toNat → allPosted s g r = true → ∃ t, exec .sliceBoundary s = .next t ∧
        Posts s t s.now .go [g, r, s.count.toNat + gangLb (gangDesc s g)]) ∧
      (s.count.toNat < grace → ∃ t, exec .gangDeadline s = .next t ∧ t.launches = s.launches ∧ Posts s t (s.now + (grace - s.count.toNat)) .gangDeadline [g, r, n]) ∧
      (grace ≤ s.count.toNat → ∃ t, exec .gangDeadline s = .next t ∧ t.launches = s.launches ∧ Posts s t s.now .gangDeadline [g, r, n, 1])) ∧
    (Happens s [g, r, n, 1] → grace ≤ s.count.toNat →
      (allPosted s g r = true → exec .gangDeadline s = .next s) ∧
      (allPosted s g r = false → ∃ t, exec .gangDeadline s = .next t ∧ t.launches = s.launches ∧ Posts s t s.now .abandon [g, r])) ∧
    (∀ start, Happens s [g, r, start] → AMap.find? s.launches n = some l → ∃ t, exec .go s = .next t ∧
      Becomes t n { l with gang := some { x with st := 2, start := start } } ∧ Posts s t (s.now + (start - s.count.toNat)) .gangStart [n]) ∧
    (Happens s [g, r] → AMap.find? s.launches n = some l → ∃ t, exec .abandon s = .next t ∧
      (l.started = false → AMap.find? t.launches n = none) ∧
      (l.started = true → (t.queue l.queue).saved = true ∧ ∃ m, Becomes t n m ∧ (m.state, m.gstate) = (.saved, .released)) ∧
      let d := gangDesc s x.gang;
      (t.queue l.queue).skip = 2 ^ 62 ∧ (t.queue l.queue).deadline = x.deadline + gangSlice d ∧
      (s.now + (x.deadline + gangSlice d - gangPre d - s.count.toNat), .gangRetry, .nums [l.queue, x.round, x.gang]) ∈ t.agenda ∧
      ∀ f, gangFiller d = some f → (s.now, .qcfgWrite, .word f (dword (2 ^ 31 + (s.queue f).weight * 2 ^ 16 + (s.queue f).ctx))) ∈ t.agenda)) ∧
  (∀ (s : State) (n : Nat) (l : Launch) (x : Gang), LaunchEvent s [n] n l → l.state = .loading → l.gang = some x →
    (x.st ≠ 2 → exec .gangStart s = .next s) ∧
    (x.st = 2 → s.count.toNat < x.start → ∃ t, exec .gangStart s = .next t ∧ t.launches = s.launches ∧ Posts s t (s.now + (x.start - s.count.toNat)) .gangStart [n]) ∧
    (x.st = 2 → x.start ≤ s.count.toNat → (endingReach s).contains n = false → ∃ t m, exec .gangStart s = .next t ∧ Becomes t n m ∧
      (m.state, m.gstate, m.started) = (.running, .running, true) ∧ (l.started = false → m = { l with state := .running, gstate := .running, started := true }) ∧
      ∀ c ∈ l.cores, (t.core c).seq.running = true ∧ (t.core c).seq.next = s.now)) ∧
  (∀ (s : State) (n : Nat) (l : Launch) (x : Gang), AMap.find? s.launches n = some l → l.gang = some x → x.st = 0 → x.deadline = 0 →
    let slice := gangSlice (gangDesc s x.gang)
    Becomes (stitched s n) n { l with gstate := .stitched, gang := some { x with deadline := (s.count.toNat + slice - 1) / slice * slice } }) ∧
  (∀ (s : State) (g r ph d : Nat), Happens s [g, r, 0, ph, 0] → gangDue s g r = some d → gangBegun s g r = false →
    let grace := d + gangGrace (gangDesc s g)
    (s.count.toNat < grace → ∃ t, exec .gangDeadline s = .next t ∧ Posts s t (s.now + (grace - s.count.toNat)) .gangDeadline [g, r, 0, ph, 0]) ∧
    (grace ≤ s.count.toNat → ph = 0 → ∃ t, exec .gangDeadline s = .next t ∧ Posts s t s.now .gangDeadline [g, r, 0, 1, 0]) ∧
    (grace ≤ s.count.toNat → ph ≠ 0 → ∃ t, exec .gangDeadline s = .next t ∧ t.agenda = s.agenda ∧ (∀ p ∈ t.gangPosts, p.1 = g → r < p.2.1) ∧
      t.outbox.length = s.outbox.length + ((members (gangDesc s g)).filter (· != s.topo.pkg.toNat)).length)) ∧
  (∀ (s : State) (q r g : Nat), Happens s [q, r, g] → let k := s.queue q
    ∃ t, exec .gangRetry s = .next t ∧ (k.skip = 2 ^ 62 → k.round = r → coordinator (gangDesc s g) = s.topo.pkg.toNat →
        (s.now + (k.deadline + gangGrace (gangDesc s g) - s.count.toNat), .gangDeadline, .nums [g, r + 1, 0, 0, 0]) ∈ t.agenda) ∧ (k.skip = 2 ^ 62 → k.round = r → t.queue q = { k with skip := 0, round := r + 1 }) ∧
      (k.skip ≠ 2 ^ 62 ∨ k.round ≠ r → t.queues = s.queues) ∧
      ∀ f, gangFiller (gangDesc s g) = some f → (s.now, .qcfgWrite, .word f (dword ((s.queue f).weight * 2 ^ 16 + (s.queue f).ctx))) ∈ t.agenda)

/-! ## Links (R450-R458) -/

namespace Sys2Proof.Machine

/-- Flits put on the wire in this step. -/
def WireGets (s t : State) (l : List (Nat × Flit)) : Prop := t.wire = s.wire ++ l

/-- Port p is now k; the other ports are unchanged. -/
def PortIs (s t : State) (p : Nat) (k : Port) : Prop := t.port p = k ∧ ∀ q, q ≠ p → t.port q = s.port q

/-- What a port that has failed keeps (R451, R454): the parts of messages that it has received; its unacknowledged flits go back to the
outbox. -/
def Failed (s t : State) (p : Nat) (k : Port) : Prop :=
  PortIs s t p { k with state := .failed, since := s.now, replay := [], credits := [], hops := 15 } ∧ t.outbox = k.replay ++ s.outbox

/-- What a port that is DOWN keeps: its enable, and the parts of messages that it has received. -/
def Down (s t : State) (p : Nat) (k : Port) : Prop := PortIs s t p { Port.reset with en := k.en, since := s.now, rx := k.rx } ∧ t.outbox = k.replay ++ s.outbox

/-- An earlier retraining still counts (R451). -/
def recentRetrains (s : State) (k : Port) : List Nat := k.retrains.filter fun t => decide (s.now < t + 2 ^ 26)

end Sys2Proof.Machine

/-- R451, R458: an enabled, listed port trains; lanes that lock begin attestation or end a retraining; evidence that all verifies, of the listed
neighbour and accepted by it, takes the port UP, and anything else FAILED; a lost lane retrains, the fourth time within 2^26 cycles fails;
timeouts take effect after the rest of their cycle. That the lanes count after a loss is at most 3 and the evidence arrives as one judgement
are the model's reading (log 40). -/
def Obligations.PortsChangeState : Prop :=
  (∀ (s : State) (p : Nat), Happens s [p] → let k := s.port p
    (p < 16 →
      (k.state = .down → listed s p = true → ∃ t, exec .lkctlEnSet s = .next t ∧ PortIs s t p { k with en := true, state := .training, since := s.now } ∧
        Posts s t (s.now + 2 ^ 24) .trainingTimeout [p, s.now]) ∧
      (k.state ≠ .down ∨ listed s p = false → ∃ t, exec .lkctlEnSet s = .next t ∧ PortIs s t p { k with en := true } ∧ t.agenda = s.agenda) ∧
      (k.state = .failed → ∃ t, exec .lkctlEnClear s = .next t ∧ PortIs s t p { k with en := false } ∧ t.agenda = s.agenda) ∧
      (k.state ≠ .failed → ∃ t, exec .lkctlEnClear s = .next t ∧ Down s t p { k with en := false })) ∧
    (16 ≤ p → exec .lkctlEnSet s = .next s ∧ exec .lkctlEnClear s = .next s) ∧
    (k.state = .training → ∃ t, exec .laneLock s = .next t ∧
      PortIs s t p { k with state := .attesting, since := s.now, lanes := 4, txSeq := 0, rxSeq := 0, naked := false, replay := [], tries := 0, parts := [] } ∧
      (t.wire.drop s.wire.length).map (fun w => (w.1, w.2.kind, w.2.about)) = [(p, 5, [0]), (p, 5, [1])]) ∧
    (k.state = .retraining → k.replay = [] → ∃ t, exec .laneLock s = .next t ∧
      PortIs s t p { k with state := .up, since := s.now, lanes := 4, nretrain := k.nretrain + 1, tries := 0 } ∧
      Posts s t (s.now + 2 ^ 16) .timeFlitSend [p, s.now])) ∧
  (∀ (s : State) (p n : Nat), Happens s [p, n] → let k := s.port p
    (k.state ≠ .up → ∃ t, exec .laneLockLost s = .next t ∧ PortIs s t p { k with lanes := min 3 n } ∧ t.agenda = s.agenda) ∧
    (k.state = .up → (recentRetrains s k).length < 3 → ∃ t, exec .laneLockLost s = .next t ∧
      PortIs s t p { k with lanes := min 3 n, state := .retraining, since := s.now, retrains := s.now :: recentRetrains s k, hops := 15 } ∧
      Posts s t (s.now + 2 ^ 22) .retrainTimeout [p, s.now]) ∧
    (k.state = .up → 3 ≤ (recentRetrains s k).length → ∃ t, exec .laneLockLost s = .next t ∧
      Failed s t p { k with lanes := min 3 n, retrains := s.now :: recentRetrains s k })) ∧
  (∀ (s : State) (p since : Nat), let k := s.port p
    ∀ x ∈ [(Instr.trainingTimeout, PState.training), (.trainingRetry, .down), (.retrainTimeout, .retraining)],
      ((Happens s [p, since] ∨ Happens s [p, since, 1]) → k.state ≠ x.2 ∨ k.since ≠ since → exec x.1 s = .next s) ∧
      (k.state = x.2 → k.since = since →
        (Happens s [p, since] → ∃ t, exec x.1 s = .next t ∧ t.ports = s.ports ∧ Posts s t s.now x.1 [p, since, 1]) ∧
        (Happens s [p, since, 1] →
          (x.1 = .trainingTimeout → ∃ t, exec x.1 s = .next t ∧ Down s t p k ∧ Posts s t (s.now + 2 ^ 24) .trainingRetry [p, s.now]) ∧
          (x.1 = .trainingRetry → k.en = true → listed s p = true → ∃ t, exec x.1 s = .next t ∧ PortIs s t p { k with state := .training, since := s.now } ∧
            Posts s t (s.now + 2 ^ 24) .trainingTimeout [p, s.now]) ∧
          (x.1 = .retrainTimeout → ∃ t, exec x.1 s = .next t ∧ Failed s t p k)))) ∧
  (∀ (s : State) (p n a b : Nat), Happens s [p, n, a, b] → let k := s.port p
    (k.state ≠ .attesting → exec .attestFlit s = .next s) ∧
    (k.state = .attesting → ∃ t, exec .attestFlit s = .next t ∧
      (n = 0 → PortIs s t p { k with parts := k.parts ++ [n] } ∧ (t.wire.drop s.wire.length).map (fun w => (w.1, w.2.kind, w.2.about)) = [(p, 5, [2])]) ∧
      (n = 1 → PortIs s t p { k with parts := k.parts ++ [n], peer := a, pport := b } ∧ t.wire = s.wire) ∧
      (2 ≤ n → PortIs s t p { k with parts := k.parts ++ [n] } ∧ t.wire = s.wire))) ∧
  (∀ (s : State) (p : Nat) (e : Evidence), s.cur = .ev (.evidence p e) → let k := s.port p
    let good := e.certEd && e.certMl && e.measEd && e.measMl && e.accepted && s.topo.ports.contains (p, e.peer)
    (k.state ≠ .attesting → exec .attestation s = .next s) ∧
    (k.state = .attesting → good = true → ∃ t, exec .attestation s = .next t ∧
      PortIs s t p { k with state := .up, since := s.now, peer := e.peer, pport := e.pport, att := true, nretrain := 0, replays := 0,
                            credits := [(0, 64), (1, 64), (2, 64), (3, 64)] } ∧ Posts s t (s.now + 2 ^ 16) .timeFlitSend [p, s.now]) ∧
    (k.state = .attesting → good = false → ∃ t, exec .attestation s = .next t ∧ Failed s t p k ∧ t.mgmtLog = s.mgmtLog ++ [(2, p)]))

/-- R452-R456: only the next expected data flit with a good CRC is accepted, acknowledged and answered with a credit, the first other one with
a nak; an acknowledgement retires the flits up to it, a nak or 1,024 cycles without one sends the rest again; credits return up to 64; time flits
set the count once, forward, then slew it, and are sent every 2^16 cycles. An acknowledgement per flit is the model's choice (log 40). -/
def Obligations.FlitsAct : Prop :=
  (∀ (s : State) (p : Nat) (f : Flit), s.cur = .ev (.flit p f) → let k := s.port p
    let sent := fun (t : State) => (t.wire.drop s.wire.length).map fun w => (w.1, w.2.kind, w.2.about)
    let key := f.vc + 4 * f.spkg + 1024 * f.src + 2 ^ 21 * f.dst
    (k.state ≠ .up ∨ f.kind ≠ 0 → exec .dataFlit s = .next s) ∧
    (k.state = .up → f.kind = 0 →
      (f.crcOk = false ∨ f.fseq ≠ k.rxSeq → k.naked = true → exec .dataFlit s = .next s) ∧
      (f.crcOk = false ∨ f.fseq ≠ k.rxSeq → k.naked = false → ∃ t, exec .dataFlit s = .next t ∧ PortIs s t p { k with naked := true } ∧
        sent t = [(p, 2, [k.rxSeq.toNat])] ∧ t.outbox = s.outbox ∧ t.agenda = s.agenda) ∧
      (f.crcOk = true → f.fseq = k.rxSeq → k.replay = [] →
        (f.dpkg ≠ s.self → f.hops < 8 → ∃ t, exec .dataFlit s = .next t ∧ PortIs s t p { k with rxSeq := k.rxSeq + 1, naked := false } ∧
          sent t = [(p, 1, [f.fseq.toNat]), (p, 3, [f.vc, 1])] ∧ t.outbox = s.outbox ++ [{ f with hops := f.hops + 1, hub := p / 8 }]) ∧
        (8 ≤ f.hops → ∃ t, exec .dataFlit s = .next t ∧ PortIs s t p { k with rxSeq := k.rxSeq + 1, naked := false } ∧
          sent t = [(p, 1, [f.fseq.toNat]), (p, 3, [f.vc, 1])] ∧ t.outbox = s.outbox) ∧
        (f.dpkg = s.self → f.hops < 8 → f.last = false → rxPort s p key = p → 240 * f.idx ≤ (AMap.get k.rx key []).length → ∃ t, exec .dataFlit s = .next t ∧
          sent t = [(p, 1, [f.fseq.toNat]), (p, 3, [f.vc, 1])] ∧ t.agenda = s.agenda ∧
          PortIs s t p { k with rxSeq := k.rxSeq + 1, naked := false, rx := AMap.put k.rx key ((AMap.get k.rx key []).take (240 * f.idx) ++ f.payload) }) ∧
        (f.dpkg = s.self → f.hops < 8 → f.last = true → 240 * f.idx ≤ (AMap.get (s.port (rxPort s p key)).rx key []).length → ∀ l, ∀ x ∈ [(3, Instr.ready), (4, .go), (5, .abandon), (6, .arrive), (7, .trip)], f.about = x.1 :: l →
          ∃ t, exec .dataFlit s = .next t ∧ sent t = [(p, 1, [f.fseq.toNat]), (p, 3, [f.vc, 1])] ∧ Posts s t s.now x.2 l) ∧
        (f.dpkg = s.self → f.hops < 8 → f.last = true → ∀ num op off len, f.about = [1, num, op, off, len] →
          rxPort s p key = p → 240 * f.idx ≤ (AMap.get k.rx key []).length → ∃ t, exec .dataFlit s = .next t ∧
          (s.now, .peerRequest, .peer ⟨p / 8, f.spkg, num, off, op, len, (AMap.get k.rx key []).take (240 * f.idx) ++ f.payload, 0⟩) ∈ t.agenda)))) ∧
  (∀ (s : State) (p n : Nat), Happens s [p, n] → let k := s.port p
    let seq := BitVec.ofNat 12 n
    (k.state ≠ .up → exec .ackFlit s = .next s ∧ exec .nakFlit s = .next s) ∧
    (k.state = .up →
      (retired k.replay seq = 0 → exec .ackFlit s = .next s) ∧
      (∀ j, retired k.replay seq = j → 0 < j → ∃ t, exec .ackFlit s = .next t ∧ PortIs s t p { k with replay := k.replay.drop j, tries := 0, lastAck := s.now } ∧
        (j < k.replay.length → Posts s t (s.now + 1024) .replayTimeout [p, s.now]) ∧ (k.replay.length ≤ j → t.agenda = s.agenda)) ∧
      (retired k.replay (seq - 1) = 0 → k.replay ≠ [] → k.tries < 7 → ∃ t, exec .nakFlit s = .next t ∧
        WireGets s t (k.replay.map fun f => (p, { f with ack := k.rxSeq - 1 })) ∧
        PortIs s t p { k with replays := k.replays + k.replay.length, tries := k.tries + 1, lastAck := s.now } ∧
        Posts s t (s.now + 1024) .replayTimeout [p, s.now]) ∧
      (retired k.replay (seq - 1) = 0 → k.replay ≠ [] → 7 ≤ k.tries → (recentRetrains s k).length < 3 → ∃ t, exec .nakFlit s = .next t ∧
        WireGets s t (k.replay.map fun f => (p, { f with ack := k.rxSeq - 1 })) ∧ (t.port p).state = .retraining ∧ (t.port p).replay = k.replay)) ∧
    (k.state ≠ .up ∨ k.lastAck ≠ n ∨ k.replay = [] → exec .replayTimeout s = .next s) ∧
    (k.state = .up → k.lastAck = n → k.replay ≠ [] → ∃ t, exec .replayTimeout s = .next t ∧ t.ports = s.ports ∧ Posts s t s.now .replayTimeout [p, n, 1])) ∧
  (∀ (s : State) (p n : Nat), Happens s [p, n, 1] → let k := s.port p
    k.state = .up → k.lastAck = n → k.replay ≠ [] → k.tries < 7 → ∃ t, exec .replayTimeout s = .next t ∧
      WireGets s t (k.replay.map fun f => (p, { f with ack := k.rxSeq - 1 })) ∧
      PortIs s t p { k with replays := k.replays + k.replay.length, tries := k.tries + 1, lastAck := s.now }) ∧
  (∀ (s : State) (p v n : Nat), Happens s [p, v, n] → let k := s.port p
    (k.state ≠ .up ∨ 3 < v → exec .creditFlit s = .next s) ∧
    (k.state = .up → v ≤ 3 → ∃ t, exec .creditFlit s = .next t ∧
      PortIs s t p { k with credits := AMap.put k.credits v (min 64 (AMap.get k.credits v 0 + n)) } ∧ t.agenda = s.agenda)) ∧
  (∀ (s : State) (p c h trip : Nat), Happens s [p, c, h, trip] → let k := s.port p
    let off : Int := (c + trip / 2 : Nat) - (s.count.toNat : Int)
    let u := s.modPort p fun k => { k with hops := min 15 (h + 1), offset := off }
    (k.state ≠ .up → exec .timeFlit s = .next s) ∧
    (k.state = .up →
      (timeRef u ≠ some p → exec .timeFlit s = .next u) ∧
      (timeRef u = some p → s.timeSet = true → exec .timeFlit s = .next { u with timeSlew := off }) ∧
      (timeRef u = some p → s.timeSet = false → ∃ t, exec .timeFlit s = .next t ∧ t.timeSet = true ∧ t.ports = u.ports ∧
        (0 ≤ off → t.timeSlew = 0 ∧ t.count = BitVec.ofNat 64 (c + trip / 2)) ∧ (off < 0 → t.timeSlew = off ∧ t.count = s.count)))) ∧
  (∀ (s : State) (p since : Nat), Happens s [p, since] → let k := s.port p
    (k.state ≠ .up ∨ k.since ≠ since → exec .timeFlitSend s = .next s) ∧
    (k.state = .up → k.since = since → ∃ t, exec .timeFlitSend s = .next t ∧ t.ports = s.ports ∧
      (t.wire.drop s.wire.length).map (fun w => (w.1, w.2.kind, w.2.about)) = [(p, 4, [s.count.toNat, myHops s])] ∧
      Posts s t (s.now + 2 ^ 16) .timeFlitSend [p, since]))

/-- R253, R454, R457: a peer's request is answered once: a number already answered is answered again from its record, one under way will be; what the
hub's access table does not permit performs nothing and is answered with ACCESS; a permitted load or store of memory performs halfway through the
latency of the level it reaches, once no promotion holds its bank, and its answer leaves at the latency's end. -/
def Obligations.PeerRequestsAreAnswered : Prop :=
  ∀ (s : State) (r : PeerReq), s.cur = .ev (.peer r) →
    let sendTo := fun (s : State) (st : Nat) (b : List Byte) => sendLink s r.src (1024 + 4 + r.hub) 0 1 0 [2, r.num, st] b
    let kept := fun (t : State) (st : Nat) (b : List Byte) => (r.src, r.num, BitVec.ofNat 8 st :: b) ∈ t.peerResp
    let denied := ∃ t, exec .peerRequest s = .next t ∧ kept t 9 [] ∧ t.outbox = (sendTo s 9 []).outbox ∧ t.mem = s.mem
    (r.phase = 0 →
      (∀ x, (s.peerResp.find? fun x => x.1 == r.src && x.2.1 == r.num) = some x →
        exec .peerRequest s = .next (sendTo s (x.2.2.headD 0).toNat (x.2.2.drop 1))) ∧
      ((s.peerResp.find? fun x => x.1 == r.src && x.2.1 == r.num) = none →
        let entry := accessEntry s (0x4000003000000 + r.hub * 0x100000) (0x3000 + r.src) r.offset
        (peerUnder s r = true → exec .peerRequest s = .next s) ∧
        (peerUnder s r = false →
          (entry = none → denied) ∧
          (∀ e, entry = some e → e.dw0.getLsbD (if r.op = 0 then 62 else 61) = false → denied) ∧
          (∀ e, entry = some e → e.dw0.getLsbD (if r.op = 0 then 62 else 61) = true → let pa := e.target.toNat + (r.offset - e.base.toNat)
            exec .peerRequest s = .next (peerGoes s { r with offset := pa, phase := 1 } ((peerLevel s r pa + 1) / 2)))))) ∧
    (r.phase = 1 → let pa := r.offset
      let rest := peerLevel s r pa / 2
      let answers := fun (t : State) (st : Nat) (b : List Byte) => kept t st b ∧
        (s.now + rest, .peerRequest, .peer { r with data := BitVec.ofNat 8 st :: b, phase := 2 }) ∈ t.agenda
      (bankHeld s pa = true → exec .peerRequest s = .next (peerGoes s r 1)) ∧
      (bankHeld s pa = false → rest ≠ 0 →
        ((memRegion s pa).isNone = true → pa / 2 ^ 48 ≠ 4 → ∃ t, exec .peerRequest s = .next t ∧ answers t 7 [] ∧ t.mem = s.mem) ∧
        ((memRegion s pa).isSome = true → pa / 2 ^ 48 ≠ 4 → s.poison = [] →
          (r.op = 0 → ∃ t, exec .peerRequest s = .next t ∧ answers t 0 (readBytes s.mem pa r.len) ∧ t.mem = s.mem) ∧
          (r.op = 1 → r.data.length = r.len → ∃ t, exec .peerRequest s = .next t ∧ answers t 0 [] ∧ t.mem = writeBytes s.mem pa r.data)))) ∧
    (r.phase = 2 → exec .peerRequest s = .next (sendTo s (r.data.headD 0).toNat (r.data.drop 1)))

/-! ## The machine as a whole: a step, words, reset, stops (R5, R26, R27, R46, R88-R90, R108-R121, R344) -/

namespace Sys2Proof.Machine

/-- The event at place k of the agenda is due, as all before it are, and has rank r in the order of its cycle's events. -/
def DueAt (s : State) (k r : Nat) (i : Instr) (a : EvArg) : Prop :=
  (∃ t, s.agenda[k]? = some (t, i, a)) ∧ (∀ j ≤ k, ∀ e, s.agenda[j]? = some e → e.1 ≤ s.now) ∧ eventRank s i a = some r

/-- No event takes place, the main side is on, and the operands of the cycle have been accepted: party p is offered its issue. -/
def Offered (s : State) (p : Nat) : Prop :=
  (∀ k r i a, ¬ DueAt s k r i a) ∧ s.powered = true ∧ s.now < s.settledAt ∧ s.offered ≤ lateMark ∧ nextParty s = some p

/-- The main side is off, its firmware does not verify, and no image that would is on its way (R26, R27). -/
def MainSideOff (s : State) : Prop :=
  s.powered = false ∧ fwGood s s.fwActive = false ∧ ∀ e ∈ s.agenda, ∀ f, e.2.1 = .stageFirmware → e.2.2 = .fw f → fwGood s f = false

end Sys2Proof.Machine

/-- R5, R88-R90, R344: a step is exec of the event that is due, the first in the order of a cycle's events, with its operands; or else exec of what the party offered its issue has
fetched: the word at the pc that decodes for a sequencer or stream program, the next word of a running snippet, or the selected firing of a PE; a
word that does not decode faults ILLEGAL. The order of parties in a cycle is the model's own (log 1). -/
def Obligations.AStepRunsTheInstruction : Prop :=
  (∀ (s : State) (k r : Nat) (i : Instr) (a : EvArg), DueAt s k r i a → (∀ j q h b, DueAt s j q h b → r < q ∨ (r = q ∧ k ≤ j)) →
    (serves s i = true → step s = exec i { s with agenda := s.agenda.eraseIdx k, cur := .ev a }) ∧
    (serves s i = false → step s = .next { s with agenda := s.agenda.eraseIdx k })) ∧
  (∀ (s : State) (p : Nat), Offered s p →
    let c := p / 66
    let k := s.core c
    let u := { s with offered := p + 1 }
    (p % 66 = 0 → k.issues s.now = true → k.seq.wait = .none ∨ endsNow u c = false →
      (∀ w v, fetchWords k.prog k.seq.pc = some (w, v) →
        (k.progPad.contains (k.seq.pc / 4) = true → step s = .next (seqNext u c 4 1)) ∧
        (k.progPad.contains (k.seq.pc / 4) = false → (∀ i, decodeSeq w v = some i → step s = exec i { u with cur := .seq c }) ∧
          (decodeSeq w v = none → step s = .next (seqFault u c 1)))) ∧
      (fetchWords k.prog k.seq.pc = none → step s = .next (seqFault u c 1))) ∧
    (p % 66 = 1 → k.strm.running = true → k.stopped = false → k.gated = false → k.strm.next ≤ s.now →
      (∀ w v, fetchWords k.sprog k.strm.pc = some (w, v) → k.sprogPad.contains (k.strm.pc / 4) = false →
        (∀ i, decodeStrm w v = some i → step s = exec i { u with cur := .strm c }) ∧
        (decodeStrm w v = none → step s = .next (strmFault u c 1))) ∧
      (fetchWords k.sprog k.strm.pc = none → step s = .next (strmFault u c 1))) ∧
    (∀ pe, p % 66 = pe + 2 →
      (∀ r w, AMap.find? k.snips pe = some r → AMap.find? k.nodes (nkey r.cctx pe r.pc) = some w →
        (isDet s c = true → step s = exec w.instr { u with cur := .snip c pe }) ∧
        (isDet s c = false → step s = exec w.instr { noteReady u c pe (readyNow u c k.loaded pe) with cur := .snip c pe })) ∧
      (AMap.find? k.snips pe = none → k.fires s.now = true → isDet s c = true →
        (detPick u c k.loaded pe = none → step s = .next u) ∧
        (∀ x, detPick u c k.loaded pe = some x → step s = exec x.2.1 { u with cur := .node c k.loaded pe x.1 x.2.2.1 })) ∧
      (AMap.find? k.snips pe = none → k.fires s.now = true → isDet s c = false →
        let rs := readyNow u c k.loaded pe
        (freePick rs = none → step s = .next (noteReady u c pe rs)) ∧
        (∀ x, freePick rs = some x →
          step s = exec x.2.1 { noteReady u c pe (rs.filter fun r => r.2 != x) with cur := .node c k.loaded pe x.1 x.2.2.1 }))))

/-- R108, R117, R119: the words that the encoding chapter writes out decode to the instructions it names. -/
def Obligations.WordsDecodeAsTheSpecWritesThem : Prop :=
  decodeNode 0x2F301F10 = some (.snip ⟨3, 0, 1, 15, 1, 0⟩) ∧ decodeNode 0x42890F00 = some (.fmul ⟨8, 9, 0, 15, 0, 0⟩) ∧
  decodeNode 0x400DAF00 = some (.fadd ⟨0, 13, 10, 15, 0, 0⟩) ∧ decodeNode 0x30000000 = some (.snipEnd ⟨0, 0, 0, 0, 0, 0⟩) ∧
  decodeSeq 0x0B200000 0x00012345 = some (.li ⟨4, 0, 0, 0⟩ 0x00012345) ∧ decodeSeq 0x0318C1FB 0 = some (.addi ⟨3, 3, 0, 0x1FB⟩) ∧
  decodeSeq 0x1100C1FF 0 = some (.bne ⟨0, 3, 0, 0x1FF⟩) ∧ decodeSeq 0x2700E040 0 = some (.seqXfence ⟨0, 3, 16, 0x40⟩)

/-- R108, R116, R118, R120: every instruction that has words is what its words decode to, with every field at every value; and no word
decodes to an event. -/
def Obligations.EncodedInstructionsDecode : Prop := ∀ i : Instr, Laws.Coding.Statement i

/-- R108, R116: a word that decodes is the encoding of what it decodes to, so no bit of it is dropped. -/
def Obligations.DecodedWordsEncode : Prop :=
  (∀ w i, decodeNode w = some i → encode i = [w]) ∧
  (∀ w v i, decodeSeq w v = some i → encode i = if isLong (opOf w) then [w, v] else [w]) ∧
  ∀ w v i, decodeStrm w v = some i → encode i = if isLong (opOf w) then [w, v] else [w]

/-- R21, R280, R308, R310, R401, R405-R407, R451: after reset no core runs a launch, every queue is SUSPENDED with WEIGHT 1, every context FREE,
the command registers answer V, CAP is nominal, the Banker's registers hold their reset values, ports are DOWN, and memory is canonical. -/
def Obligations.ResetLeavesTheMachineReady : Prop :=
  let s := State.reset
  (∀ c, (s.core c).launch = none ∧ (s.core c).seq.running = false ∧ (s.core c).strm.running = false) ∧
  (∀ q, (s.queue q).state = .suspended ∧ (s.queue q).weight = 1 ∧ (s.queue q).en = false) ∧ (∀ x, (s.ctx x).state = .free) ∧
  (s.ctxrsp, s.pgrsp) = (dword (2 ^ 63), dword (2 ^ 63)) ∧
  (∀ d, (s.die d).cap = 81920 ∧ (s.die d).d = 0 ∧ (s.die d).bkctl = 0x0000020000800020 ∧ (s.die d).banks = [] ∧ (s.die d).tlb = []) ∧
  (∀ p, (s.port p).state = .down ∧ (s.port p).hops = 15) ∧ s.count = 0 ∧ s.poison = [] ∧ s.agenda = [] ∧ Memory.wf s.mem = true

/-- No instruction stops: in every state each one, and every step, answers a next state. -/
def Obligations.NoInstructionStops : Prop :=
  (∀ (i : Instr) (s : State), ∃ t, exec i s = .next t) ∧ ∀ s : State, ∃ t, step s = .next t

/-- R26, R27: with the main side off and firmware that does not verify, every step goes on, and leaves it so. -/
def Obligations.UnverifiedFirmwareNeverRuns : Prop :=
  ∀ s : State, MainSideOff s → ∃ t, step s = .next t ∧ MainSideOff t

/-- R46: ShakerNext is the three shifts and exclusive-ors of the rule, and no state reached from a non-zero one is zero. -/
def Obligations.ShakerStatesStayNonZero : Prop :=
  ∀ x : Word, (∃ y z : Word, y.toNat = (x.toNat ^^^ (x.toNat * 2 ^ 13)) % 2 ^ 32 ∧ z.toNat = y.toNat ^^^ (y.toNat / 2 ^ 17) ∧
    (shakerNext x).toNat = (z.toNat ^^^ (z.toNat * 2 ^ 5)) % 2 ^ 32) ∧ (x ≠ 0 → shakerNext x ≠ 0)
/-! ## Where the control and barrier instructions complete (R149-R154, R302-R306, R346-R359, R374, R375, R381-R391) -/

/-- R92-R94, R149-R152, R154, R346, R353-R357, R359: each of DONE, MARK, CALL, RET, SNIP, END, FORK, JOIN, CTX, STAGE, PRED, WAITEV and XFENCE, with the
events of WAITEV, goes on to its own effect wherever its operands are there and what it waits for holds. -/
def Obligations.ControlInstructionsComplete : Prop :=
  (∀ (f : NF) (s : State) (q : Firing), NodeReady s (.done f) q → q.x = false → ∃ t, exec (.done f) s = .next t ∧
    (t.core q.core).scnt = ((s.core q.core).scnt + 1) % 2 ^ 32) ∧
  (∀ (f : NF) (s : State) (q : Firing), NodeReady s (.mark f) q → q.e = false → q.x = false → ∃ t, exec (.mark f) s = .next t ∧
    AMap.get (t.core q.core).issued q.pe 0 = s.now + 1 ∧ (t.core q.core).matchSt = (operandsTaken s q).matchSt) ∧
  (∀ (f : NF) (s : State) (q : Firing) (i : Nat), NodeReady s (.call f) q → q.e = false → q.x = false → 1 ≤ i → i ≤ 255 →
    tagIsFree (s.core q.core) s.now i = true → (∀ j, 1 ≤ j → j < i → tagIsFree (s.core q.core) s.now j = false) →
    ∃ t, exec (.call f) s = .next t ∧ AMap.find? (t.core q.core).tags i = some (q.tag, q.lit, q.cctx)) ∧
  (∀ (f : NF) (s : State) (q : Firing) (caller : Tag) (w : Word) (cctx : Nat), NodeReady s (.ret f) q → q.x = false → q.tag.ctag ≠ 0 →
    AMap.find? (s.core q.core).tags q.tag.ctag.toNat = some (caller, w, cctx) →
    canReturn (s.core q.core) cctx (w.extractLsb' 6 6).toNat (w.extractLsb' 0 6).toNat
      ⟨if q.a.vec then q.a.lanes else [q.a.lane 0], { caller with itag := fixItag caller.itag }, none, q.m, q.l, q.e⟩ (w.getLsbD 12) = true →
    ∃ t, exec (.ret f) s = .next t ∧ AMap.find? (t.core q.core).tags q.tag.ctag.toNat = none) ∧
  (∀ (f : NF) (s : State) (q : Firing), NodeReady s (.snip f) q → q.e = false → q.x = false → ∃ t r, exec (.snip f) s = .next t ∧
    AMap.find? (t.core q.core).snips q.pe = some r ∧ (r.cctx, r.slot, r.pc) = (q.cctx, q.slot, q.slot + 1)) ∧
  (∀ (f : NF) (s : State) (c pe : Nat) (r : SnipRun) (w : Slot), s.cur = .snip c pe → AMap.find? (s.core c).snips pe = some r →
    AMap.find? (s.core c).nodes (nkey r.cctx pe r.slot) = some w → AMap.get (s.core c).issued pe 0 ≠ s.now + 1 → r.endAt ≤ s.now →
    ∃ t, exec (.snipEnd f) s = .next t ∧ AMap.find? (t.core c).snips pe = none) ∧
  ∀ (s : State) (c : Nat) (f : CF),
    let k := s.core c
    let n := f.imm.toNat % 4
    let g := greg k f.a.toNat
    let on := fun (t : State) => (t.core c).seq.pc = k.seq.pc + 4
    let took := fun (t : State) (v : DWord) => on t ∧ (f.d ≠ 0 → AMap.get (t.core c).seq.g f.d.toNat 0 = v)
    (SeqReady s c ((List.range 32).map (BitVec.ofNat 5)) → k.forked = false → ∃ t, exec (.fork f) s = .next t ∧ on t ∧
      (t.core c).forked = true ∧ (t.core c).loaded = n) ∧
    (SeqReady s c [] → k.forked = true → joinHolds s c = true → ∃ t, exec (.join f) s = .next t ∧ on t) ∧
    (SeqReady s c [] → k.seq.wait = .none → ∃ t, exec (.ctx f) s = .next t ∧
      (k.loaded = n ∨ k.forked = false → on t ∧ (t.core c).loaded = n) ∧
      (k.loaded ≠ n → k.forked = true → (t.core c).seq.wait = .switch n s.now)) ∧
    (∀ o, SeqReady s c [f.a] → k.seq.wait = .armed o → stageHolds s c (f.imm.toNat / 4 % 4) g = true → ∃ t, exec (.stage f) s = .next t ∧
      (t.core c).seq.wait = .switch n s.now) ∧
    (SeqReady s c [] → ∃ t, exec (.pred f) s = .next t ∧ on t ∧ bitAt (timed s.now 0 (t.core c).pcon) (f.imm.toNat % 16) = f.imm.getLsbD 4) ∧
    (SeqReady s c [f.a, f.d] →
      (n = 2 → g.toNat ≤ s.count.toNat → ∃ t, exec (.waitev f) s = .next t ∧ took t s.count) ∧
      (n < 2 → g.toNat < 16 → lineAt s c g.toNat s.now = (n == 0) → ∃ t, exec (.waitev f) s = .next t ∧ took t s.count) ∧
      (∀ x v, n = 3 → k.seq.wait = .poll x (some v) → v ≠ 0 → ∃ t, exec (.waitev f) s = .next t ∧ took t v)) ∧
    (∀ l, SeqReady s c [] → k.seq.wait = .fence l none → allPerformed s c l = true →
      cutOf s c (!(pathsOf (f.imm.toNat % 128)).isEmpty) (f.b.toNat / 4) = none → ∃ t, exec (.seqXfence f) s = .next t ∧ on t) ∧
    (SeqReady s c [] → k.seq.wait = .none → f.b.toNat / 4 ≠ 5 → outstanding s c (pathsOf (f.imm.toNat % 128)) (f.b.toNat / 4) = [] →
      bufferedStores s c (pathsOf (f.imm.toNat % 128)) = [] → cutOf s c (!(pathsOf (f.imm.toNat % 128)).isEmpty) (f.b.toNat / 4) = none →
      ∃ t, exec (.seqXfence f) s = .next t ∧ on t) ∧
    (Happens s [c] → k.stopped = false → k.gated = false →
      (∀ x d, k.seq.wait = .until x d → x ≤ s.count.toNat → ∃ t, exec .waitevTimeReached s = .next t ∧ on t ∧
        (d ≠ 0 → AMap.get (t.core c).seq.g d 0 = s.count)) ∧
      (∀ x v y, k.seq.wait = .poll x v → seqAddr s c x = .ok y → ∃ t, exec .waitevPoll s = .next t ∧ (s.now + 256, .waitevPoll, .nums [c]) ∈ t.agenda))

/-- R302, R304, R306, R374, R375, R380-R382, R391: each of TRAP, MARKER, FLTRD, SEAM, GUARD, BARINI, BARARV, BARAW and BARWT, and the events of a trap
and of a barrier's entry, goes on to its own effect under the conditions of its rule. -/
def Obligations.GroupAndBarrierInstructionsComplete : Prop :=
  (∀ (s : State) (c n : Nat) (l : Launch) (f : CF), s.launchOf c = some (n, l) →
    let k := s.core c
    let base := (s.ctx l.ctx).ring.1
    let w := greg k f.a.toNat
    let took := fun (t : State) (v : DWord) => (t.core c).seq.pc = k.seq.pc + 4 ∧ (f.d ≠ 0 → AMap.get (t.core c).seq.g f.d.toNat 0 = v)
    (∀ i v, SeqReady s c [f.a, f.d] → k.seq.wait = .trap i (some v) → v.getLsbD 63 = true → ∃ t, exec (.trap f) s = .next t ∧
      took t (v &&& 0x7FFFFFFFFFFFFFFF#64)) ∧
    (∀ i v, Happens s [c] → k.stopped = false → k.gated = false → k.seq.wait = .trap i v → ∃ t, exec .trapPoll s = .next t ∧
      (s.now + 256, .trapPoll, .nums [c]) ∈ t.agenda) ∧
    (SeqReady s c [f.d] → ∃ t, exec (.marker f) s = .next t ∧ (l.snapOn s.now = false → took t 0) ∧
      (l.snapOn s.now = true → (t.core c).seq.wait = .cut l.interval f.d.toNat ∧ (s.now, .cut, .nums [n, c]) ∈ t.agenda)) ∧
    (∀ r, SeqReady s c [f.a, f.d] → f.imm = 8 → reach s c .virt base 16 false = .ok r → seqBehind s c .virt base 16 r = false →
      ∃ t, exec (.fltrd f) s = .next t ∧ (t.core c).seq.pc = k.seq.pc + 4 ∧ t.mem = s.mem) ∧
    (SeqReady s c [f.a, f.d] → ∃ t, exec (.seam f) s = .next t ∧ took t (dword (openSeams k s.now))) ∧
    (SeqReady s c [f.a, f.d] → f.imm.toNat < 2 ∨ (f.imm = 2 ∧ sinkOk s l w = true) → ∃ t, exec (.guard f) s = .next t ∧
      took t (dword l.gdrop.toNat))) ∧
  (∀ (s : State) (c : Nat) (f : CF),
    let k := s.core c
    let w := greg k f.a.toNat
    let key := w.toNat
    let b := s.bar key
    let sent := fun (t : State) (op : Nat) => ∃ id o, AMap.find? t.ops id = some o ∧ (o.core, o.op, o.target) = (c, op, key) ∧
      o.half = s.now + barTime c (key / 4096) ∧ (o.half, .barrierArrival, .nums [id]) ∈ t.agenda
    (SeqReady s c [f.a, f.b, f.d] → Fresh k → barWord w = true →
      (barConfig (greg k f.b.toNat).toNat = true → foreign s c key = false → ∃ t, exec (.barini f) s = .next t ∧ sent t 0x30) ∧
      (foreign s c key = false → (∀ x ∈ b.waiters, x.1 ≠ c) → b.releases ((greg k f.b.toNat).extractLsb' 0 16) = true →
        ∃ t, exec (.barwt f) s = .next t ∧ (t.core c).seq.wait = .answer) ∧
      (foreign s c key = false → (∀ x ∈ b.waiters, x.1 ≠ c) → b.releases ((greg k f.b.toNat).extractLsb' 0 16) = false →
        ∃ t, exec (.barwt f) s = .next t ∧ (c, (greg k f.b.toNat).extractLsb' 0 16) ∈ (t.bar key).waiters)) ∧
    (SeqReady s c [f.a, f.d] → Fresh k → arrivalOk s c w = true → Clear s c (b.scope + 3) →
      (∃ t, exec (.bararv f) s = .next t ∧ (t.core c).seq.pc = k.seq.pc + 4 ∧ sent t 0x31) ∧
      ∃ t, exec (.baraw f) s = .next t ∧ (t.core c).seq.wait = .arrived none ∧ sent t 0x33)) ∧
  (∀ (s : State) (id : Nat) (o : UnitOp), OpArrives s id o barrierOps → o.queue = none → o.op = 0x31 → (s.core o.core).launch = some o.launch →
    let b := s.bar o.target
    b.state ≠ .idle → b.state ≠ .broken → b.count + o.val.toNat < b.expect →
    ∃ t, exec .barrierArrival s = .next t ∧ (t.bar o.target).state = .counting ∧ (t.bar o.target).count = b.count + o.val.toNat) ∧
  (∀ (s : State) (key n : Nat), let b := s.bar key
    (Happens s [key, n, 1] → b.state = .counting → b.t0 = n → b.tmo ≠ 0 → 0 < b.count → b.queue = [] → ∃ t, exec .barrierTimeout s = .next t ∧
      (t.bar key).state = .broken ∧ (t.bar key).count = 0) ∧
    (∀ pkg, Happens s [pkg, key, b.gang, b.gen.toNat] → b.scope = 2 → b.state = .counting → pkg ∉ b.arrives →
      (barMembers s b).all (b.arrives ++ [pkg]).contains = false → ∃ t, exec .arrive s = .next t ∧ (t.bar key).arrives = b.arrives ++ [pkg]) ∧
    (Happens s [key, b.gang, b.gen.toNat] → (∀ p ∈ s.ops, ¬ (p.2.op ∈ barrierOps ∧ p.2.target = key ∧ p.2.half ≤ s.now)) →
      b.scope = 2 → b.state = .counting → b.count = b.expect → b.queue = [] → ∃ t, exec .trip s = .next t ∧ (t.bar key).state = .tripped ∧
      (t.bar key).gen = b.gen + 1)) ∧
  (∀ (s : State) (c key g down w : Nat), Happens s [c, key, g, down, w] → (s.core c).launch.isSome = true → (s.core c).seq.wait = .answer →
    outstanding s c [.seq] ((s.bar key).scope + 3) = [] → ∃ t, exec .barrierTrip s = .next t ∧ (t.core c).seq.pc = (s.core c).seq.pc + 4 ∧
    (t.core c).seq.wait = .none)
end

