-- ==== Sys2Proof/Laws/Dispatch.lean ====
section
/-! SUPPORT. What exec answers for each constructor: its meaning. -/

namespace Sys2Proof.Machine

theorem exec_add {f} (s : State) : exec (.add f) s = execAdd f s := rfl
theorem exec_sub {f} (s : State) : exec (.sub f) s = execSub f s := rfl
theorem exec_adds {f} (s : State) : exec (.adds f) s = execAdds f s := rfl
theorem exec_subs {f} (s : State) : exec (.subs f) s = execSubs f s := rfl
theorem exec_mul {f} (s : State) : exec (.mul f) s = execMul f s := rfl
theorem exec_mulh {f} (s : State) : exec (.mulh f) s = execMulh f s := rfl
theorem exec_mulhn {f} (s : State) : exec (.mulhn f) s = execMulhn f s := rfl
theorem exec_min {f} (s : State) : exec (.min f) s = execMin f s := rfl
theorem exec_max {f} (s : State) : exec (.max f) s = execMax f s := rfl
theorem exec_minn {f} (s : State) : exec (.minn f) s = execMinn f s := rfl
theorem exec_maxn {f} (s : State) : exec (.maxn f) s = execMaxn f s := rfl
theorem exec_abs {f} (s : State) : exec (.abs f) s = execAbs f s := rfl
theorem exec_neg {f} (s : State) : exec (.neg f) s = execNeg f s := rfl
theorem exec_and {f} (s : State) : exec (.and f) s = execAnd f s := rfl
theorem exec_or {f} (s : State) : exec (.or f) s = execOr f s := rfl
theorem exec_xor {f} (s : State) : exec (.xor f) s = execXor f s := rfl
theorem exec_andn {f} (s : State) : exec (.andn f) s = execAndn f s := rfl
theorem exec_not {f} (s : State) : exec (.not f) s = execNot f s := rfl
theorem exec_shl {f} (s : State) : exec (.shl f) s = execShl f s := rfl
theorem exec_shr {f} (s : State) : exec (.shr f) s = execShr f s := rfl
theorem exec_sar {f} (s : State) : exec (.sar f) s = execSar f s := rfl
theorem exec_rot {f} (s : State) : exec (.rot f) s = execRot f s := rfl
theorem exec_clz {f} (s : State) : exec (.clz f) s = execClz f s := rfl
theorem exec_popc {f} (s : State) : exec (.popc f) s = execPopc f s := rfl
theorem exec_brev {f} (s : State) : exec (.brev f) s = execBrev f s := rfl
theorem exec_lea {f} (s : State) : exec (.lea f) s = execLea f s := rfl
theorem exec_cmp {f} (s : State) : exec (.cmp f) s = execCmp f s := rfl
theorem exec_cmpn {f} (s : State) : exec (.cmpn f) s = execCmpn f s := rfl
theorem exec_tst {f} (s : State) : exec (.tst f) s = execTst f s := rfl
theorem exec_sel {f} (s : State) : exec (.sel f) s = execSel f s := rfl
theorem exec_mov {f} (s : State) : exec (.mov f) s = execMov f s := rfl
theorem exec_steer {f} (s : State) : exec (.steer f) s = execSteer f s := rfl
theorem exec_merge {f} (s : State) : exec (.merge f) s = execMerge f s := rfl
theorem exec_gate {f} (s : State) : exec (.gate f) s = execGate f s := rfl
theorem exec_copy {f} (s : State) : exec (.copy f) s = execCopy f s := rfl
theorem exec_sink {f} (s : State) : exec (.sink f) s = execSink f s := rfl
theorem exec_const {f} (s : State) : exec (.const f) s = execConst f s := rfl
theorem exec_filt {f} (s : State) : exec (.filt f) s = execFilt f s := rfl
theorem exec_cmpct {f} (s : State) : exec (.cmpct f) s = execCmpct f s := rfl
theorem exec_iter {f} (s : State) : exec (.iter f) s = execIter f s := rfl
theorem exec_done {f} (s : State) : exec (.done f) s = execDone f s := rfl
theorem exec_mark {f} (s : State) : exec (.mark f) s = execMark f s := rfl
theorem exec_call {f} (s : State) : exec (.call f) s = execCall f s := rfl
theorem exec_ret {f} (s : State) : exec (.ret f) s = execRet f s := rfl
theorem exec_tagrd {f} (s : State) : exec (.tagrd f) s = execTagrd f s := rfl
theorem exec_tagwr {f} (s : State) : exec (.tagwr f) s = execTagwr f s := rfl
theorem exec_snip {f} (s : State) : exec (.snip f) s = execSnip f s := rfl
theorem exec_snipEnd {f} (s : State) : exec (.snipEnd f) s = execSnipEnd f s := rfl
theorem exec_errchk {f} (s : State) : exec (.errchk f) s = execErrchk f s := rfl
theorem exec_sync {f} (s : State) : exec (.sync f) s = execSync f s := rfl
theorem exec_count {f} (s : State) : exec (.count f) s = execCount f s := rfl
theorem exec_fadd {f} (s : State) : exec (.fadd f) s = execFadd f s := rfl
theorem exec_fsub {f} (s : State) : exec (.fsub f) s = execFsub f s := rfl
theorem exec_fmul {f} (s : State) : exec (.fmul f) s = execFmul f s := rfl
theorem exec_fma {f} (s : State) : exec (.fma f) s = execFma f s := rfl
theorem exec_fmin {f} (s : State) : exec (.fmin f) s = execFmin f s := rfl
theorem exec_fmax {f} (s : State) : exec (.fmax f) s = execFmax f s := rfl
theorem exec_fabs {f} (s : State) : exec (.fabs f) s = execFabs f s := rfl
theorem exec_fneg {f} (s : State) : exec (.fneg f) s = execFneg f s := rfl
theorem exec_fcmp {f} (s : State) : exec (.fcmp f) s = execFcmp f s := rfl
theorem exec_frcp {f} (s : State) : exec (.frcp f) s = execFrcp f s := rfl
theorem exec_frsq {f} (s : State) : exec (.frsq f) s = execFrsq f s := rfl
theorem exec_fex2 {f} (s : State) : exec (.fex2 f) s = execFex2 f s := rfl
theorem exec_flg2 {f} (s : State) : exec (.flg2 f) s = execFlg2 f s := rfl
theorem exec_fcls {f} (s : State) : exec (.fcls f) s = execFcls f s := rfl
theorem exec_hadd {f} (s : State) : exec (.hadd f) s = execHadd f s := rfl
theorem exec_hmul {f} (s : State) : exec (.hmul f) s = execHmul f s := rfl
theorem exec_hfma {f} (s : State) : exec (.hfma f) s = execHfma f s := rfl
theorem exec_cvtf {f} (s : State) : exec (.cvtf f) s = execCvtf f s := rfl
theorem exec_cvte {f} (s : State) : exec (.cvte f) s = execCvte f s := rfl
theorem exec_cvtq {f} (s : State) : exec (.cvtq f) s = execCvtq f s := rfl
theorem exec_xpnd {f} (s : State) : exec (.xpnd f) s = execXpnd f s := rfl
theorem exec_cvtfi {f} (s : State) : exec (.cvtfi f) s = execCvtfi f s := rfl
theorem exec_cvtif {f} (s : State) : exec (.cvtif f) s = execCvtif f s := rfl
theorem exec_seed {f} (s : State) : exec (.seed f) s = execSeed f s := rfl
theorem exec_rsum {f} (s : State) : exec (.rsum f) s = execRsum f s := rfl
theorem exec_rmin {f} (s : State) : exec (.rmin f) s = execRmin f s := rfl
theorem exec_rmax {f} (s : State) : exec (.rmax f) s = execRmax f s := rfl
theorem exec_shuf {f} (s : State) : exec (.shuf f) s = execShuf f s := rfl
theorem exec_bcast {f} (s : State) : exec (.bcast f) s = execBcast f s := rfl
theorem exec_pack {f} (s : State) : exec (.pack f) s = execPack f s := rfl
theorem exec_unpk {f} (s : State) : exec (.unpk f) s = execUnpk f s := rfl
theorem exec_lane {f} (s : State) : exec (.lane f) s = execLane f s := rfl
theorem exec_ld {f} (s : State) : exec (.ld f) s = execLd f s := rfl
theorem exec_st {f} (s : State) : exec (.st f) s = execSt f s := rfl
theorem exec_ldx {f} (s : State) : exec (.ldx f) s = execLdx f s := rfl
theorem exec_stx {f} (s : State) : exec (.stx f) s = execStx f s := rfl
theorem exec_lds {f} (s : State) : exec (.lds f) s = execLds f s := rfl
theorem exec_sts {f} (s : State) : exec (.sts f) s = execSts f s := rfl
theorem exec_aadd {f} (s : State) : exec (.aadd f) s = execAadd f s := rfl
theorem exec_afadd {f} (s : State) : exec (.afadd f) s = execAfadd f s := rfl
theorem exec_amin {f} (s : State) : exec (.amin f) s = execAmin f s := rfl
theorem exec_amax {f} (s : State) : exec (.amax f) s = execAmax f s := rfl
theorem exec_aminn {f} (s : State) : exec (.aminn f) s = execAminn f s := rfl
theorem exec_amaxn {f} (s : State) : exec (.amaxn f) s = execAmaxn f s := rfl
theorem exec_aand {f} (s : State) : exec (.aand f) s = execAand f s := rfl
theorem exec_aor {f} (s : State) : exec (.aor f) s = execAor f s := rfl
theorem exec_axor {f} (s : State) : exec (.axor f) s = execAxor f s := rfl
theorem exec_axch {f} (s : State) : exec (.axch f) s = execAxch f s := rfl
theorem exec_acas {f} (s : State) : exec (.acas f) s = execAcas f s := rfl
theorem exec_fence {f} (s : State) : exec (.fence f) s = execFence f s := rfl
theorem exec_xfence {f} (s : State) : exec (.xfence f) s = execXfence f s := rfl
theorem exec_prft {f} (s : State) : exec (.prft f) s = execPrft f s := rfl
theorem exec_wbl {f} (s : State) : exec (.wbl f) s = execWbl f s := rfl
theorem exec_cbput {f} (s : State) : exec (.cbput f) s = execCbput f s := rfl
theorem exec_cbget {f} (s : State) : exec (.cbget f) s = execCbget f s := rfl
theorem exec_cbwait {f} (s : State) : exec (.cbwait f) s = execCbwait f s := rfl
theorem exec_cbroom {f} (s : State) : exec (.cbroom f) s = execCbroom f s := rfl
theorem exec_cntadd {f} (s : State) : exec (.cntadd f) s = execCntadd f s := rfl
theorem exec_mxi {f} (s : State) : exec (.mxi f) s = execMxi f s := rfl
theorem exec_mxis {f} (s : State) : exec (.mxis f) s = execMxis f s := rfl
theorem exec_mxz {f} (s : State) : exec (.mxz f) s = execMxz f s := rfl
theorem exec_mxpeek {f} (s : State) : exec (.mxpeek f) s = execMxpeek f s := rfl
theorem exec_mxrd {f} (s : State) : exec (.mxrd f) s = execMxrd f s := rfl
theorem exec_mxdr {f} (s : State) : exec (.mxdr f) s = execMxdr f s := rfl
theorem exec_mxspl {f} (s : State) : exec (.mxspl f) s = execMxspl f s := rfl
theorem exec_mxfil {f} (s : State) : exec (.mxfil f) s = execMxfil f s := rfl
theorem exec_mxadd {f} (s : State) : exec (.mxadd f) s = execMxadd f s := rfl
theorem exec_mxcls {f} (s : State) : exec (.mxcls f) s = execMxcls f s := rfl
theorem exec_mxst {f} (s : State) : exec (.mxst f) s = execMxst f s := rfl
theorem exec_mxwt {f} (s : State) : exec (.mxwt f) s = execMxwt f s := rfl
theorem exec_mxpol {f} (s : State) : exec (.mxpol f) s = execMxpol f s := rfl
theorem exec_cfw {f} (s : State) : exec (.cfw f) s = execCfw f s := rfl
theorem exec_cfwr {f} (s : State) : exec (.cfwr f) s = execCfwr f s := rfl
theorem exec_stamp {f} (s : State) : exec (.stamp f) s = execStamp f s := rfl
theorem exec_disp {f} (s : State) : exec (.disp f) s = execDisp f s := rfl
theorem exec_binnx {f} (s : State) : exec (.binnx f) s = execBinnx f s := rfl
theorem exec_binwt {f} (s : State) : exec (.binwt f) s = execBinwt f s := rfl
theorem exec_cmbadd {f} (s : State) : exec (.cmbadd f) s = execCmbadd f s := rfl
theorem exec_cmbout {f} (s : State) : exec (.cmbout f) s = execCmbout f s := rfl
theorem exec_rwst {f} (s : State) : exec (.rwst f) s = execRwst f s := rfl
theorem exec_seqAdd {f} (s : State) : exec (.seqAdd f) s = execSeqAdd f s := rfl
theorem exec_seqSub {f} (s : State) : exec (.seqSub f) s = execSeqSub f s := rfl
theorem exec_addi {f} (s : State) : exec (.addi f) s = execAddi f s := rfl
theorem exec_seqMul {f} (s : State) : exec (.seqMul f) s = execSeqMul f s := rfl
theorem exec_seqAnd {f} (s : State) : exec (.seqAnd f) s = execSeqAnd f s := rfl
theorem exec_seqOr {f} (s : State) : exec (.seqOr f) s = execSeqOr f s := rfl
theorem exec_seqXor {f} (s : State) : exec (.seqXor f) s = execSeqXor f s := rfl
theorem exec_shli {f} (s : State) : exec (.shli f) s = execShli f s := rfl
theorem exec_shri {f} (s : State) : exec (.shri f) s = execShri f s := rfl
theorem exec_sari {f} (s : State) : exec (.sari f) s = execSari f s := rfl
theorem exec_li {f} {imm32} (s : State) : exec (.li f imm32) s = execLi f imm32 s := rfl
theorem exec_lih {f} {imm32} (s : State) : exec (.lih f imm32) s = execLih f imm32 s := rfl
theorem exec_slt {f} (s : State) : exec (.slt f) s = execSlt f s := rfl
theorem exec_sltn {f} (s : State) : exec (.sltn f) s = execSltn f s := rfl
theorem exec_beq {f} (s : State) : exec (.beq f) s = execBeq f s := rfl
theorem exec_bne {f} (s : State) : exec (.bne f) s = execBne f s := rfl
theorem exec_blt {f} (s : State) : exec (.blt f) s = execBlt f s := rfl
theorem exec_bge {f} (s : State) : exec (.bge f) s = execBge f s := rfl
theorem exec_bltn {f} (s : State) : exec (.bltn f) s = execBltn f s := rfl
theorem exec_bgen {f} (s : State) : exec (.bgen f) s = execBgen f s := rfl
theorem exec_jmp {f} {imm32} (s : State) : exec (.jmp f imm32) s = execJmp f imm32 s := rfl
theorem exec_jal {f} {imm32} (s : State) : exec (.jal f imm32) s = execJal f imm32 s := rfl
theorem exec_jr {f} (s : State) : exec (.jr f) s = execJr f s := rfl
theorem exec_ldg {f} (s : State) : exec (.ldg f) s = execLdg f s := rfl
theorem exec_stg {f} (s : State) : exec (.stg f) s = execStg f s := rfl
theorem exec_ldga {f} (s : State) : exec (.ldga f) s = execLdga f s := rfl
theorem exec_stgr {f} (s : State) : exec (.stgr f) s = execStgr f s := rfl
theorem exec_aaddg {f} (s : State) : exec (.aaddg f) s = execAaddg f s := rfl
theorem exec_acasg {f} (s : State) : exec (.acasg f) s = execAcasg f s := rfl
theorem exec_fork {f} (s : State) : exec (.fork f) s = execFork f s := rfl
theorem exec_join {f} (s : State) : exec (.join f) s = execJoin f s := rfl
theorem exec_ctx {f} (s : State) : exec (.ctx f) s = execCtx f s := rfl
theorem exec_stage {f} (s : State) : exec (.stage f) s = execStage f s := rfl
theorem exec_pred {f} (s : State) : exec (.pred f) s = execPred f s := rfl
theorem exec_waitev {f} (s : State) : exec (.waitev f) s = execWaitev f s := rfl
theorem exec_time {f} (s : State) : exec (.time f) s = execTime f s := rfl
theorem exec_seqXfence {f} (s : State) : exec (.seqXfence f) s = execSeqXfence f s := rfl
theorem exec_seam {f} (s : State) : exec (.seam f) s = execSeam f s := rfl
theorem exec_guard {f} (s : State) : exec (.guard f) s = execGuard f s := rfl
theorem exec_grpid {f} (s : State) : exec (.grpid f) s = execGrpid f s := rfl
theorem exec_gang {f} (s : State) : exec (.gang f) s = execGang f s := rfl
theorem exec_barini {f} (s : State) : exec (.barini f) s = execBarini f s := rfl
theorem exec_bararv {f} (s : State) : exec (.bararv f) s = execBararv f s := rfl
theorem exec_barwt {f} (s : State) : exec (.barwt f) s = execBarwt f s := rfl
theorem exec_baraw {f} (s : State) : exec (.baraw f) s = execBaraw f s := rfl
theorem exec_cntini {f} (s : State) : exec (.cntini f) s = execCntini f s := rfl
theorem exec_cntaddg {f} (s : State) : exec (.cntaddg f) s = execCntaddg f s := rfl
theorem exec_cntwz {f} (s : State) : exec (.cntwz f) s = execCntwz f s := rfl
theorem exec_quies {f} (s : State) : exec (.quies f) s = execQuies f s := rfl
theorem exec_enq {f} (s : State) : exec (.enq f) s = execEnq f s := rfl
theorem exec_pqpush {f} (s : State) : exec (.pqpush f) s = execPqpush f s := rfl
theorem exec_pqpop {f} (s : State) : exec (.pqpop f) s = execPqpop f s := rfl
theorem exec_dqpush {f} (s : State) : exec (.dqpush f) s = execDqpush f s := rfl
theorem exec_dqpop {f} (s : State) : exec (.dqpop f) s = execDqpop f s := rfl
theorem exec_dqsteal {f} (s : State) : exec (.dqsteal f) s = execDqsteal f s := rfl
theorem exec_cancel {f} (s : State) : exec (.cancel f) s = execCancel f s := rfl
theorem exec_seqDone {f} (s : State) : exec (.seqDone f) s = execSeqDone f s := rfl
theorem exec_promote {f} (s : State) : exec (.promote f) s = execPromote f s := rfl
theorem exec_demote {f} (s : State) : exec (.demote f) s = execDemote f s := rfl
theorem exec_tlbinv {f} (s : State) : exec (.tlbinv f) s = execTlbinv f s := rfl
theorem exec_slways {f} (s : State) : exec (.slways f) s = execSlways f s := rfl
theorem exec_bnkhint {f} (s : State) : exec (.bnkhint f) s = execBnkhint f s := rfl
theorem exec_pstat {f} (s : State) : exec (.pstat f) s = execPstat f s := rfl
theorem exec_bincfg {f} (s : State) : exec (.bincfg f) s = execBincfg f s := rfl
theorem exec_bintrg {f} (s : State) : exec (.bintrg f) s = execBintrg f s := rfl
theorem exec_binseal {f} (s : State) : exec (.binseal f) s = execBinseal f s := rfl
theorem exec_cmbcfg {f} (s : State) : exec (.cmbcfg f) s = execCmbcfg f s := rfl
theorem exec_cmbwt {f} (s : State) : exec (.cmbwt f) s = execCmbwt f s := rfl
theorem exec_spillcfg {f} (s : State) : exec (.spillcfg f) s = execSpillcfg f s := rfl
theorem exec_exmap {f} (s : State) : exec (.exmap f) s = execExmap f s := rfl
theorem exec_trap {f} (s : State) : exec (.trap f) s = execTrap f s := rfl
theorem exec_brk {f} (s : State) : exec (.brk f) s = execBrk f s := rfl
theorem exec_sysrd {f} (s : State) : exec (.sysrd f) s = execSysrd f s := rfl
theorem exec_syswr {f} (s : State) : exec (.syswr f) s = execSyswr f s := rfl
theorem exec_marker {f} (s : State) : exec (.marker f) s = execMarker f s := rfl
theorem exec_yield {f} (s : State) : exec (.yield f) s = execYield f s := rfl
theorem exec_halt {f} (s : State) : exec (.halt f) s = execHalt f s := rfl
theorem exec_fltrd {f} (s : State) : exec (.fltrd f) s = execFltrd f s := rfl
theorem exec_aredx {f} (s : State) : exec (.aredx f) s = execAredx f s := rfl
theorem exec_colwt {f} (s : State) : exec (.colwt f) s = execColwt f s := rfl
theorem exec_lnkst {f} (s : State) : exec (.lnkst f) s = execLnkst f s := rfl
theorem exec_sopen {f} {imm32} (s : State) : exec (.sopen f imm32) s = execSopen f imm32 s := rfl
theorem exec_sclose {f} (s : State) : exec (.sclose f) s = execSclose f s := rfl
theorem exec_sld {f} (s : State) : exec (.sld f) s = execSld f s := rfl
theorem exec_sst {f} (s : State) : exec (.sst f) s = execSst f s := rfl
theorem exec_sgth {f} (s : State) : exec (.sgth f) s = execSgth f s := rfl
theorem exec_ssct {f} (s : State) : exec (.ssct f) s = execSsct f s := rfl
theorem exec_scpy {f} (s : State) : exec (.scpy f) s = execScpy f s := rfl
theorem exec_smc {f} (s : State) : exec (.smc f) s = execSmc f s := rfl
theorem exec_scb {f} (s : State) : exec (.scb f) s = execScb f s := rfl
theorem exec_cbputs {f} (s : State) : exec (.cbputs f) s = execCbputs f s := rfl
theorem exec_cbwaits {f} (s : State) : exec (.cbwaits f) s = execCbwaits f s := rfl
theorem exec_swait {f} (s : State) : exec (.swait f) s = execSwait f s := rfl
theorem exec_send {f} (s : State) : exec (.send f) s = execSend f s := rfl
theorem exec_sloop {f} (s : State) : exec (.sloop f) s = execSloop f s := rfl
theorem exec_sbne {f} (s : State) : exec (.sbne f) s = execSbne f s := rfl
theorem exec_powerOn (s : State) : exec .powerOn s = execPowerOn s := rfl
theorem exec_moduleReset (s : State) : exec .moduleReset s = execModuleReset s := rfl
theorem exec_dieReset (s : State) : exec .dieReset s = execDieReset s := rfl
theorem exec_readTelemetry (s : State) : exec .readTelemetry s = execReadTelemetry s := rfl
theorem exec_readFaultLog (s : State) : exec .readFaultLog s = execReadFaultLog s := rfl
theorem exec_readTopology (s : State) : exec .readTopology s = execReadTopology s := rfl
theorem exec_replaceTopology (s : State) : exec .replaceTopology s = execReplaceTopology s := rfl
theorem exec_clearPort (s : State) : exec .clearPort s = execClearPort s := rfl
theorem exec_stageFirmware (s : State) : exec .stageFirmware s = execStageFirmware s := rfl
theorem exec_operatorCap (s : State) : exec .operatorCap s = execOperatorCap s := rfl
theorem exec_capUpdate (s : State) : exec .capUpdate s = execCapUpdate s := rfl
theorem exec_governorGrant (s : State) : exec .governorGrant s = execGovernorGrant s := rfl
theorem exec_grantArrival (s : State) : exec .grantArrival s = execGrantArrival s := rfl
theorem exec_balanceReturn (s : State) : exec .balanceReturn s = execBalanceReturn s := rfl
theorem exec_resultDelivery (s : State) : exec .resultDelivery s = execResultDelivery s := rfl
theorem exec_fabricEndToken (s : State) : exec .fabricEndToken s = execFabricEndToken s := rfl
theorem exec_stageSwitch (s : State) : exec .stageSwitch s = execStageSwitch s := rfl
theorem exec_guardDrop (s : State) : exec .guardDrop s = execGuardDrop s := rfl
theorem exec_guardErrorToken (s : State) : exec .guardErrorToken s = execGuardErrorToken s := rfl
theorem exec_streamElement (s : State) : exec .streamElement s = execStreamElement s := rfl
theorem exec_channelAccept (s : State) : exec .channelAccept s = execChannelAccept s := rfl
theorem exec_indexToken (s : State) : exec .indexToken s = execIndexToken s := rfl
theorem exec_passEnd (s : State) : exec .passEnd s = execPassEnd s := rfl
theorem exec_fqEntryStart (s : State) : exec .fqEntryStart s = execFqEntryStart s := rfl
theorem exec_kstepSelect (s : State) : exec .kstepSelect s = execKstepSelect s := rfl
theorem exec_kstepFetch (s : State) : exec .kstepFetch s = execKstepFetch s := rfl
theorem exec_kstepIssue (s : State) : exec .kstepIssue s = execKstepIssue s := rfl
theorem exec_kstepComplete (s : State) : exec .kstepComplete s = execKstepComplete s := rfl
theorem exec_perform (s : State) : exec .perform s = execPerform s := rfl
theorem exec_accessResponse (s : State) : exec .accessResponse s = execAccessResponse s := rfl
theorem exec_pageWalk (s : State) : exec .pageWalk s = execPageWalk s := rfl
theorem exec_wcDrain (s : State) : exec .wcDrain s = execWcDrain s := rfl
theorem exec_fillArrival (s : State) : exec .fillArrival s = execFillArrival s := rfl
theorem exec_orderSliceArrival (s : State) : exec .orderSliceArrival s = execOrderSliceArrival s := rfl
theorem exec_orderSliceRelease (s : State) : exec .orderSliceRelease s = execOrderSliceRelease s := rfl
theorem exec_nackRetry (s : State) : exec .nackRetry s = execNackRetry s := rfl
theorem exec_promotionRun (s : State) : exec .promotionRun s = execPromotionRun s := rfl
theorem exec_promotionForce (s : State) : exec .promotionForce s = execPromotionForce s := rfl
theorem exec_cut (s : State) : exec .cut s = execCut s := rfl
theorem exec_cutPeriod (s : State) : exec .cutPeriod s = execCutPeriod s := rfl
theorem exec_uncorrectableError (s : State) : exec .uncorrectableError s = execUncorrectableError s := rfl
theorem exec_rollback (s : State) : exec .rollback s = execRollback s := rfl
theorem exec_stopWaveArrival (s : State) : exec .stopWaveArrival s = execStopWaveArrival s := rfl
theorem exec_groupFrozen (s : State) : exec .groupFrozen s = execGroupFrozen s := rfl
theorem exec_quiescenceSweep (s : State) : exec .quiescenceSweep s = execQuiescenceSweep s := rfl
theorem exec_saveComplete (s : State) : exec .saveComplete s = execSaveComplete s := rfl
theorem exec_restore (s : State) : exec .restore s = execRestore s := rfl
theorem exec_watchdogExpiry (s : State) : exec .watchdogExpiry s = execWatchdogExpiry s := rfl
theorem exec_trapPoll (s : State) : exec .trapPoll s = execTrapPoll s := rfl
theorem exec_waitevPoll (s : State) : exec .waitevPoll s = execWaitevPoll s := rfl
theorem exec_ctxCreate (s : State) : exec .ctxCreate s = execCtxCreate s := rfl
theorem exec_ctxStop (s : State) : exec .ctxStop s = execCtxStop s := rfl
theorem exec_ctxResume (s : State) : exec .ctxResume s = execCtxResume s := rfl
theorem exec_ctxDestroy (s : State) : exec .ctxDestroy s = execCtxDestroy s := rfl
theorem exec_ctxRelease (s : State) : exec .ctxRelease s = execCtxRelease s := rfl
theorem exec_ctxcmdBadOp (s : State) : exec .ctxcmdBadOp s = execCtxcmdBadOp s := rfl
theorem exec_pgRetry (s : State) : exec .pgRetry s = execPgRetry s := rfl
theorem exec_pgRefuse (s : State) : exec .pgRefuse s = execPgRefuse s := rfl
theorem exec_pgInvalidatePage (s : State) : exec .pgInvalidatePage s = execPgInvalidatePage s := rfl
theorem exec_pgInvalidateContext (s : State) : exec .pgInvalidateContext s = execPgInvalidateContext s := rfl
theorem exec_pgcmdBadOp (s : State) : exec .pgcmdBadOp s = execPgcmdBadOp s := rfl
theorem exec_qtailWrite (s : State) : exec .qtailWrite s = execQtailWrite s := rfl
theorem exec_qcfgWrite (s : State) : exec .qcfgWrite s = execQcfgWrite s := rfl
theorem exec_qbaseWrite (s : State) : exec .qbaseWrite s = execQbaseWrite s := rfl
theorem exec_registerWrite (s : State) : exec .registerWrite s = execRegisterWrite s := rfl
theorem exec_headCheck (s : State) : exec .headCheck s = execHeadCheck s := rfl
theorem exec_dependenceEvaluation (s : State) : exec .dependenceEvaluation s = execDependenceEvaluation s := rfl
theorem exec_placementDecision (s : State) : exec .placementDecision s = execPlacementDecision s := rfl
theorem exec_imageDecode (s : State) : exec .imageDecode s = execImageDecode s := rfl
theorem exec_coreLoadComplete (s : State) : exec .coreLoadComplete s = execCoreLoadComplete s := rfl
theorem exec_spillPassPlace (s : State) : exec .spillPassPlace s = execSpillPassPlace s := rfl
theorem exec_pqArrival (s : State) : exec .pqArrival s = execPqArrival s := rfl
theorem exec_pqRefillStart (s : State) : exec .pqRefillStart s = execPqRefillStart s := rfl
theorem exec_pqRefillLand (s : State) : exec .pqRefillLand s = execPqRefillLand s := rfl
theorem exec_dequeArrival (s : State) : exec .dequeArrival s = execDequeArrival s := rfl
theorem exec_counterArrival (s : State) : exec .counterArrival s = execCounterArrival s := rfl
theorem exec_barrierArrival (s : State) : exec .barrierArrival s = execBarrierArrival s := rfl
theorem exec_barrierTrip (s : State) : exec .barrierTrip s = execBarrierTrip s := rfl
theorem exec_barrierTimeout (s : State) : exec .barrierTimeout s = execBarrierTimeout s := rfl
theorem exec_arrive (s : State) : exec .arrive s = execArrive s := rfl
theorem exec_trip (s : State) : exec .trip s = execTrip s := rfl
theorem exec_ready (s : State) : exec .ready s = execReady s := rfl
theorem exec_go (s : State) : exec .go s = execGo s := rfl
theorem exec_gangDeadline (s : State) : exec .gangDeadline s = execGangDeadline s := rfl
theorem exec_abandon (s : State) : exec .abandon s = execAbandon s := rfl
theorem exec_gangStart (s : State) : exec .gangStart s = execGangStart s := rfl
theorem exec_gangRetry (s : State) : exec .gangRetry s = execGangRetry s := rfl
theorem exec_bankerMove (s : State) : exec .bankerMove s = execBankerMove s := rfl
theorem exec_bankerHalve (s : State) : exec .bankerHalve s = execBankerHalve s := rfl
theorem exec_migrationComplete (s : State) : exec .migrationComplete s = execMigrationComplete s := rfl
theorem exec_dispatchArrival (s : State) : exec .dispatchArrival s = execDispatchArrival s := rfl
theorem exec_rowCounted (s : State) : exec .rowCounted s = execRowCounted s := rfl
theorem exec_resultArrival (s : State) : exec .resultArrival s = execResultArrival s := rfl
theorem exec_nullArrival (s : State) : exec .nullArrival s = execNullArrival s := rfl
theorem exec_bounceArrival (s : State) : exec .bounceArrival s = execBounceArrival s := rfl
theorem exec_refusalArrival (s : State) : exec .refusalArrival s = execRefusalArrival s := rfl
theorem exec_refusalRetry (s : State) : exec .refusalRetry s = execRefusalRetry s := rfl
theorem exec_refusalWaitExpiry (s : State) : exec .refusalWaitExpiry s = execRefusalWaitExpiry s := rfl
theorem exec_binTimerExpiry (s : State) : exec .binTimerExpiry s = execBinTimerExpiry s := rfl
theorem exec_groupFix (s : State) : exec .groupFix s = execGroupFix s := rfl
theorem exec_binGroupAdvance (s : State) : exec .binGroupAdvance s = execBinGroupAdvance s := rfl
theorem exec_binDrain (s : State) : exec .binDrain s = execBinDrain s := rfl
theorem exec_combineRowWrite (s : State) : exec .combineRowWrite s = execCombineRowWrite s := rfl
theorem exec_lkctlEnSet (s : State) : exec .lkctlEnSet s = execLkctlEnSet s := rfl
theorem exec_lkctlEnClear (s : State) : exec .lkctlEnClear s = execLkctlEnClear s := rfl
theorem exec_laneLock (s : State) : exec .laneLock s = execLaneLock s := rfl
theorem exec_laneLockLost (s : State) : exec .laneLockLost s = execLaneLockLost s := rfl
theorem exec_trainingTimeout (s : State) : exec .trainingTimeout s = execTrainingTimeout s := rfl
theorem exec_retrainTimeout (s : State) : exec .retrainTimeout s = execRetrainTimeout s := rfl
theorem exec_attestation (s : State) : exec .attestation s = execAttestation s := rfl
theorem exec_dataFlit (s : State) : exec .dataFlit s = execDataFlit s := rfl
theorem exec_ackFlit (s : State) : exec .ackFlit s = execAckFlit s := rfl
theorem exec_nakFlit (s : State) : exec .nakFlit s = execNakFlit s := rfl
theorem exec_creditFlit (s : State) : exec .creditFlit s = execCreditFlit s := rfl
theorem exec_timeFlit (s : State) : exec .timeFlit s = execTimeFlit s := rfl
theorem exec_attestFlit (s : State) : exec .attestFlit s = execAttestFlit s := rfl
theorem exec_replayTimeout (s : State) : exec .replayTimeout s = execReplayTimeout s := rfl
theorem exec_timeFlitSend (s : State) : exec .timeFlitSend s = execTimeFlitSend s := rfl
theorem exec_peerRequest (s : State) : exec .peerRequest s = execPeerRequest s := rfl
theorem exec_collectiveImage (s : State) : exec .collectiveImage s = execCollectiveImage s := rfl
theorem exec_collectiveTimeout (s : State) : exec .collectiveTimeout s = execCollectiveTimeout s := rfl
theorem exec_sliceBoundary (s : State) : exec .sliceBoundary s = execSliceBoundary s := rfl
theorem exec_trainingRetry (s : State) : exec .trainingRetry s = execTrainingRetry s := rfl
theorem exec_waitevTimeReached (s : State) : exec .waitevTimeReached s = execWaitevTimeReached s := rfl

end Sys2Proof.Machine
end

