-- ==== Sys2Proof/Laws/State.lean ====
section
/-! SUPPORT. What each update of the state does to each field: one lemma per field and update, so that no proof unfolds a record
update. -/

namespace Sys2Proof.Machine

variable (s : State)

@[simp] theorem State.setCore_now (c : Nat) (k : Core) : (s.setCore c k).now = s.now := rfl
@[simp] theorem State.setCore_count (c : Nat) (k : Core) : (s.setCore c k).count = s.count := rfl
@[simp] theorem State.setCore_agenda (c : Nat) (k : Core) : (s.setCore c k).agenda = s.agenda := rfl
@[simp] theorem State.setCore_cur (c : Nat) (k : Core) : (s.setCore c k).cur = s.cur := rfl
@[simp] theorem State.setCore_settledAt (c : Nat) (k : Core) : (s.setCore c k).settledAt = s.settledAt := rfl
@[simp] theorem State.setCore_offered (c : Nat) (k : Core) : (s.setCore c k).offered = s.offered := rfl
@[simp] theorem State.setCore_freeCtr (c : Nat) (k : Core) : (s.setCore c k).freeCtr = s.freeCtr := rfl
@[simp] theorem State.setCore_nextId (c : Nat) (k : Core) : (s.setCore c k).nextId = s.nextId := rfl
@[simp] theorem State.setCore_powered (c : Nat) (k : Core) : (s.setCore c k).powered = s.powered := rfl
@[simp] theorem State.setCore_mem (c : Nat) (k : Core) : (s.setCore c k).mem = s.mem := rfl
@[simp] theorem State.setCore_poison (c : Nat) (k : Core) : (s.setCore c k).poison = s.poison := rfl
@[simp] theorem State.setCore_cores (c : Nat) (k : Core) : (s.setCore c k).cores = AMap.put s.cores c k := rfl
@[simp] theorem State.setCore_dies (c : Nat) (k : Core) : (s.setCore c k).dies = s.dies := rfl
@[simp] theorem State.setCore_accs (c : Nat) (k : Core) : (s.setCore c k).accs = s.accs := rfl
@[simp] theorem State.setCore_ctxs (c : Nat) (k : Core) : (s.setCore c k).ctxs = s.ctxs := rfl
@[simp] theorem State.setCore_queues (c : Nat) (k : Core) : (s.setCore c k).queues = s.queues := rfl
@[simp] theorem State.setCore_launches (c : Nat) (k : Core) : (s.setCore c k).launches = s.launches := rfl
@[simp] theorem State.setCore_entries (c : Nat) (k : Core) : (s.setCore c k).entries = s.entries := rfl
@[simp] theorem State.setCore_faultLog (c : Nat) (k : Core) : (s.setCore c k).faultLog = s.faultLog := rfl
@[simp] theorem State.setCore_ctxcmd (c : Nat) (k : Core) : (s.setCore c k).ctxcmd = s.ctxcmd := rfl
@[simp] theorem State.setCore_ctxrsp (c : Nat) (k : Core) : (s.setCore c k).ctxrsp = s.ctxrsp := rfl
@[simp] theorem State.setCore_pgcmd (c : Nat) (k : Core) : (s.setCore c k).pgcmd = s.pgcmd := rfl
@[simp] theorem State.setCore_pgrsp (c : Nat) (k : Core) : (s.setCore c k).pgrsp = s.pgrsp := rfl
@[simp] theorem State.setCore_gangbase (c : Nat) (k : Core) : (s.setCore c k).gangbase = s.gangbase := rfl
@[simp] theorem State.setCore_gangPosts (c : Nat) (k : Core) : (s.setCore c k).gangPosts = s.gangPosts := rfl
@[simp] theorem State.setCore_pqs (c : Nat) (k : Core) : (s.setCore c k).pqs = s.pqs := rfl
@[simp] theorem State.setCore_bars (c : Nat) (k : Core) : (s.setCore c k).bars = s.bars := rfl
@[simp] theorem State.setCore_wcnts (c : Nat) (k : Core) : (s.setCore c k).wcnts = s.wcnts := rfl
@[simp] theorem State.setCore_ops (c : Nat) (k : Core) : (s.setCore c k).ops = s.ops := rfl
@[simp] theorem State.setCore_msgs (c : Nat) (k : Core) : (s.setCore c k).msgs = s.msgs := rfl
@[simp] theorem State.setCore_ports (c : Nat) (k : Core) : (s.setCore c k).ports = s.ports := rfl
@[simp] theorem State.setCore_routes (c : Nat) (k : Core) : (s.setCore c k).routes = s.routes := rfl
@[simp] theorem State.setCore_access (c : Nat) (k : Core) : (s.setCore c k).access = s.access := rfl
@[simp] theorem State.setCore_peerResp (c : Nat) (k : Core) : (s.setCore c k).peerResp = s.peerResp := rfl
@[simp] theorem State.setCore_outbox (c : Nat) (k : Core) : (s.setCore c k).outbox = s.outbox := rfl
@[simp] theorem State.setCore_wire (c : Nat) (k : Core) : (s.setCore c k).wire = s.wire := rfl
@[simp] theorem State.setCore_reqNum (c : Nat) (k : Core) : (s.setCore c k).reqNum = s.reqNum := rfl
@[simp] theorem State.setCore_images (c : Nat) (k : Core) : (s.setCore c k).images = s.images := rfl
@[simp] theorem State.setCore_reached (c : Nat) (k : Core) : (s.setCore c k).reached = s.reached := rfl
@[simp] theorem State.setCore_device (c : Nat) (k : Core) : (s.setCore c k).device = s.device := rfl
@[simp] theorem State.setCore_topo (c : Nat) (k : Core) : (s.setCore c k).topo = s.topo := rfl
@[simp] theorem State.setCore_fwActive (c : Nat) (k : Core) : (s.setCore c k).fwActive = s.fwActive := rfl
@[simp] theorem State.setCore_fwStaged (c : Nat) (k : Core) : (s.setCore c k).fwStaged = s.fwStaged := rfl
@[simp] theorem State.setCore_fwMin (c : Nat) (k : Core) : (s.setCore c k).fwMin = s.fwMin := rfl
@[simp] theorem State.setCore_mgmtLog (c : Nat) (k : Core) : (s.setCore c k).mgmtLog = s.mgmtLog := rfl
@[simp] theorem State.setCore_mgmtOut (c : Nat) (k : Core) : (s.setCore c k).mgmtOut = s.mgmtOut := rfl
@[simp] theorem State.setCore_timeSet (c : Nat) (k : Core) : (s.setCore c k).timeSet = s.timeSet := rfl
@[simp] theorem State.setCore_timeSlew (c : Nat) (k : Core) : (s.setCore c k).timeSlew = s.timeSlew := rfl

@[simp] theorem State.modCore_now (c : Nat) (f : Core → Core) : (s.modCore c f).now = s.now := rfl
@[simp] theorem State.modCore_count (c : Nat) (f : Core → Core) : (s.modCore c f).count = s.count := rfl
@[simp] theorem State.modCore_agenda (c : Nat) (f : Core → Core) : (s.modCore c f).agenda = s.agenda := rfl
@[simp] theorem State.modCore_cur (c : Nat) (f : Core → Core) : (s.modCore c f).cur = s.cur := rfl
@[simp] theorem State.modCore_settledAt (c : Nat) (f : Core → Core) : (s.modCore c f).settledAt = s.settledAt := rfl
@[simp] theorem State.modCore_offered (c : Nat) (f : Core → Core) : (s.modCore c f).offered = s.offered := rfl
@[simp] theorem State.modCore_freeCtr (c : Nat) (f : Core → Core) : (s.modCore c f).freeCtr = s.freeCtr := rfl
@[simp] theorem State.modCore_nextId (c : Nat) (f : Core → Core) : (s.modCore c f).nextId = s.nextId := rfl
@[simp] theorem State.modCore_powered (c : Nat) (f : Core → Core) : (s.modCore c f).powered = s.powered := rfl
@[simp] theorem State.modCore_mem (c : Nat) (f : Core → Core) : (s.modCore c f).mem = s.mem := rfl
@[simp] theorem State.modCore_poison (c : Nat) (f : Core → Core) : (s.modCore c f).poison = s.poison := rfl
@[simp] theorem State.modCore_cores (c : Nat) (f : Core → Core) : (s.modCore c f).cores = AMap.put s.cores c (f (s.core c)) := rfl
@[simp] theorem State.modCore_dies (c : Nat) (f : Core → Core) : (s.modCore c f).dies = s.dies := rfl
@[simp] theorem State.modCore_accs (c : Nat) (f : Core → Core) : (s.modCore c f).accs = s.accs := rfl
@[simp] theorem State.modCore_ctxs (c : Nat) (f : Core → Core) : (s.modCore c f).ctxs = s.ctxs := rfl
@[simp] theorem State.modCore_queues (c : Nat) (f : Core → Core) : (s.modCore c f).queues = s.queues := rfl
@[simp] theorem State.modCore_launches (c : Nat) (f : Core → Core) : (s.modCore c f).launches = s.launches := rfl
@[simp] theorem State.modCore_entries (c : Nat) (f : Core → Core) : (s.modCore c f).entries = s.entries := rfl
@[simp] theorem State.modCore_faultLog (c : Nat) (f : Core → Core) : (s.modCore c f).faultLog = s.faultLog := rfl
@[simp] theorem State.modCore_ctxcmd (c : Nat) (f : Core → Core) : (s.modCore c f).ctxcmd = s.ctxcmd := rfl
@[simp] theorem State.modCore_ctxrsp (c : Nat) (f : Core → Core) : (s.modCore c f).ctxrsp = s.ctxrsp := rfl
@[simp] theorem State.modCore_pgcmd (c : Nat) (f : Core → Core) : (s.modCore c f).pgcmd = s.pgcmd := rfl
@[simp] theorem State.modCore_pgrsp (c : Nat) (f : Core → Core) : (s.modCore c f).pgrsp = s.pgrsp := rfl
@[simp] theorem State.modCore_gangbase (c : Nat) (f : Core → Core) : (s.modCore c f).gangbase = s.gangbase := rfl
@[simp] theorem State.modCore_gangPosts (c : Nat) (f : Core → Core) : (s.modCore c f).gangPosts = s.gangPosts := rfl
@[simp] theorem State.modCore_pqs (c : Nat) (f : Core → Core) : (s.modCore c f).pqs = s.pqs := rfl
@[simp] theorem State.modCore_bars (c : Nat) (f : Core → Core) : (s.modCore c f).bars = s.bars := rfl
@[simp] theorem State.modCore_wcnts (c : Nat) (f : Core → Core) : (s.modCore c f).wcnts = s.wcnts := rfl
@[simp] theorem State.modCore_ops (c : Nat) (f : Core → Core) : (s.modCore c f).ops = s.ops := rfl
@[simp] theorem State.modCore_msgs (c : Nat) (f : Core → Core) : (s.modCore c f).msgs = s.msgs := rfl
@[simp] theorem State.modCore_ports (c : Nat) (f : Core → Core) : (s.modCore c f).ports = s.ports := rfl
@[simp] theorem State.modCore_routes (c : Nat) (f : Core → Core) : (s.modCore c f).routes = s.routes := rfl
@[simp] theorem State.modCore_access (c : Nat) (f : Core → Core) : (s.modCore c f).access = s.access := rfl
@[simp] theorem State.modCore_peerResp (c : Nat) (f : Core → Core) : (s.modCore c f).peerResp = s.peerResp := rfl
@[simp] theorem State.modCore_outbox (c : Nat) (f : Core → Core) : (s.modCore c f).outbox = s.outbox := rfl
@[simp] theorem State.modCore_wire (c : Nat) (f : Core → Core) : (s.modCore c f).wire = s.wire := rfl
@[simp] theorem State.modCore_reqNum (c : Nat) (f : Core → Core) : (s.modCore c f).reqNum = s.reqNum := rfl
@[simp] theorem State.modCore_images (c : Nat) (f : Core → Core) : (s.modCore c f).images = s.images := rfl
@[simp] theorem State.modCore_reached (c : Nat) (f : Core → Core) : (s.modCore c f).reached = s.reached := rfl
@[simp] theorem State.modCore_device (c : Nat) (f : Core → Core) : (s.modCore c f).device = s.device := rfl
@[simp] theorem State.modCore_topo (c : Nat) (f : Core → Core) : (s.modCore c f).topo = s.topo := rfl
@[simp] theorem State.modCore_fwActive (c : Nat) (f : Core → Core) : (s.modCore c f).fwActive = s.fwActive := rfl
@[simp] theorem State.modCore_fwStaged (c : Nat) (f : Core → Core) : (s.modCore c f).fwStaged = s.fwStaged := rfl
@[simp] theorem State.modCore_fwMin (c : Nat) (f : Core → Core) : (s.modCore c f).fwMin = s.fwMin := rfl
@[simp] theorem State.modCore_mgmtLog (c : Nat) (f : Core → Core) : (s.modCore c f).mgmtLog = s.mgmtLog := rfl
@[simp] theorem State.modCore_mgmtOut (c : Nat) (f : Core → Core) : (s.modCore c f).mgmtOut = s.mgmtOut := rfl
@[simp] theorem State.modCore_timeSet (c : Nat) (f : Core → Core) : (s.modCore c f).timeSet = s.timeSet := rfl
@[simp] theorem State.modCore_timeSlew (c : Nat) (f : Core → Core) : (s.modCore c f).timeSlew = s.timeSlew := rfl

@[simp] theorem State.modDie_now (d : Nat) (f : Die → Die) : (s.modDie d f).now = s.now := rfl
@[simp] theorem State.modDie_count (d : Nat) (f : Die → Die) : (s.modDie d f).count = s.count := rfl
@[simp] theorem State.modDie_agenda (d : Nat) (f : Die → Die) : (s.modDie d f).agenda = s.agenda := rfl
@[simp] theorem State.modDie_cur (d : Nat) (f : Die → Die) : (s.modDie d f).cur = s.cur := rfl
@[simp] theorem State.modDie_settledAt (d : Nat) (f : Die → Die) : (s.modDie d f).settledAt = s.settledAt := rfl
@[simp] theorem State.modDie_offered (d : Nat) (f : Die → Die) : (s.modDie d f).offered = s.offered := rfl
@[simp] theorem State.modDie_freeCtr (d : Nat) (f : Die → Die) : (s.modDie d f).freeCtr = s.freeCtr := rfl
@[simp] theorem State.modDie_nextId (d : Nat) (f : Die → Die) : (s.modDie d f).nextId = s.nextId := rfl
@[simp] theorem State.modDie_powered (d : Nat) (f : Die → Die) : (s.modDie d f).powered = s.powered := rfl
@[simp] theorem State.modDie_mem (d : Nat) (f : Die → Die) : (s.modDie d f).mem = s.mem := rfl
@[simp] theorem State.modDie_poison (d : Nat) (f : Die → Die) : (s.modDie d f).poison = s.poison := rfl
@[simp] theorem State.modDie_cores (d : Nat) (f : Die → Die) : (s.modDie d f).cores = s.cores := rfl
@[simp] theorem State.modDie_dies (d : Nat) (f : Die → Die) : (s.modDie d f).dies = AMap.put s.dies d (f (s.die d)) := rfl
@[simp] theorem State.modDie_accs (d : Nat) (f : Die → Die) : (s.modDie d f).accs = s.accs := rfl
@[simp] theorem State.modDie_ctxs (d : Nat) (f : Die → Die) : (s.modDie d f).ctxs = s.ctxs := rfl
@[simp] theorem State.modDie_queues (d : Nat) (f : Die → Die) : (s.modDie d f).queues = s.queues := rfl
@[simp] theorem State.modDie_launches (d : Nat) (f : Die → Die) : (s.modDie d f).launches = s.launches := rfl
@[simp] theorem State.modDie_entries (d : Nat) (f : Die → Die) : (s.modDie d f).entries = s.entries := rfl
@[simp] theorem State.modDie_faultLog (d : Nat) (f : Die → Die) : (s.modDie d f).faultLog = s.faultLog := rfl
@[simp] theorem State.modDie_ctxcmd (d : Nat) (f : Die → Die) : (s.modDie d f).ctxcmd = s.ctxcmd := rfl
@[simp] theorem State.modDie_ctxrsp (d : Nat) (f : Die → Die) : (s.modDie d f).ctxrsp = s.ctxrsp := rfl
@[simp] theorem State.modDie_pgcmd (d : Nat) (f : Die → Die) : (s.modDie d f).pgcmd = s.pgcmd := rfl
@[simp] theorem State.modDie_pgrsp (d : Nat) (f : Die → Die) : (s.modDie d f).pgrsp = s.pgrsp := rfl
@[simp] theorem State.modDie_gangbase (d : Nat) (f : Die → Die) : (s.modDie d f).gangbase = s.gangbase := rfl
@[simp] theorem State.modDie_gangPosts (d : Nat) (f : Die → Die) : (s.modDie d f).gangPosts = s.gangPosts := rfl
@[simp] theorem State.modDie_pqs (d : Nat) (f : Die → Die) : (s.modDie d f).pqs = s.pqs := rfl
@[simp] theorem State.modDie_bars (d : Nat) (f : Die → Die) : (s.modDie d f).bars = s.bars := rfl
@[simp] theorem State.modDie_wcnts (d : Nat) (f : Die → Die) : (s.modDie d f).wcnts = s.wcnts := rfl
@[simp] theorem State.modDie_ops (d : Nat) (f : Die → Die) : (s.modDie d f).ops = s.ops := rfl
@[simp] theorem State.modDie_msgs (d : Nat) (f : Die → Die) : (s.modDie d f).msgs = s.msgs := rfl
@[simp] theorem State.modDie_ports (d : Nat) (f : Die → Die) : (s.modDie d f).ports = s.ports := rfl
@[simp] theorem State.modDie_routes (d : Nat) (f : Die → Die) : (s.modDie d f).routes = s.routes := rfl
@[simp] theorem State.modDie_access (d : Nat) (f : Die → Die) : (s.modDie d f).access = s.access := rfl
@[simp] theorem State.modDie_peerResp (d : Nat) (f : Die → Die) : (s.modDie d f).peerResp = s.peerResp := rfl
@[simp] theorem State.modDie_outbox (d : Nat) (f : Die → Die) : (s.modDie d f).outbox = s.outbox := rfl
@[simp] theorem State.modDie_wire (d : Nat) (f : Die → Die) : (s.modDie d f).wire = s.wire := rfl
@[simp] theorem State.modDie_reqNum (d : Nat) (f : Die → Die) : (s.modDie d f).reqNum = s.reqNum := rfl
@[simp] theorem State.modDie_images (d : Nat) (f : Die → Die) : (s.modDie d f).images = s.images := rfl
@[simp] theorem State.modDie_reached (d : Nat) (f : Die → Die) : (s.modDie d f).reached = s.reached := rfl
@[simp] theorem State.modDie_device (d : Nat) (f : Die → Die) : (s.modDie d f).device = s.device := rfl
@[simp] theorem State.modDie_topo (d : Nat) (f : Die → Die) : (s.modDie d f).topo = s.topo := rfl
@[simp] theorem State.modDie_fwActive (d : Nat) (f : Die → Die) : (s.modDie d f).fwActive = s.fwActive := rfl
@[simp] theorem State.modDie_fwStaged (d : Nat) (f : Die → Die) : (s.modDie d f).fwStaged = s.fwStaged := rfl
@[simp] theorem State.modDie_fwMin (d : Nat) (f : Die → Die) : (s.modDie d f).fwMin = s.fwMin := rfl
@[simp] theorem State.modDie_mgmtLog (d : Nat) (f : Die → Die) : (s.modDie d f).mgmtLog = s.mgmtLog := rfl
@[simp] theorem State.modDie_mgmtOut (d : Nat) (f : Die → Die) : (s.modDie d f).mgmtOut = s.mgmtOut := rfl
@[simp] theorem State.modDie_timeSet (d : Nat) (f : Die → Die) : (s.modDie d f).timeSet = s.timeSet := rfl
@[simp] theorem State.modDie_timeSlew (d : Nat) (f : Die → Die) : (s.modDie d f).timeSlew = s.timeSlew := rfl

@[simp] theorem State.modQueue_now (q : Nat) (f : Queue → Queue) : (s.modQueue q f).now = s.now := rfl
@[simp] theorem State.modQueue_count (q : Nat) (f : Queue → Queue) : (s.modQueue q f).count = s.count := rfl
@[simp] theorem State.modQueue_agenda (q : Nat) (f : Queue → Queue) : (s.modQueue q f).agenda = s.agenda := rfl
@[simp] theorem State.modQueue_cur (q : Nat) (f : Queue → Queue) : (s.modQueue q f).cur = s.cur := rfl
@[simp] theorem State.modQueue_settledAt (q : Nat) (f : Queue → Queue) : (s.modQueue q f).settledAt = s.settledAt := rfl
@[simp] theorem State.modQueue_offered (q : Nat) (f : Queue → Queue) : (s.modQueue q f).offered = s.offered := rfl
@[simp] theorem State.modQueue_freeCtr (q : Nat) (f : Queue → Queue) : (s.modQueue q f).freeCtr = s.freeCtr := rfl
@[simp] theorem State.modQueue_nextId (q : Nat) (f : Queue → Queue) : (s.modQueue q f).nextId = s.nextId := rfl
@[simp] theorem State.modQueue_powered (q : Nat) (f : Queue → Queue) : (s.modQueue q f).powered = s.powered := rfl
@[simp] theorem State.modQueue_mem (q : Nat) (f : Queue → Queue) : (s.modQueue q f).mem = s.mem := rfl
@[simp] theorem State.modQueue_poison (q : Nat) (f : Queue → Queue) : (s.modQueue q f).poison = s.poison := rfl
@[simp] theorem State.modQueue_cores (q : Nat) (f : Queue → Queue) : (s.modQueue q f).cores = s.cores := rfl
@[simp] theorem State.modQueue_dies (q : Nat) (f : Queue → Queue) : (s.modQueue q f).dies = s.dies := rfl
@[simp] theorem State.modQueue_accs (q : Nat) (f : Queue → Queue) : (s.modQueue q f).accs = s.accs := rfl
@[simp] theorem State.modQueue_ctxs (q : Nat) (f : Queue → Queue) : (s.modQueue q f).ctxs = s.ctxs := rfl
@[simp] theorem State.modQueue_queues (q : Nat) (f : Queue → Queue) : (s.modQueue q f).queues = AMap.put s.queues q (f (s.queue q)) := rfl
@[simp] theorem State.modQueue_launches (q : Nat) (f : Queue → Queue) : (s.modQueue q f).launches = s.launches := rfl
@[simp] theorem State.modQueue_entries (q : Nat) (f : Queue → Queue) : (s.modQueue q f).entries = s.entries := rfl
@[simp] theorem State.modQueue_faultLog (q : Nat) (f : Queue → Queue) : (s.modQueue q f).faultLog = s.faultLog := rfl
@[simp] theorem State.modQueue_ctxcmd (q : Nat) (f : Queue → Queue) : (s.modQueue q f).ctxcmd = s.ctxcmd := rfl
@[simp] theorem State.modQueue_ctxrsp (q : Nat) (f : Queue → Queue) : (s.modQueue q f).ctxrsp = s.ctxrsp := rfl
@[simp] theorem State.modQueue_pgcmd (q : Nat) (f : Queue → Queue) : (s.modQueue q f).pgcmd = s.pgcmd := rfl
@[simp] theorem State.modQueue_pgrsp (q : Nat) (f : Queue → Queue) : (s.modQueue q f).pgrsp = s.pgrsp := rfl
@[simp] theorem State.modQueue_gangbase (q : Nat) (f : Queue → Queue) : (s.modQueue q f).gangbase = s.gangbase := rfl
@[simp] theorem State.modQueue_gangPosts (q : Nat) (f : Queue → Queue) : (s.modQueue q f).gangPosts = s.gangPosts := rfl
@[simp] theorem State.modQueue_pqs (q : Nat) (f : Queue → Queue) : (s.modQueue q f).pqs = s.pqs := rfl
@[simp] theorem State.modQueue_bars (q : Nat) (f : Queue → Queue) : (s.modQueue q f).bars = s.bars := rfl
@[simp] theorem State.modQueue_wcnts (q : Nat) (f : Queue → Queue) : (s.modQueue q f).wcnts = s.wcnts := rfl
@[simp] theorem State.modQueue_ops (q : Nat) (f : Queue → Queue) : (s.modQueue q f).ops = s.ops := rfl
@[simp] theorem State.modQueue_msgs (q : Nat) (f : Queue → Queue) : (s.modQueue q f).msgs = s.msgs := rfl
@[simp] theorem State.modQueue_ports (q : Nat) (f : Queue → Queue) : (s.modQueue q f).ports = s.ports := rfl
@[simp] theorem State.modQueue_routes (q : Nat) (f : Queue → Queue) : (s.modQueue q f).routes = s.routes := rfl
@[simp] theorem State.modQueue_access (q : Nat) (f : Queue → Queue) : (s.modQueue q f).access = s.access := rfl
@[simp] theorem State.modQueue_peerResp (q : Nat) (f : Queue → Queue) : (s.modQueue q f).peerResp = s.peerResp := rfl
@[simp] theorem State.modQueue_outbox (q : Nat) (f : Queue → Queue) : (s.modQueue q f).outbox = s.outbox := rfl
@[simp] theorem State.modQueue_wire (q : Nat) (f : Queue → Queue) : (s.modQueue q f).wire = s.wire := rfl
@[simp] theorem State.modQueue_reqNum (q : Nat) (f : Queue → Queue) : (s.modQueue q f).reqNum = s.reqNum := rfl
@[simp] theorem State.modQueue_images (q : Nat) (f : Queue → Queue) : (s.modQueue q f).images = s.images := rfl
@[simp] theorem State.modQueue_reached (q : Nat) (f : Queue → Queue) : (s.modQueue q f).reached = s.reached := rfl
@[simp] theorem State.modQueue_device (q : Nat) (f : Queue → Queue) : (s.modQueue q f).device = s.device := rfl
@[simp] theorem State.modQueue_topo (q : Nat) (f : Queue → Queue) : (s.modQueue q f).topo = s.topo := rfl
@[simp] theorem State.modQueue_fwActive (q : Nat) (f : Queue → Queue) : (s.modQueue q f).fwActive = s.fwActive := rfl
@[simp] theorem State.modQueue_fwStaged (q : Nat) (f : Queue → Queue) : (s.modQueue q f).fwStaged = s.fwStaged := rfl
@[simp] theorem State.modQueue_fwMin (q : Nat) (f : Queue → Queue) : (s.modQueue q f).fwMin = s.fwMin := rfl
@[simp] theorem State.modQueue_mgmtLog (q : Nat) (f : Queue → Queue) : (s.modQueue q f).mgmtLog = s.mgmtLog := rfl
@[simp] theorem State.modQueue_mgmtOut (q : Nat) (f : Queue → Queue) : (s.modQueue q f).mgmtOut = s.mgmtOut := rfl
@[simp] theorem State.modQueue_timeSet (q : Nat) (f : Queue → Queue) : (s.modQueue q f).timeSet = s.timeSet := rfl
@[simp] theorem State.modQueue_timeSlew (q : Nat) (f : Queue → Queue) : (s.modQueue q f).timeSlew = s.timeSlew := rfl

@[simp] theorem State.modCtx_now (x : Nat) (f : Ctx → Ctx) : (s.modCtx x f).now = s.now := rfl
@[simp] theorem State.modCtx_count (x : Nat) (f : Ctx → Ctx) : (s.modCtx x f).count = s.count := rfl
@[simp] theorem State.modCtx_agenda (x : Nat) (f : Ctx → Ctx) : (s.modCtx x f).agenda = s.agenda := rfl
@[simp] theorem State.modCtx_cur (x : Nat) (f : Ctx → Ctx) : (s.modCtx x f).cur = s.cur := rfl
@[simp] theorem State.modCtx_settledAt (x : Nat) (f : Ctx → Ctx) : (s.modCtx x f).settledAt = s.settledAt := rfl
@[simp] theorem State.modCtx_offered (x : Nat) (f : Ctx → Ctx) : (s.modCtx x f).offered = s.offered := rfl
@[simp] theorem State.modCtx_freeCtr (x : Nat) (f : Ctx → Ctx) : (s.modCtx x f).freeCtr = s.freeCtr := rfl
@[simp] theorem State.modCtx_nextId (x : Nat) (f : Ctx → Ctx) : (s.modCtx x f).nextId = s.nextId := rfl
@[simp] theorem State.modCtx_powered (x : Nat) (f : Ctx → Ctx) : (s.modCtx x f).powered = s.powered := rfl
@[simp] theorem State.modCtx_mem (x : Nat) (f : Ctx → Ctx) : (s.modCtx x f).mem = s.mem := rfl
@[simp] theorem State.modCtx_poison (x : Nat) (f : Ctx → Ctx) : (s.modCtx x f).poison = s.poison := rfl
@[simp] theorem State.modCtx_cores (x : Nat) (f : Ctx → Ctx) : (s.modCtx x f).cores = s.cores := rfl
@[simp] theorem State.modCtx_dies (x : Nat) (f : Ctx → Ctx) : (s.modCtx x f).dies = s.dies := rfl
@[simp] theorem State.modCtx_accs (x : Nat) (f : Ctx → Ctx) : (s.modCtx x f).accs = s.accs := rfl
@[simp] theorem State.modCtx_ctxs (x : Nat) (f : Ctx → Ctx) : (s.modCtx x f).ctxs = AMap.put s.ctxs x (f (s.ctx x)) := rfl
@[simp] theorem State.modCtx_queues (x : Nat) (f : Ctx → Ctx) : (s.modCtx x f).queues = s.queues := rfl
@[simp] theorem State.modCtx_launches (x : Nat) (f : Ctx → Ctx) : (s.modCtx x f).launches = s.launches := rfl
@[simp] theorem State.modCtx_entries (x : Nat) (f : Ctx → Ctx) : (s.modCtx x f).entries = s.entries := rfl
@[simp] theorem State.modCtx_faultLog (x : Nat) (f : Ctx → Ctx) : (s.modCtx x f).faultLog = s.faultLog := rfl
@[simp] theorem State.modCtx_ctxcmd (x : Nat) (f : Ctx → Ctx) : (s.modCtx x f).ctxcmd = s.ctxcmd := rfl
@[simp] theorem State.modCtx_ctxrsp (x : Nat) (f : Ctx → Ctx) : (s.modCtx x f).ctxrsp = s.ctxrsp := rfl
@[simp] theorem State.modCtx_pgcmd (x : Nat) (f : Ctx → Ctx) : (s.modCtx x f).pgcmd = s.pgcmd := rfl
@[simp] theorem State.modCtx_pgrsp (x : Nat) (f : Ctx → Ctx) : (s.modCtx x f).pgrsp = s.pgrsp := rfl
@[simp] theorem State.modCtx_gangbase (x : Nat) (f : Ctx → Ctx) : (s.modCtx x f).gangbase = s.gangbase := rfl
@[simp] theorem State.modCtx_gangPosts (x : Nat) (f : Ctx → Ctx) : (s.modCtx x f).gangPosts = s.gangPosts := rfl
@[simp] theorem State.modCtx_pqs (x : Nat) (f : Ctx → Ctx) : (s.modCtx x f).pqs = s.pqs := rfl
@[simp] theorem State.modCtx_bars (x : Nat) (f : Ctx → Ctx) : (s.modCtx x f).bars = s.bars := rfl
@[simp] theorem State.modCtx_wcnts (x : Nat) (f : Ctx → Ctx) : (s.modCtx x f).wcnts = s.wcnts := rfl
@[simp] theorem State.modCtx_ops (x : Nat) (f : Ctx → Ctx) : (s.modCtx x f).ops = s.ops := rfl
@[simp] theorem State.modCtx_msgs (x : Nat) (f : Ctx → Ctx) : (s.modCtx x f).msgs = s.msgs := rfl
@[simp] theorem State.modCtx_ports (x : Nat) (f : Ctx → Ctx) : (s.modCtx x f).ports = s.ports := rfl
@[simp] theorem State.modCtx_routes (x : Nat) (f : Ctx → Ctx) : (s.modCtx x f).routes = s.routes := rfl
@[simp] theorem State.modCtx_access (x : Nat) (f : Ctx → Ctx) : (s.modCtx x f).access = s.access := rfl
@[simp] theorem State.modCtx_peerResp (x : Nat) (f : Ctx → Ctx) : (s.modCtx x f).peerResp = s.peerResp := rfl
@[simp] theorem State.modCtx_outbox (x : Nat) (f : Ctx → Ctx) : (s.modCtx x f).outbox = s.outbox := rfl
@[simp] theorem State.modCtx_wire (x : Nat) (f : Ctx → Ctx) : (s.modCtx x f).wire = s.wire := rfl
@[simp] theorem State.modCtx_reqNum (x : Nat) (f : Ctx → Ctx) : (s.modCtx x f).reqNum = s.reqNum := rfl
@[simp] theorem State.modCtx_images (x : Nat) (f : Ctx → Ctx) : (s.modCtx x f).images = s.images := rfl
@[simp] theorem State.modCtx_reached (x : Nat) (f : Ctx → Ctx) : (s.modCtx x f).reached = s.reached := rfl
@[simp] theorem State.modCtx_device (x : Nat) (f : Ctx → Ctx) : (s.modCtx x f).device = s.device := rfl
@[simp] theorem State.modCtx_topo (x : Nat) (f : Ctx → Ctx) : (s.modCtx x f).topo = s.topo := rfl
@[simp] theorem State.modCtx_fwActive (x : Nat) (f : Ctx → Ctx) : (s.modCtx x f).fwActive = s.fwActive := rfl
@[simp] theorem State.modCtx_fwStaged (x : Nat) (f : Ctx → Ctx) : (s.modCtx x f).fwStaged = s.fwStaged := rfl
@[simp] theorem State.modCtx_fwMin (x : Nat) (f : Ctx → Ctx) : (s.modCtx x f).fwMin = s.fwMin := rfl
@[simp] theorem State.modCtx_mgmtLog (x : Nat) (f : Ctx → Ctx) : (s.modCtx x f).mgmtLog = s.mgmtLog := rfl
@[simp] theorem State.modCtx_mgmtOut (x : Nat) (f : Ctx → Ctx) : (s.modCtx x f).mgmtOut = s.mgmtOut := rfl
@[simp] theorem State.modCtx_timeSet (x : Nat) (f : Ctx → Ctx) : (s.modCtx x f).timeSet = s.timeSet := rfl
@[simp] theorem State.modCtx_timeSlew (x : Nat) (f : Ctx → Ctx) : (s.modCtx x f).timeSlew = s.timeSlew := rfl

@[simp] theorem State.fresh_now : (s.fresh.2).now = s.now := rfl
@[simp] theorem State.fresh_count : (s.fresh.2).count = s.count := rfl
@[simp] theorem State.fresh_agenda : (s.fresh.2).agenda = s.agenda := rfl
@[simp] theorem State.fresh_cur : (s.fresh.2).cur = s.cur := rfl
@[simp] theorem State.fresh_settledAt : (s.fresh.2).settledAt = s.settledAt := rfl
@[simp] theorem State.fresh_offered : (s.fresh.2).offered = s.offered := rfl
@[simp] theorem State.fresh_freeCtr : (s.fresh.2).freeCtr = s.freeCtr := rfl
@[simp] theorem State.fresh_nextId : (s.fresh.2).nextId = s.nextId + 1 := rfl
@[simp] theorem State.fresh_powered : (s.fresh.2).powered = s.powered := rfl
@[simp] theorem State.fresh_mem : (s.fresh.2).mem = s.mem := rfl
@[simp] theorem State.fresh_poison : (s.fresh.2).poison = s.poison := rfl
@[simp] theorem State.fresh_cores : (s.fresh.2).cores = s.cores := rfl
@[simp] theorem State.fresh_dies : (s.fresh.2).dies = s.dies := rfl
@[simp] theorem State.fresh_accs : (s.fresh.2).accs = s.accs := rfl
@[simp] theorem State.fresh_ctxs : (s.fresh.2).ctxs = s.ctxs := rfl
@[simp] theorem State.fresh_queues : (s.fresh.2).queues = s.queues := rfl
@[simp] theorem State.fresh_launches : (s.fresh.2).launches = s.launches := rfl
@[simp] theorem State.fresh_entries : (s.fresh.2).entries = s.entries := rfl
@[simp] theorem State.fresh_faultLog : (s.fresh.2).faultLog = s.faultLog := rfl
@[simp] theorem State.fresh_ctxcmd : (s.fresh.2).ctxcmd = s.ctxcmd := rfl
@[simp] theorem State.fresh_ctxrsp : (s.fresh.2).ctxrsp = s.ctxrsp := rfl
@[simp] theorem State.fresh_pgcmd : (s.fresh.2).pgcmd = s.pgcmd := rfl
@[simp] theorem State.fresh_pgrsp : (s.fresh.2).pgrsp = s.pgrsp := rfl
@[simp] theorem State.fresh_gangbase : (s.fresh.2).gangbase = s.gangbase := rfl
@[simp] theorem State.fresh_gangPosts : (s.fresh.2).gangPosts = s.gangPosts := rfl
@[simp] theorem State.fresh_pqs : (s.fresh.2).pqs = s.pqs := rfl
@[simp] theorem State.fresh_bars : (s.fresh.2).bars = s.bars := rfl
@[simp] theorem State.fresh_wcnts : (s.fresh.2).wcnts = s.wcnts := rfl
@[simp] theorem State.fresh_ops : (s.fresh.2).ops = s.ops := rfl
@[simp] theorem State.fresh_msgs : (s.fresh.2).msgs = s.msgs := rfl
@[simp] theorem State.fresh_ports : (s.fresh.2).ports = s.ports := rfl
@[simp] theorem State.fresh_routes : (s.fresh.2).routes = s.routes := rfl
@[simp] theorem State.fresh_access : (s.fresh.2).access = s.access := rfl
@[simp] theorem State.fresh_peerResp : (s.fresh.2).peerResp = s.peerResp := rfl
@[simp] theorem State.fresh_outbox : (s.fresh.2).outbox = s.outbox := rfl
@[simp] theorem State.fresh_wire : (s.fresh.2).wire = s.wire := rfl
@[simp] theorem State.fresh_reqNum : (s.fresh.2).reqNum = s.reqNum := rfl
@[simp] theorem State.fresh_images : (s.fresh.2).images = s.images := rfl
@[simp] theorem State.fresh_reached : (s.fresh.2).reached = s.reached := rfl
@[simp] theorem State.fresh_device : (s.fresh.2).device = s.device := rfl
@[simp] theorem State.fresh_topo : (s.fresh.2).topo = s.topo := rfl
@[simp] theorem State.fresh_fwActive : (s.fresh.2).fwActive = s.fwActive := rfl
@[simp] theorem State.fresh_fwStaged : (s.fresh.2).fwStaged = s.fwStaged := rfl
@[simp] theorem State.fresh_fwMin : (s.fresh.2).fwMin = s.fwMin := rfl
@[simp] theorem State.fresh_mgmtLog : (s.fresh.2).mgmtLog = s.mgmtLog := rfl
@[simp] theorem State.fresh_mgmtOut : (s.fresh.2).mgmtOut = s.mgmtOut := rfl
@[simp] theorem State.fresh_timeSet : (s.fresh.2).timeSet = s.timeSet := rfl
@[simp] theorem State.fresh_timeSlew : (s.fresh.2).timeSlew = s.timeSlew := rfl

@[simp] theorem State.freeArg_now : (s.freeArg.2).now = s.now := rfl
@[simp] theorem State.freeArg_count : (s.freeArg.2).count = s.count := rfl
@[simp] theorem State.freeArg_agenda : (s.freeArg.2).agenda = s.agenda := rfl
@[simp] theorem State.freeArg_cur : (s.freeArg.2).cur = s.cur := rfl
@[simp] theorem State.freeArg_settledAt : (s.freeArg.2).settledAt = s.settledAt := rfl
@[simp] theorem State.freeArg_offered : (s.freeArg.2).offered = s.offered := rfl
@[simp] theorem State.freeArg_freeCtr : (s.freeArg.2).freeCtr = s.freeCtr + 1 := rfl
@[simp] theorem State.freeArg_nextId : (s.freeArg.2).nextId = s.nextId := rfl
@[simp] theorem State.freeArg_powered : (s.freeArg.2).powered = s.powered := rfl
@[simp] theorem State.freeArg_mem : (s.freeArg.2).mem = s.mem := rfl
@[simp] theorem State.freeArg_poison : (s.freeArg.2).poison = s.poison := rfl
@[simp] theorem State.freeArg_cores : (s.freeArg.2).cores = s.cores := rfl
@[simp] theorem State.freeArg_dies : (s.freeArg.2).dies = s.dies := rfl
@[simp] theorem State.freeArg_accs : (s.freeArg.2).accs = s.accs := rfl
@[simp] theorem State.freeArg_ctxs : (s.freeArg.2).ctxs = s.ctxs := rfl
@[simp] theorem State.freeArg_queues : (s.freeArg.2).queues = s.queues := rfl
@[simp] theorem State.freeArg_launches : (s.freeArg.2).launches = s.launches := rfl
@[simp] theorem State.freeArg_entries : (s.freeArg.2).entries = s.entries := rfl
@[simp] theorem State.freeArg_faultLog : (s.freeArg.2).faultLog = s.faultLog := rfl
@[simp] theorem State.freeArg_ctxcmd : (s.freeArg.2).ctxcmd = s.ctxcmd := rfl
@[simp] theorem State.freeArg_ctxrsp : (s.freeArg.2).ctxrsp = s.ctxrsp := rfl
@[simp] theorem State.freeArg_pgcmd : (s.freeArg.2).pgcmd = s.pgcmd := rfl
@[simp] theorem State.freeArg_pgrsp : (s.freeArg.2).pgrsp = s.pgrsp := rfl
@[simp] theorem State.freeArg_gangbase : (s.freeArg.2).gangbase = s.gangbase := rfl
@[simp] theorem State.freeArg_gangPosts : (s.freeArg.2).gangPosts = s.gangPosts := rfl
@[simp] theorem State.freeArg_pqs : (s.freeArg.2).pqs = s.pqs := rfl
@[simp] theorem State.freeArg_bars : (s.freeArg.2).bars = s.bars := rfl
@[simp] theorem State.freeArg_wcnts : (s.freeArg.2).wcnts = s.wcnts := rfl
@[simp] theorem State.freeArg_ops : (s.freeArg.2).ops = s.ops := rfl
@[simp] theorem State.freeArg_msgs : (s.freeArg.2).msgs = s.msgs := rfl
@[simp] theorem State.freeArg_ports : (s.freeArg.2).ports = s.ports := rfl
@[simp] theorem State.freeArg_routes : (s.freeArg.2).routes = s.routes := rfl
@[simp] theorem State.freeArg_access : (s.freeArg.2).access = s.access := rfl
@[simp] theorem State.freeArg_peerResp : (s.freeArg.2).peerResp = s.peerResp := rfl
@[simp] theorem State.freeArg_outbox : (s.freeArg.2).outbox = s.outbox := rfl
@[simp] theorem State.freeArg_wire : (s.freeArg.2).wire = s.wire := rfl
@[simp] theorem State.freeArg_reqNum : (s.freeArg.2).reqNum = s.reqNum := rfl
@[simp] theorem State.freeArg_images : (s.freeArg.2).images = s.images := rfl
@[simp] theorem State.freeArg_reached : (s.freeArg.2).reached = s.reached := rfl
@[simp] theorem State.freeArg_device : (s.freeArg.2).device = s.device := rfl
@[simp] theorem State.freeArg_topo : (s.freeArg.2).topo = s.topo := rfl
@[simp] theorem State.freeArg_fwActive : (s.freeArg.2).fwActive = s.fwActive := rfl
@[simp] theorem State.freeArg_fwStaged : (s.freeArg.2).fwStaged = s.fwStaged := rfl
@[simp] theorem State.freeArg_fwMin : (s.freeArg.2).fwMin = s.fwMin := rfl
@[simp] theorem State.freeArg_mgmtLog : (s.freeArg.2).mgmtLog = s.mgmtLog := rfl
@[simp] theorem State.freeArg_mgmtOut : (s.freeArg.2).mgmtOut = s.mgmtOut := rfl
@[simp] theorem State.freeArg_timeSet : (s.freeArg.2).timeSet = s.timeSet := rfl
@[simp] theorem State.freeArg_timeSlew : (s.freeArg.2).timeSlew = s.timeSlew := rfl

@[simp] theorem State.at_now (t : Nat) (i : Instr) (a : List Nat) : (s.at t i a).now = s.now := rfl
@[simp] theorem State.at_count (t : Nat) (i : Instr) (a : List Nat) : (s.at t i a).count = s.count := rfl
@[simp] theorem State.at_agenda (t : Nat) (i : Instr) (a : List Nat) : (s.at t i a).agenda = insertDue t i (.nums a) s.agenda := rfl
@[simp] theorem State.at_cur (t : Nat) (i : Instr) (a : List Nat) : (s.at t i a).cur = s.cur := rfl
@[simp] theorem State.at_settledAt (t : Nat) (i : Instr) (a : List Nat) : (s.at t i a).settledAt = s.settledAt := rfl
@[simp] theorem State.at_offered (t : Nat) (i : Instr) (a : List Nat) : (s.at t i a).offered = s.offered := rfl
@[simp] theorem State.at_freeCtr (t : Nat) (i : Instr) (a : List Nat) : (s.at t i a).freeCtr = s.freeCtr := rfl
@[simp] theorem State.at_nextId (t : Nat) (i : Instr) (a : List Nat) : (s.at t i a).nextId = s.nextId := rfl
@[simp] theorem State.at_powered (t : Nat) (i : Instr) (a : List Nat) : (s.at t i a).powered = s.powered := rfl
@[simp] theorem State.at_mem (t : Nat) (i : Instr) (a : List Nat) : (s.at t i a).mem = s.mem := rfl
@[simp] theorem State.at_poison (t : Nat) (i : Instr) (a : List Nat) : (s.at t i a).poison = s.poison := rfl
@[simp] theorem State.at_cores (t : Nat) (i : Instr) (a : List Nat) : (s.at t i a).cores = s.cores := rfl
@[simp] theorem State.at_dies (t : Nat) (i : Instr) (a : List Nat) : (s.at t i a).dies = s.dies := rfl
@[simp] theorem State.at_accs (t : Nat) (i : Instr) (a : List Nat) : (s.at t i a).accs = s.accs := rfl
@[simp] theorem State.at_ctxs (t : Nat) (i : Instr) (a : List Nat) : (s.at t i a).ctxs = s.ctxs := rfl
@[simp] theorem State.at_queues (t : Nat) (i : Instr) (a : List Nat) : (s.at t i a).queues = s.queues := rfl
@[simp] theorem State.at_launches (t : Nat) (i : Instr) (a : List Nat) : (s.at t i a).launches = s.launches := rfl
@[simp] theorem State.at_entries (t : Nat) (i : Instr) (a : List Nat) : (s.at t i a).entries = s.entries := rfl
@[simp] theorem State.at_faultLog (t : Nat) (i : Instr) (a : List Nat) : (s.at t i a).faultLog = s.faultLog := rfl
@[simp] theorem State.at_ctxcmd (t : Nat) (i : Instr) (a : List Nat) : (s.at t i a).ctxcmd = s.ctxcmd := rfl
@[simp] theorem State.at_ctxrsp (t : Nat) (i : Instr) (a : List Nat) : (s.at t i a).ctxrsp = s.ctxrsp := rfl
@[simp] theorem State.at_pgcmd (t : Nat) (i : Instr) (a : List Nat) : (s.at t i a).pgcmd = s.pgcmd := rfl
@[simp] theorem State.at_pgrsp (t : Nat) (i : Instr) (a : List Nat) : (s.at t i a).pgrsp = s.pgrsp := rfl
@[simp] theorem State.at_gangbase (t : Nat) (i : Instr) (a : List Nat) : (s.at t i a).gangbase = s.gangbase := rfl
@[simp] theorem State.at_gangPosts (t : Nat) (i : Instr) (a : List Nat) : (s.at t i a).gangPosts = s.gangPosts := rfl
@[simp] theorem State.at_pqs (t : Nat) (i : Instr) (a : List Nat) : (s.at t i a).pqs = s.pqs := rfl
@[simp] theorem State.at_bars (t : Nat) (i : Instr) (a : List Nat) : (s.at t i a).bars = s.bars := rfl
@[simp] theorem State.at_wcnts (t : Nat) (i : Instr) (a : List Nat) : (s.at t i a).wcnts = s.wcnts := rfl
@[simp] theorem State.at_ops (t : Nat) (i : Instr) (a : List Nat) : (s.at t i a).ops = s.ops := rfl
@[simp] theorem State.at_msgs (t : Nat) (i : Instr) (a : List Nat) : (s.at t i a).msgs = s.msgs := rfl
@[simp] theorem State.at_ports (t : Nat) (i : Instr) (a : List Nat) : (s.at t i a).ports = s.ports := rfl
@[simp] theorem State.at_routes (t : Nat) (i : Instr) (a : List Nat) : (s.at t i a).routes = s.routes := rfl
@[simp] theorem State.at_access (t : Nat) (i : Instr) (a : List Nat) : (s.at t i a).access = s.access := rfl
@[simp] theorem State.at_peerResp (t : Nat) (i : Instr) (a : List Nat) : (s.at t i a).peerResp = s.peerResp := rfl
@[simp] theorem State.at_outbox (t : Nat) (i : Instr) (a : List Nat) : (s.at t i a).outbox = s.outbox := rfl
@[simp] theorem State.at_wire (t : Nat) (i : Instr) (a : List Nat) : (s.at t i a).wire = s.wire := rfl
@[simp] theorem State.at_reqNum (t : Nat) (i : Instr) (a : List Nat) : (s.at t i a).reqNum = s.reqNum := rfl
@[simp] theorem State.at_images (t : Nat) (i : Instr) (a : List Nat) : (s.at t i a).images = s.images := rfl
@[simp] theorem State.at_reached (t : Nat) (i : Instr) (a : List Nat) : (s.at t i a).reached = s.reached := rfl
@[simp] theorem State.at_device (t : Nat) (i : Instr) (a : List Nat) : (s.at t i a).device = s.device := rfl
@[simp] theorem State.at_topo (t : Nat) (i : Instr) (a : List Nat) : (s.at t i a).topo = s.topo := rfl
@[simp] theorem State.at_fwActive (t : Nat) (i : Instr) (a : List Nat) : (s.at t i a).fwActive = s.fwActive := rfl
@[simp] theorem State.at_fwStaged (t : Nat) (i : Instr) (a : List Nat) : (s.at t i a).fwStaged = s.fwStaged := rfl
@[simp] theorem State.at_fwMin (t : Nat) (i : Instr) (a : List Nat) : (s.at t i a).fwMin = s.fwMin := rfl
@[simp] theorem State.at_mgmtLog (t : Nat) (i : Instr) (a : List Nat) : (s.at t i a).mgmtLog = s.mgmtLog := rfl
@[simp] theorem State.at_mgmtOut (t : Nat) (i : Instr) (a : List Nat) : (s.at t i a).mgmtOut = s.mgmtOut := rfl
@[simp] theorem State.at_timeSet (t : Nat) (i : Instr) (a : List Nat) : (s.at t i a).timeSet = s.timeSet := rfl
@[simp] theorem State.at_timeSlew (t : Nat) (i : Instr) (a : List Nat) : (s.at t i a).timeSlew = s.timeSlew := rfl

@[simp] theorem State.after_now (n : Nat) (i : Instr) (a : List Nat) : (s.after n i a).now = s.now := rfl
@[simp] theorem State.after_count (n : Nat) (i : Instr) (a : List Nat) : (s.after n i a).count = s.count := rfl
@[simp] theorem State.after_agenda (n : Nat) (i : Instr) (a : List Nat) : (s.after n i a).agenda = insertDue (s.now + n) i (.nums a) s.agenda := rfl
@[simp] theorem State.after_cur (n : Nat) (i : Instr) (a : List Nat) : (s.after n i a).cur = s.cur := rfl
@[simp] theorem State.after_settledAt (n : Nat) (i : Instr) (a : List Nat) : (s.after n i a).settledAt = s.settledAt := rfl
@[simp] theorem State.after_offered (n : Nat) (i : Instr) (a : List Nat) : (s.after n i a).offered = s.offered := rfl
@[simp] theorem State.after_freeCtr (n : Nat) (i : Instr) (a : List Nat) : (s.after n i a).freeCtr = s.freeCtr := rfl
@[simp] theorem State.after_nextId (n : Nat) (i : Instr) (a : List Nat) : (s.after n i a).nextId = s.nextId := rfl
@[simp] theorem State.after_powered (n : Nat) (i : Instr) (a : List Nat) : (s.after n i a).powered = s.powered := rfl
@[simp] theorem State.after_mem (n : Nat) (i : Instr) (a : List Nat) : (s.after n i a).mem = s.mem := rfl
@[simp] theorem State.after_poison (n : Nat) (i : Instr) (a : List Nat) : (s.after n i a).poison = s.poison := rfl
@[simp] theorem State.after_cores (n : Nat) (i : Instr) (a : List Nat) : (s.after n i a).cores = s.cores := rfl
@[simp] theorem State.after_dies (n : Nat) (i : Instr) (a : List Nat) : (s.after n i a).dies = s.dies := rfl
@[simp] theorem State.after_accs (n : Nat) (i : Instr) (a : List Nat) : (s.after n i a).accs = s.accs := rfl
@[simp] theorem State.after_ctxs (n : Nat) (i : Instr) (a : List Nat) : (s.after n i a).ctxs = s.ctxs := rfl
@[simp] theorem State.after_queues (n : Nat) (i : Instr) (a : List Nat) : (s.after n i a).queues = s.queues := rfl
@[simp] theorem State.after_launches (n : Nat) (i : Instr) (a : List Nat) : (s.after n i a).launches = s.launches := rfl
@[simp] theorem State.after_entries (n : Nat) (i : Instr) (a : List Nat) : (s.after n i a).entries = s.entries := rfl
@[simp] theorem State.after_faultLog (n : Nat) (i : Instr) (a : List Nat) : (s.after n i a).faultLog = s.faultLog := rfl
@[simp] theorem State.after_ctxcmd (n : Nat) (i : Instr) (a : List Nat) : (s.after n i a).ctxcmd = s.ctxcmd := rfl
@[simp] theorem State.after_ctxrsp (n : Nat) (i : Instr) (a : List Nat) : (s.after n i a).ctxrsp = s.ctxrsp := rfl
@[simp] theorem State.after_pgcmd (n : Nat) (i : Instr) (a : List Nat) : (s.after n i a).pgcmd = s.pgcmd := rfl
@[simp] theorem State.after_pgrsp (n : Nat) (i : Instr) (a : List Nat) : (s.after n i a).pgrsp = s.pgrsp := rfl
@[simp] theorem State.after_gangbase (n : Nat) (i : Instr) (a : List Nat) : (s.after n i a).gangbase = s.gangbase := rfl
@[simp] theorem State.after_gangPosts (n : Nat) (i : Instr) (a : List Nat) : (s.after n i a).gangPosts = s.gangPosts := rfl
@[simp] theorem State.after_pqs (n : Nat) (i : Instr) (a : List Nat) : (s.after n i a).pqs = s.pqs := rfl
@[simp] theorem State.after_bars (n : Nat) (i : Instr) (a : List Nat) : (s.after n i a).bars = s.bars := rfl
@[simp] theorem State.after_wcnts (n : Nat) (i : Instr) (a : List Nat) : (s.after n i a).wcnts = s.wcnts := rfl
@[simp] theorem State.after_ops (n : Nat) (i : Instr) (a : List Nat) : (s.after n i a).ops = s.ops := rfl
@[simp] theorem State.after_msgs (n : Nat) (i : Instr) (a : List Nat) : (s.after n i a).msgs = s.msgs := rfl
@[simp] theorem State.after_ports (n : Nat) (i : Instr) (a : List Nat) : (s.after n i a).ports = s.ports := rfl
@[simp] theorem State.after_routes (n : Nat) (i : Instr) (a : List Nat) : (s.after n i a).routes = s.routes := rfl
@[simp] theorem State.after_access (n : Nat) (i : Instr) (a : List Nat) : (s.after n i a).access = s.access := rfl
@[simp] theorem State.after_peerResp (n : Nat) (i : Instr) (a : List Nat) : (s.after n i a).peerResp = s.peerResp := rfl
@[simp] theorem State.after_outbox (n : Nat) (i : Instr) (a : List Nat) : (s.after n i a).outbox = s.outbox := rfl
@[simp] theorem State.after_wire (n : Nat) (i : Instr) (a : List Nat) : (s.after n i a).wire = s.wire := rfl
@[simp] theorem State.after_reqNum (n : Nat) (i : Instr) (a : List Nat) : (s.after n i a).reqNum = s.reqNum := rfl
@[simp] theorem State.after_images (n : Nat) (i : Instr) (a : List Nat) : (s.after n i a).images = s.images := rfl
@[simp] theorem State.after_reached (n : Nat) (i : Instr) (a : List Nat) : (s.after n i a).reached = s.reached := rfl
@[simp] theorem State.after_device (n : Nat) (i : Instr) (a : List Nat) : (s.after n i a).device = s.device := rfl
@[simp] theorem State.after_topo (n : Nat) (i : Instr) (a : List Nat) : (s.after n i a).topo = s.topo := rfl
@[simp] theorem State.after_fwActive (n : Nat) (i : Instr) (a : List Nat) : (s.after n i a).fwActive = s.fwActive := rfl
@[simp] theorem State.after_fwStaged (n : Nat) (i : Instr) (a : List Nat) : (s.after n i a).fwStaged = s.fwStaged := rfl
@[simp] theorem State.after_fwMin (n : Nat) (i : Instr) (a : List Nat) : (s.after n i a).fwMin = s.fwMin := rfl
@[simp] theorem State.after_mgmtLog (n : Nat) (i : Instr) (a : List Nat) : (s.after n i a).mgmtLog = s.mgmtLog := rfl
@[simp] theorem State.after_mgmtOut (n : Nat) (i : Instr) (a : List Nat) : (s.after n i a).mgmtOut = s.mgmtOut := rfl
@[simp] theorem State.after_timeSet (n : Nat) (i : Instr) (a : List Nat) : (s.after n i a).timeSet = s.timeSet := rfl
@[simp] theorem State.after_timeSlew (n : Nat) (i : Instr) (a : List Nat) : (s.after n i a).timeSlew = s.timeSlew := rfl

@[simp] theorem State.cancelEv_now (i : Instr) (p : List Nat → Bool) : (s.cancelEv i p).now = s.now := rfl
@[simp] theorem State.cancelEv_count (i : Instr) (p : List Nat → Bool) : (s.cancelEv i p).count = s.count := rfl
@[simp] theorem State.cancelEv_cur (i : Instr) (p : List Nat → Bool) : (s.cancelEv i p).cur = s.cur := rfl
@[simp] theorem State.cancelEv_settledAt (i : Instr) (p : List Nat → Bool) : (s.cancelEv i p).settledAt = s.settledAt := rfl
@[simp] theorem State.cancelEv_offered (i : Instr) (p : List Nat → Bool) : (s.cancelEv i p).offered = s.offered := rfl
@[simp] theorem State.cancelEv_freeCtr (i : Instr) (p : List Nat → Bool) : (s.cancelEv i p).freeCtr = s.freeCtr := rfl
@[simp] theorem State.cancelEv_nextId (i : Instr) (p : List Nat → Bool) : (s.cancelEv i p).nextId = s.nextId := rfl
@[simp] theorem State.cancelEv_powered (i : Instr) (p : List Nat → Bool) : (s.cancelEv i p).powered = s.powered := rfl
@[simp] theorem State.cancelEv_mem (i : Instr) (p : List Nat → Bool) : (s.cancelEv i p).mem = s.mem := rfl
@[simp] theorem State.cancelEv_poison (i : Instr) (p : List Nat → Bool) : (s.cancelEv i p).poison = s.poison := rfl
@[simp] theorem State.cancelEv_cores (i : Instr) (p : List Nat → Bool) : (s.cancelEv i p).cores = s.cores := rfl
@[simp] theorem State.cancelEv_dies (i : Instr) (p : List Nat → Bool) : (s.cancelEv i p).dies = s.dies := rfl
@[simp] theorem State.cancelEv_accs (i : Instr) (p : List Nat → Bool) : (s.cancelEv i p).accs = s.accs := rfl
@[simp] theorem State.cancelEv_ctxs (i : Instr) (p : List Nat → Bool) : (s.cancelEv i p).ctxs = s.ctxs := rfl
@[simp] theorem State.cancelEv_queues (i : Instr) (p : List Nat → Bool) : (s.cancelEv i p).queues = s.queues := rfl
@[simp] theorem State.cancelEv_launches (i : Instr) (p : List Nat → Bool) : (s.cancelEv i p).launches = s.launches := rfl
@[simp] theorem State.cancelEv_entries (i : Instr) (p : List Nat → Bool) : (s.cancelEv i p).entries = s.entries := rfl
@[simp] theorem State.cancelEv_faultLog (i : Instr) (p : List Nat → Bool) : (s.cancelEv i p).faultLog = s.faultLog := rfl
@[simp] theorem State.cancelEv_ctxcmd (i : Instr) (p : List Nat → Bool) : (s.cancelEv i p).ctxcmd = s.ctxcmd := rfl
@[simp] theorem State.cancelEv_ctxrsp (i : Instr) (p : List Nat → Bool) : (s.cancelEv i p).ctxrsp = s.ctxrsp := rfl
@[simp] theorem State.cancelEv_pgcmd (i : Instr) (p : List Nat → Bool) : (s.cancelEv i p).pgcmd = s.pgcmd := rfl
@[simp] theorem State.cancelEv_pgrsp (i : Instr) (p : List Nat → Bool) : (s.cancelEv i p).pgrsp = s.pgrsp := rfl
@[simp] theorem State.cancelEv_gangbase (i : Instr) (p : List Nat → Bool) : (s.cancelEv i p).gangbase = s.gangbase := rfl
@[simp] theorem State.cancelEv_gangPosts (i : Instr) (p : List Nat → Bool) : (s.cancelEv i p).gangPosts = s.gangPosts := rfl
@[simp] theorem State.cancelEv_pqs (i : Instr) (p : List Nat → Bool) : (s.cancelEv i p).pqs = s.pqs := rfl
@[simp] theorem State.cancelEv_bars (i : Instr) (p : List Nat → Bool) : (s.cancelEv i p).bars = s.bars := rfl
@[simp] theorem State.cancelEv_wcnts (i : Instr) (p : List Nat → Bool) : (s.cancelEv i p).wcnts = s.wcnts := rfl
@[simp] theorem State.cancelEv_ops (i : Instr) (p : List Nat → Bool) : (s.cancelEv i p).ops = s.ops := rfl
@[simp] theorem State.cancelEv_msgs (i : Instr) (p : List Nat → Bool) : (s.cancelEv i p).msgs = s.msgs := rfl
@[simp] theorem State.cancelEv_ports (i : Instr) (p : List Nat → Bool) : (s.cancelEv i p).ports = s.ports := rfl
@[simp] theorem State.cancelEv_routes (i : Instr) (p : List Nat → Bool) : (s.cancelEv i p).routes = s.routes := rfl
@[simp] theorem State.cancelEv_access (i : Instr) (p : List Nat → Bool) : (s.cancelEv i p).access = s.access := rfl
@[simp] theorem State.cancelEv_peerResp (i : Instr) (p : List Nat → Bool) : (s.cancelEv i p).peerResp = s.peerResp := rfl
@[simp] theorem State.cancelEv_outbox (i : Instr) (p : List Nat → Bool) : (s.cancelEv i p).outbox = s.outbox := rfl
@[simp] theorem State.cancelEv_wire (i : Instr) (p : List Nat → Bool) : (s.cancelEv i p).wire = s.wire := rfl
@[simp] theorem State.cancelEv_reqNum (i : Instr) (p : List Nat → Bool) : (s.cancelEv i p).reqNum = s.reqNum := rfl
@[simp] theorem State.cancelEv_images (i : Instr) (p : List Nat → Bool) : (s.cancelEv i p).images = s.images := rfl
@[simp] theorem State.cancelEv_reached (i : Instr) (p : List Nat → Bool) : (s.cancelEv i p).reached = s.reached := rfl
@[simp] theorem State.cancelEv_device (i : Instr) (p : List Nat → Bool) : (s.cancelEv i p).device = s.device := rfl
@[simp] theorem State.cancelEv_topo (i : Instr) (p : List Nat → Bool) : (s.cancelEv i p).topo = s.topo := rfl
@[simp] theorem State.cancelEv_fwActive (i : Instr) (p : List Nat → Bool) : (s.cancelEv i p).fwActive = s.fwActive := rfl
@[simp] theorem State.cancelEv_fwStaged (i : Instr) (p : List Nat → Bool) : (s.cancelEv i p).fwStaged = s.fwStaged := rfl
@[simp] theorem State.cancelEv_fwMin (i : Instr) (p : List Nat → Bool) : (s.cancelEv i p).fwMin = s.fwMin := rfl
@[simp] theorem State.cancelEv_mgmtLog (i : Instr) (p : List Nat → Bool) : (s.cancelEv i p).mgmtLog = s.mgmtLog := rfl
@[simp] theorem State.cancelEv_mgmtOut (i : Instr) (p : List Nat → Bool) : (s.cancelEv i p).mgmtOut = s.mgmtOut := rfl
@[simp] theorem State.cancelEv_timeSet (i : Instr) (p : List Nat → Bool) : (s.cancelEv i p).timeSet = s.timeSet := rfl
@[simp] theorem State.cancelEv_timeSlew (i : Instr) (p : List Nat → Bool) : (s.cancelEv i p).timeSlew = s.timeSlew := rfl

@[simp] theorem State.putScratch_now (c off : Nat) (bs : List Byte) : (s.putScratch c off bs).now = s.now := rfl
@[simp] theorem State.putScratch_count (c off : Nat) (bs : List Byte) : (s.putScratch c off bs).count = s.count := rfl
@[simp] theorem State.putScratch_agenda (c off : Nat) (bs : List Byte) : (s.putScratch c off bs).agenda = s.agenda := rfl
@[simp] theorem State.putScratch_cur (c off : Nat) (bs : List Byte) : (s.putScratch c off bs).cur = s.cur := rfl
@[simp] theorem State.putScratch_settledAt (c off : Nat) (bs : List Byte) : (s.putScratch c off bs).settledAt = s.settledAt := rfl
@[simp] theorem State.putScratch_offered (c off : Nat) (bs : List Byte) : (s.putScratch c off bs).offered = s.offered := rfl
@[simp] theorem State.putScratch_freeCtr (c off : Nat) (bs : List Byte) : (s.putScratch c off bs).freeCtr = s.freeCtr := rfl
@[simp] theorem State.putScratch_nextId (c off : Nat) (bs : List Byte) : (s.putScratch c off bs).nextId = s.nextId := rfl
@[simp] theorem State.putScratch_powered (c off : Nat) (bs : List Byte) : (s.putScratch c off bs).powered = s.powered := rfl
@[simp] theorem State.putScratch_mem (c off : Nat) (bs : List Byte) : (s.putScratch c off bs).mem = writeBytes s.mem (scratchAddr c off) bs := rfl
@[simp] theorem State.putScratch_poison (c off : Nat) (bs : List Byte) : (s.putScratch c off bs).poison = s.poison := rfl
@[simp] theorem State.putScratch_cores (c off : Nat) (bs : List Byte) : (s.putScratch c off bs).cores = s.cores := rfl
@[simp] theorem State.putScratch_dies (c off : Nat) (bs : List Byte) : (s.putScratch c off bs).dies = s.dies := rfl
@[simp] theorem State.putScratch_accs (c off : Nat) (bs : List Byte) : (s.putScratch c off bs).accs = s.accs := rfl
@[simp] theorem State.putScratch_ctxs (c off : Nat) (bs : List Byte) : (s.putScratch c off bs).ctxs = s.ctxs := rfl
@[simp] theorem State.putScratch_queues (c off : Nat) (bs : List Byte) : (s.putScratch c off bs).queues = s.queues := rfl
@[simp] theorem State.putScratch_launches (c off : Nat) (bs : List Byte) : (s.putScratch c off bs).launches = s.launches := rfl
@[simp] theorem State.putScratch_entries (c off : Nat) (bs : List Byte) : (s.putScratch c off bs).entries = s.entries := rfl
@[simp] theorem State.putScratch_faultLog (c off : Nat) (bs : List Byte) : (s.putScratch c off bs).faultLog = s.faultLog := rfl
@[simp] theorem State.putScratch_ctxcmd (c off : Nat) (bs : List Byte) : (s.putScratch c off bs).ctxcmd = s.ctxcmd := rfl
@[simp] theorem State.putScratch_ctxrsp (c off : Nat) (bs : List Byte) : (s.putScratch c off bs).ctxrsp = s.ctxrsp := rfl
@[simp] theorem State.putScratch_pgcmd (c off : Nat) (bs : List Byte) : (s.putScratch c off bs).pgcmd = s.pgcmd := rfl
@[simp] theorem State.putScratch_pgrsp (c off : Nat) (bs : List Byte) : (s.putScratch c off bs).pgrsp = s.pgrsp := rfl
@[simp] theorem State.putScratch_gangbase (c off : Nat) (bs : List Byte) : (s.putScratch c off bs).gangbase = s.gangbase := rfl
@[simp] theorem State.putScratch_gangPosts (c off : Nat) (bs : List Byte) : (s.putScratch c off bs).gangPosts = s.gangPosts := rfl
@[simp] theorem State.putScratch_pqs (c off : Nat) (bs : List Byte) : (s.putScratch c off bs).pqs = s.pqs := rfl
@[simp] theorem State.putScratch_bars (c off : Nat) (bs : List Byte) : (s.putScratch c off bs).bars = s.bars := rfl
@[simp] theorem State.putScratch_wcnts (c off : Nat) (bs : List Byte) : (s.putScratch c off bs).wcnts = s.wcnts := rfl
@[simp] theorem State.putScratch_ops (c off : Nat) (bs : List Byte) : (s.putScratch c off bs).ops = s.ops := rfl
@[simp] theorem State.putScratch_msgs (c off : Nat) (bs : List Byte) : (s.putScratch c off bs).msgs = s.msgs := rfl
@[simp] theorem State.putScratch_ports (c off : Nat) (bs : List Byte) : (s.putScratch c off bs).ports = s.ports := rfl
@[simp] theorem State.putScratch_routes (c off : Nat) (bs : List Byte) : (s.putScratch c off bs).routes = s.routes := rfl
@[simp] theorem State.putScratch_access (c off : Nat) (bs : List Byte) : (s.putScratch c off bs).access = s.access := rfl
@[simp] theorem State.putScratch_peerResp (c off : Nat) (bs : List Byte) : (s.putScratch c off bs).peerResp = s.peerResp := rfl
@[simp] theorem State.putScratch_outbox (c off : Nat) (bs : List Byte) : (s.putScratch c off bs).outbox = s.outbox := rfl
@[simp] theorem State.putScratch_wire (c off : Nat) (bs : List Byte) : (s.putScratch c off bs).wire = s.wire := rfl
@[simp] theorem State.putScratch_reqNum (c off : Nat) (bs : List Byte) : (s.putScratch c off bs).reqNum = s.reqNum := rfl
@[simp] theorem State.putScratch_images (c off : Nat) (bs : List Byte) : (s.putScratch c off bs).images = s.images := rfl
@[simp] theorem State.putScratch_reached (c off : Nat) (bs : List Byte) : (s.putScratch c off bs).reached = s.reached := rfl
@[simp] theorem State.putScratch_device (c off : Nat) (bs : List Byte) : (s.putScratch c off bs).device = s.device := rfl
@[simp] theorem State.putScratch_topo (c off : Nat) (bs : List Byte) : (s.putScratch c off bs).topo = s.topo := rfl
@[simp] theorem State.putScratch_fwActive (c off : Nat) (bs : List Byte) : (s.putScratch c off bs).fwActive = s.fwActive := rfl
@[simp] theorem State.putScratch_fwStaged (c off : Nat) (bs : List Byte) : (s.putScratch c off bs).fwStaged = s.fwStaged := rfl
@[simp] theorem State.putScratch_fwMin (c off : Nat) (bs : List Byte) : (s.putScratch c off bs).fwMin = s.fwMin := rfl
@[simp] theorem State.putScratch_mgmtLog (c off : Nat) (bs : List Byte) : (s.putScratch c off bs).mgmtLog = s.mgmtLog := rfl
@[simp] theorem State.putScratch_mgmtOut (c off : Nat) (bs : List Byte) : (s.putScratch c off bs).mgmtOut = s.mgmtOut := rfl
@[simp] theorem State.putScratch_timeSet (c off : Nat) (bs : List Byte) : (s.putScratch c off bs).timeSet = s.timeSet := rfl
@[simp] theorem State.putScratch_timeSlew (c off : Nat) (bs : List Byte) : (s.putScratch c off bs).timeSlew = s.timeSlew := rfl

@[simp] theorem State.putPhys_now (pa : Nat) (bs : List Byte) : (s.putPhys pa bs).now = s.now := rfl
@[simp] theorem State.putPhys_count (pa : Nat) (bs : List Byte) : (s.putPhys pa bs).count = s.count := rfl
@[simp] theorem State.putPhys_agenda (pa : Nat) (bs : List Byte) : (s.putPhys pa bs).agenda = s.agenda := rfl
@[simp] theorem State.putPhys_cur (pa : Nat) (bs : List Byte) : (s.putPhys pa bs).cur = s.cur := rfl
@[simp] theorem State.putPhys_settledAt (pa : Nat) (bs : List Byte) : (s.putPhys pa bs).settledAt = s.settledAt := rfl
@[simp] theorem State.putPhys_offered (pa : Nat) (bs : List Byte) : (s.putPhys pa bs).offered = s.offered := rfl
@[simp] theorem State.putPhys_freeCtr (pa : Nat) (bs : List Byte) : (s.putPhys pa bs).freeCtr = s.freeCtr := rfl
@[simp] theorem State.putPhys_nextId (pa : Nat) (bs : List Byte) : (s.putPhys pa bs).nextId = s.nextId := rfl
@[simp] theorem State.putPhys_powered (pa : Nat) (bs : List Byte) : (s.putPhys pa bs).powered = s.powered := rfl
@[simp] theorem State.putPhys_mem (pa : Nat) (bs : List Byte) : (s.putPhys pa bs).mem = writeBytes s.mem pa bs := rfl
@[simp] theorem State.putPhys_poison (pa : Nat) (bs : List Byte) : (s.putPhys pa bs).poison = clearPoison s.poison pa bs.length := rfl
@[simp] theorem State.putPhys_cores (pa : Nat) (bs : List Byte) : (s.putPhys pa bs).cores = s.cores := rfl
@[simp] theorem State.putPhys_dies (pa : Nat) (bs : List Byte) : (s.putPhys pa bs).dies = s.dies := rfl
@[simp] theorem State.putPhys_accs (pa : Nat) (bs : List Byte) : (s.putPhys pa bs).accs = s.accs := rfl
@[simp] theorem State.putPhys_ctxs (pa : Nat) (bs : List Byte) : (s.putPhys pa bs).ctxs = s.ctxs := rfl
@[simp] theorem State.putPhys_queues (pa : Nat) (bs : List Byte) : (s.putPhys pa bs).queues = s.queues := rfl
@[simp] theorem State.putPhys_launches (pa : Nat) (bs : List Byte) : (s.putPhys pa bs).launches = s.launches := rfl
@[simp] theorem State.putPhys_entries (pa : Nat) (bs : List Byte) : (s.putPhys pa bs).entries = s.entries := rfl
@[simp] theorem State.putPhys_faultLog (pa : Nat) (bs : List Byte) : (s.putPhys pa bs).faultLog = s.faultLog := rfl
@[simp] theorem State.putPhys_ctxcmd (pa : Nat) (bs : List Byte) : (s.putPhys pa bs).ctxcmd = s.ctxcmd := rfl
@[simp] theorem State.putPhys_ctxrsp (pa : Nat) (bs : List Byte) : (s.putPhys pa bs).ctxrsp = s.ctxrsp := rfl
@[simp] theorem State.putPhys_pgcmd (pa : Nat) (bs : List Byte) : (s.putPhys pa bs).pgcmd = s.pgcmd := rfl
@[simp] theorem State.putPhys_pgrsp (pa : Nat) (bs : List Byte) : (s.putPhys pa bs).pgrsp = s.pgrsp := rfl
@[simp] theorem State.putPhys_gangbase (pa : Nat) (bs : List Byte) : (s.putPhys pa bs).gangbase = s.gangbase := rfl
@[simp] theorem State.putPhys_gangPosts (pa : Nat) (bs : List Byte) : (s.putPhys pa bs).gangPosts = s.gangPosts := rfl
@[simp] theorem State.putPhys_pqs (pa : Nat) (bs : List Byte) : (s.putPhys pa bs).pqs = s.pqs := rfl
@[simp] theorem State.putPhys_bars (pa : Nat) (bs : List Byte) : (s.putPhys pa bs).bars = s.bars := rfl
@[simp] theorem State.putPhys_wcnts (pa : Nat) (bs : List Byte) : (s.putPhys pa bs).wcnts = s.wcnts := rfl
@[simp] theorem State.putPhys_ops (pa : Nat) (bs : List Byte) : (s.putPhys pa bs).ops = s.ops := rfl
@[simp] theorem State.putPhys_msgs (pa : Nat) (bs : List Byte) : (s.putPhys pa bs).msgs = s.msgs := rfl
@[simp] theorem State.putPhys_ports (pa : Nat) (bs : List Byte) : (s.putPhys pa bs).ports = s.ports := rfl
@[simp] theorem State.putPhys_routes (pa : Nat) (bs : List Byte) : (s.putPhys pa bs).routes = s.routes := rfl
@[simp] theorem State.putPhys_access (pa : Nat) (bs : List Byte) : (s.putPhys pa bs).access = s.access := rfl
@[simp] theorem State.putPhys_peerResp (pa : Nat) (bs : List Byte) : (s.putPhys pa bs).peerResp = s.peerResp := rfl
@[simp] theorem State.putPhys_outbox (pa : Nat) (bs : List Byte) : (s.putPhys pa bs).outbox = s.outbox := rfl
@[simp] theorem State.putPhys_wire (pa : Nat) (bs : List Byte) : (s.putPhys pa bs).wire = s.wire := rfl
@[simp] theorem State.putPhys_reqNum (pa : Nat) (bs : List Byte) : (s.putPhys pa bs).reqNum = s.reqNum := rfl
@[simp] theorem State.putPhys_images (pa : Nat) (bs : List Byte) : (s.putPhys pa bs).images = s.images := rfl
@[simp] theorem State.putPhys_reached (pa : Nat) (bs : List Byte) : (s.putPhys pa bs).reached = s.reached := rfl
@[simp] theorem State.putPhys_device (pa : Nat) (bs : List Byte) : (s.putPhys pa bs).device = s.device := rfl
@[simp] theorem State.putPhys_topo (pa : Nat) (bs : List Byte) : (s.putPhys pa bs).topo = s.topo := rfl
@[simp] theorem State.putPhys_fwActive (pa : Nat) (bs : List Byte) : (s.putPhys pa bs).fwActive = s.fwActive := rfl
@[simp] theorem State.putPhys_fwStaged (pa : Nat) (bs : List Byte) : (s.putPhys pa bs).fwStaged = s.fwStaged := rfl
@[simp] theorem State.putPhys_fwMin (pa : Nat) (bs : List Byte) : (s.putPhys pa bs).fwMin = s.fwMin := rfl
@[simp] theorem State.putPhys_mgmtLog (pa : Nat) (bs : List Byte) : (s.putPhys pa bs).mgmtLog = s.mgmtLog := rfl
@[simp] theorem State.putPhys_mgmtOut (pa : Nat) (bs : List Byte) : (s.putPhys pa bs).mgmtOut = s.mgmtOut := rfl
@[simp] theorem State.putPhys_timeSet (pa : Nat) (bs : List Byte) : (s.putPhys pa bs).timeSet = s.timeSet := rfl
@[simp] theorem State.putPhys_timeSlew (pa : Nat) (bs : List Byte) : (s.putPhys pa bs).timeSlew = s.timeSlew := rfl

@[simp] theorem State.modLaunch_now (n : Nat) (f : Launch → Launch) : (s.modLaunch n f).now = s.now := by
  unfold State.modLaunch; split <;> rfl
@[simp] theorem State.modLaunch_count (n : Nat) (f : Launch → Launch) : (s.modLaunch n f).count = s.count := by
  unfold State.modLaunch; split <;> rfl
@[simp] theorem State.modLaunch_agenda (n : Nat) (f : Launch → Launch) : (s.modLaunch n f).agenda = s.agenda := by
  unfold State.modLaunch; split <;> rfl
@[simp] theorem State.modLaunch_cur (n : Nat) (f : Launch → Launch) : (s.modLaunch n f).cur = s.cur := by
  unfold State.modLaunch; split <;> rfl
@[simp] theorem State.modLaunch_settledAt (n : Nat) (f : Launch → Launch) : (s.modLaunch n f).settledAt = s.settledAt := by
  unfold State.modLaunch; split <;> rfl
@[simp] theorem State.modLaunch_offered (n : Nat) (f : Launch → Launch) : (s.modLaunch n f).offered = s.offered := by
  unfold State.modLaunch; split <;> rfl
@[simp] theorem State.modLaunch_freeCtr (n : Nat) (f : Launch → Launch) : (s.modLaunch n f).freeCtr = s.freeCtr := by
  unfold State.modLaunch; split <;> rfl
@[simp] theorem State.modLaunch_nextId (n : Nat) (f : Launch → Launch) : (s.modLaunch n f).nextId = s.nextId := by
  unfold State.modLaunch; split <;> rfl
@[simp] theorem State.modLaunch_powered (n : Nat) (f : Launch → Launch) : (s.modLaunch n f).powered = s.powered := by
  unfold State.modLaunch; split <;> rfl
@[simp] theorem State.modLaunch_mem (n : Nat) (f : Launch → Launch) : (s.modLaunch n f).mem = s.mem := by
  unfold State.modLaunch; split <;> rfl
@[simp] theorem State.modLaunch_poison (n : Nat) (f : Launch → Launch) : (s.modLaunch n f).poison = s.poison := by
  unfold State.modLaunch; split <;> rfl
@[simp] theorem State.modLaunch_cores (n : Nat) (f : Launch → Launch) : (s.modLaunch n f).cores = s.cores := by
  unfold State.modLaunch; split <;> rfl
@[simp] theorem State.modLaunch_dies (n : Nat) (f : Launch → Launch) : (s.modLaunch n f).dies = s.dies := by
  unfold State.modLaunch; split <;> rfl
@[simp] theorem State.modLaunch_accs (n : Nat) (f : Launch → Launch) : (s.modLaunch n f).accs = s.accs := by
  unfold State.modLaunch; split <;> rfl
@[simp] theorem State.modLaunch_ctxs (n : Nat) (f : Launch → Launch) : (s.modLaunch n f).ctxs = s.ctxs := by
  unfold State.modLaunch; split <;> rfl
@[simp] theorem State.modLaunch_queues (n : Nat) (f : Launch → Launch) : (s.modLaunch n f).queues = s.queues := by
  unfold State.modLaunch; split <;> rfl
@[simp] theorem State.modLaunch_entries (n : Nat) (f : Launch → Launch) : (s.modLaunch n f).entries = s.entries := by
  unfold State.modLaunch; split <;> rfl
@[simp] theorem State.modLaunch_faultLog (n : Nat) (f : Launch → Launch) : (s.modLaunch n f).faultLog = s.faultLog := by
  unfold State.modLaunch; split <;> rfl
@[simp] theorem State.modLaunch_ctxcmd (n : Nat) (f : Launch → Launch) : (s.modLaunch n f).ctxcmd = s.ctxcmd := by
  unfold State.modLaunch; split <;> rfl
@[simp] theorem State.modLaunch_ctxrsp (n : Nat) (f : Launch → Launch) : (s.modLaunch n f).ctxrsp = s.ctxrsp := by
  unfold State.modLaunch; split <;> rfl
@[simp] theorem State.modLaunch_pgcmd (n : Nat) (f : Launch → Launch) : (s.modLaunch n f).pgcmd = s.pgcmd := by
  unfold State.modLaunch; split <;> rfl
@[simp] theorem State.modLaunch_pgrsp (n : Nat) (f : Launch → Launch) : (s.modLaunch n f).pgrsp = s.pgrsp := by
  unfold State.modLaunch; split <;> rfl
@[simp] theorem State.modLaunch_gangbase (n : Nat) (f : Launch → Launch) : (s.modLaunch n f).gangbase = s.gangbase := by
  unfold State.modLaunch; split <;> rfl
@[simp] theorem State.modLaunch_gangPosts (n : Nat) (f : Launch → Launch) : (s.modLaunch n f).gangPosts = s.gangPosts := by
  unfold State.modLaunch; split <;> rfl
@[simp] theorem State.modLaunch_pqs (n : Nat) (f : Launch → Launch) : (s.modLaunch n f).pqs = s.pqs := by
  unfold State.modLaunch; split <;> rfl
@[simp] theorem State.modLaunch_bars (n : Nat) (f : Launch → Launch) : (s.modLaunch n f).bars = s.bars := by
  unfold State.modLaunch; split <;> rfl
@[simp] theorem State.modLaunch_wcnts (n : Nat) (f : Launch → Launch) : (s.modLaunch n f).wcnts = s.wcnts := by
  unfold State.modLaunch; split <;> rfl
@[simp] theorem State.modLaunch_ops (n : Nat) (f : Launch → Launch) : (s.modLaunch n f).ops = s.ops := by
  unfold State.modLaunch; split <;> rfl
@[simp] theorem State.modLaunch_msgs (n : Nat) (f : Launch → Launch) : (s.modLaunch n f).msgs = s.msgs := by
  unfold State.modLaunch; split <;> rfl
@[simp] theorem State.modLaunch_ports (n : Nat) (f : Launch → Launch) : (s.modLaunch n f).ports = s.ports := by
  unfold State.modLaunch; split <;> rfl
@[simp] theorem State.modLaunch_routes (n : Nat) (f : Launch → Launch) : (s.modLaunch n f).routes = s.routes := by
  unfold State.modLaunch; split <;> rfl
@[simp] theorem State.modLaunch_access (n : Nat) (f : Launch → Launch) : (s.modLaunch n f).access = s.access := by
  unfold State.modLaunch; split <;> rfl
@[simp] theorem State.modLaunch_peerResp (n : Nat) (f : Launch → Launch) : (s.modLaunch n f).peerResp = s.peerResp := by
  unfold State.modLaunch; split <;> rfl
@[simp] theorem State.modLaunch_outbox (n : Nat) (f : Launch → Launch) : (s.modLaunch n f).outbox = s.outbox := by
  unfold State.modLaunch; split <;> rfl
@[simp] theorem State.modLaunch_wire (n : Nat) (f : Launch → Launch) : (s.modLaunch n f).wire = s.wire := by
  unfold State.modLaunch; split <;> rfl
@[simp] theorem State.modLaunch_reqNum (n : Nat) (f : Launch → Launch) : (s.modLaunch n f).reqNum = s.reqNum := by
  unfold State.modLaunch; split <;> rfl
@[simp] theorem State.modLaunch_images (n : Nat) (f : Launch → Launch) : (s.modLaunch n f).images = s.images := by
  unfold State.modLaunch; split <;> rfl
@[simp] theorem State.modLaunch_reached (n : Nat) (f : Launch → Launch) : (s.modLaunch n f).reached = s.reached := by
  unfold State.modLaunch; split <;> rfl
@[simp] theorem State.modLaunch_device (n : Nat) (f : Launch → Launch) : (s.modLaunch n f).device = s.device := by
  unfold State.modLaunch; split <;> rfl
@[simp] theorem State.modLaunch_topo (n : Nat) (f : Launch → Launch) : (s.modLaunch n f).topo = s.topo := by
  unfold State.modLaunch; split <;> rfl
@[simp] theorem State.modLaunch_fwActive (n : Nat) (f : Launch → Launch) : (s.modLaunch n f).fwActive = s.fwActive := by
  unfold State.modLaunch; split <;> rfl
@[simp] theorem State.modLaunch_fwStaged (n : Nat) (f : Launch → Launch) : (s.modLaunch n f).fwStaged = s.fwStaged := by
  unfold State.modLaunch; split <;> rfl
@[simp] theorem State.modLaunch_fwMin (n : Nat) (f : Launch → Launch) : (s.modLaunch n f).fwMin = s.fwMin := by
  unfold State.modLaunch; split <;> rfl
@[simp] theorem State.modLaunch_mgmtLog (n : Nat) (f : Launch → Launch) : (s.modLaunch n f).mgmtLog = s.mgmtLog := by
  unfold State.modLaunch; split <;> rfl
@[simp] theorem State.modLaunch_mgmtOut (n : Nat) (f : Launch → Launch) : (s.modLaunch n f).mgmtOut = s.mgmtOut := by
  unfold State.modLaunch; split <;> rfl
@[simp] theorem State.modLaunch_timeSet (n : Nat) (f : Launch → Launch) : (s.modLaunch n f).timeSet = s.timeSet := by
  unfold State.modLaunch; split <;> rfl
@[simp] theorem State.modLaunch_timeSlew (n : Nat) (f : Launch → Launch) : (s.modLaunch n f).timeSlew = s.timeSlew := by
  unfold State.modLaunch; split <;> rfl

end Sys2Proof.Machine
end

