-- ==== Sys2Proof/Laws/Map.lean ====
section
/-! SUPPORT. Reading a sparse map after a change of it, and the units of the state that are kept in sparse maps. -/

namespace Sys2Proof.Machine

variable {α : Type}

@[simp] theorem AMap.find?_put_same (m : AMap α) (k : Nat) (v : α) : AMap.find? (AMap.put m k v) k = some v := by
  induction m with
  | nil => simp [AMap.put, AMap.find?]
  | cons p t ih =>
    obtain ⟨j, u⟩ := p
    simp only [AMap.put]
    split
    · simp [AMap.find?]
    · split
      · simp [AMap.find?]
      · rename_i h; simp [AMap.find?, h, ih]

theorem AMap.find?_put_other (m : AMap α) {k j : Nat} (v : α) (h : j ≠ k) :
    AMap.find? (AMap.put m k v) j = AMap.find? m j := by
  induction m with
  | nil => simp [AMap.put, AMap.find?, h]
  | cons p t ih =>
    obtain ⟨i, u⟩ := p
    simp only [AMap.put]
    split
    · simp [AMap.find?, h]
    · split
      · rename_i h1 h2; subst h2; simp [AMap.find?, h]
      · simp [AMap.find?, ih]

@[simp] theorem AMap.get_put_same (m : AMap α) (k : Nat) (v d : α) : AMap.get (AMap.put m k v) k d = v := by simp [AMap.get]

theorem AMap.get_put_other (m : AMap α) {k j : Nat} (v d : α) (h : j ≠ k) :
    AMap.get (AMap.put m k v) j d = AMap.get m j d := by simp [AMap.get, AMap.find?_put_other m v h]

@[simp] theorem AMap.find?_del_same (m : AMap α) (k : Nat) : AMap.find? (AMap.del m k) k = none := by
  induction m with
  | nil => rfl
  | cons p t ih =>
    obtain ⟨j, u⟩ := p
    unfold AMap.del at *
    by_cases h : j = k
    · simp [h, ih]
    · have h' : ¬k = j := fun e => h e.symm
      simp [h, AMap.find?, h', ih]

theorem AMap.find?_del_other (m : AMap α) {k j : Nat} (h : j ≠ k) : AMap.find? (AMap.del m k) j = AMap.find? m j := by
  induction m with
  | nil => rfl
  | cons p t ih =>
    obtain ⟨i, u⟩ := p
    unfold AMap.del at *
    by_cases hi : i = k
    · subst hi; simp [AMap.find?, h, ih]
    · simp [hi, AMap.find?, ih]

variable (s : State)

@[simp] theorem State.core_setCore_same (c : Nat) (k : Core) : (s.setCore c k).core c = k := by simp [State.core]
theorem State.core_setCore_other {c d : Nat} (k : Core) (h : d ≠ c) : (s.setCore c k).core d = s.core d := by
  simp [State.core, AMap.get_put_other _ _ _ h]
@[simp] theorem State.core_modCore_same (c : Nat) (f : Core → Core) : (s.modCore c f).core c = f (s.core c) := by simp [State.modCore]
theorem State.core_modCore_other {c d : Nat} (f : Core → Core) (h : d ≠ c) : (s.modCore c f).core d = s.core d :=
  s.core_setCore_other _ h
@[simp] theorem State.core_fresh (c : Nat) : s.fresh.2.core c = s.core c := rfl
@[simp] theorem State.core_freeArg (c : Nat) : s.freeArg.2.core c = s.core c := rfl
@[simp] theorem State.core_at (c t : Nat) (i : Instr) (a : List Nat) : (s.at t i a).core c = s.core c := rfl
@[simp] theorem State.core_after (c n : Nat) (i : Instr) (a : List Nat) : (s.after n i a).core c = s.core c := rfl
@[simp] theorem State.core_cancelEv (c : Nat) (i : Instr) (p : List Nat → Bool) : (s.cancelEv i p).core c = s.core c := rfl
@[simp] theorem State.core_modDie (c d : Nat) (f : Die → Die) : (s.modDie d f).core c = s.core c := rfl
@[simp] theorem State.core_modQueue (c q : Nat) (f : Queue → Queue) : (s.modQueue q f).core c = s.core c := rfl
@[simp] theorem State.core_modCtx (c x : Nat) (f : Ctx → Ctx) : (s.modCtx x f).core c = s.core c := rfl
@[simp] theorem State.core_putPhys (c pa : Nat) (bs : List Byte) : (s.putPhys pa bs).core c = s.core c := rfl
@[simp] theorem State.core_putScratch (c d off : Nat) (bs : List Byte) : (s.putScratch d off bs).core c = s.core c := rfl
@[simp] theorem State.core_modLaunch (c n : Nat) (f : Launch → Launch) : (s.modLaunch n f).core c = s.core c := by
  simp [State.core]
@[simp] theorem State.queue_modQueue_same (q : Nat) (f : Queue → Queue) : (s.modQueue q f).queue q = f (s.queue q) := by
  simp [State.queue]
theorem State.queue_modQueue_other {q p : Nat} (f : Queue → Queue) (h : p ≠ q) : (s.modQueue q f).queue p = s.queue p := by
  simp [State.queue, AMap.get_put_other _ _ _ h]
@[simp] theorem State.ctx_modCtx_same (x : Nat) (f : Ctx → Ctx) : (s.modCtx x f).ctx x = f (s.ctx x) := by simp [State.ctx]
theorem State.ctx_modCtx_other {x y : Nat} (f : Ctx → Ctx) (h : y ≠ x) : (s.modCtx x f).ctx y = s.ctx y := by
  simp [State.ctx, AMap.get_put_other _ _ _ h]
@[simp] theorem State.die_modDie_same (d : Nat) (f : Die → Die) : (s.modDie d f).die d = f (s.die d) := by simp [State.die]
theorem State.die_modDie_other {d e : Nat} (f : Die → Die) (h : e ≠ d) : (s.modDie d f).die e = s.die e := by
  simp [State.die, AMap.get_put_other _ _ _ h]

/-- The event that `after` adds stands in the agenda. -/
theorem mem_insertDue (t : Nat) (i : Instr) (a : EvArg) (l : List (Nat × Instr × EvArg)) : (t, i, a) ∈ insertDue t i a l := by
  induction l with
  | nil => simp [insertDue]
  | cons p r ih => unfold insertDue; split <;> simp [ih]

/-- Adding an event takes none away. -/
theorem mem_insertDue_old {t : Nat} {i : Instr} {a : EvArg} {l : List (Nat × Instr × EvArg)} {e : Nat × Instr × EvArg}
    (h : e ∈ l) : e ∈ insertDue t i a l := by
  induction l with
  | nil => simp at h
  | cons p r ih =>
    unfold insertDue
    split
    · exact List.mem_cons_of_mem _ h
    · rcases List.mem_cons.mp h with h | h
      · simp [h]
      · exact List.mem_cons_of_mem _ (ih h)

end Sys2Proof.Machine
end

