-- ==== Sys2Proof/Laws/Fire.lean ====
section
/-! SUPPORT. What starting a firing and issuing a snippet word do, said once. -/

namespace Sys2Proof.Machine

theorem CoresOnly.refl (s : State) : CoresOnly s s := ⟨rfl, fun _ => rfl⟩

theorem CoresOnly.trans {s t u : State} (h : CoresOnly s t) (k : CoresOnly t u) : CoresOnly s u :=
  ⟨by rw [k.rest, h.rest], fun a => (k.memory a).trans (h.memory a)⟩

theorem State.modCore_coresOnly (s : State) (c : Nat) (f : Core → Core) : CoresOnly s (s.modCore c f) := ⟨rfl, fun _ => rfl⟩
theorem State.fresh_coresOnly (s : State) : CoresOnly s s.fresh.2 := ⟨rfl, fun _ => rfl⟩
theorem State.after_coresOnly (s : State) (n : Nat) (i : Instr) (a : List Nat) : CoresOnly s (s.after n i a) := ⟨rfl, fun _ => rfl⟩

/-- What insertDue holds. -/
theorem mem_insertDue_iff {t : Nat} {i : Instr} {a : EvArg} {l : List (Nat × Instr × EvArg)} {e : Nat × Instr × EvArg} :
    e ∈ insertDue t i a l ↔ e = (t, i, a) ∨ e ∈ l := by
  induction l with
  | nil => simp [insertDue]
  | cons p r ih =>
    unfold insertDue
    split
    · simp
    · simp only [List.mem_cons, ih]
      constructor
      · rintro (h | h | h) <;> simp [h]
      · rintro (h | h | h) <;> simp [h]

theorem State.after_posts (s : State) (n : Nat) (i : Instr) (a : List Nat) : Posts s (s.after n i a) (s.now + n) i a :=
  fun _ => mem_insertDue_iff

/-- What reserveAll does: an entry without a token behind each named buffer's entries, and the list of where they are. -/
theorem reserveAll_spec (s : State) (c cctx pe slot : Nat) (ps : List Nat) (hp : ∀ p ∈ ps, p < 16) :
    CoresOnly s (reserveAll s c cctx pe slot ps).2 ∧ OtherCores s (reserveAll s c cctx pe slot ps).2 c ∧
    (reserveAll s c cctx pe slot ps).2.agenda = s.agenda ∧
    (reserveAll s c cctx pe slot ps).1.map (·.port) = ps.map (bkey cctx pe) ∧
    (∃ b, (reserveAll s c cctx pe slot ps).2.core c = { s.core c with bufs := b }) ∧
    ∀ key, AMap.get ((reserveAll s c cctx pe slot ps).2.core c).bufs key [] = AMap.get (s.core c).bufs key [] ++
      ((reserveAll s c cctx pe slot ps).1.filter (·.port == key)).map fun o =>
        ⟨o.id, none, (maskOf (s.core c) cctx pe (key % 16)).1, (maskOf (s.core c) cctx pe (key % 16)).2, slot⟩ := by
  induction ps generalizing s with
  | nil => exact ⟨CoresOnly.refl s, fun _ _ => rfl, rfl, rfl, ⟨_, rfl⟩, by simp [reserveAll]⟩
  | cons p r ih =>
    have hp' : ∀ p ∈ r, p < 16 := fun x hx => hp x (List.mem_cons_of_mem _ hx)
    let s1 := (reserveIn s c (bkey cctx pe p) slot (maskOf (s.core c) cctx pe p)).2
    obtain ⟨h1, h2, h3, h4, ⟨b, h5⟩, h6⟩ := ih s1 hp'
    let l1 := AMap.get (s.core c).bufs (bkey cctx pe p) [] ++
      [(⟨s.nextId, none, (maskOf (s.core c) cctx pe p).1, (maskOf (s.core c) cctx pe p).2, slot⟩ : OutEntry)]
    have e1 : s1.core c = { s.core c with bufs := AMap.put (s.core c).bufs (bkey cctx pe p) l1 } := by
      simp [s1, l1, reserveIn, State.fresh, State.core, State.modCore, State.setCore]
    have hm : ∀ x, maskOf (s1.core c) cctx pe x = maskOf (s.core c) cctx pe x := by intro x; rw [e1]; rfl
    have hr : reserveAll s c cctx pe slot (p :: r) =
        (⟨bkey cctx pe p, s.nextId, none⟩ :: (reserveAll s1 c cctx pe slot r).1, (reserveAll s1 c cctx pe slot r).2) := rfl
    rw [hr]
    have h0 : CoresOnly s s1 := ⟨rfl, fun _ => rfl⟩
    refine ⟨h0.trans h1, fun d hd => ?_, h3, by simp [h4], ⟨b, by rw [h5, e1]⟩, fun key => ?_⟩
    · rw [h2 d hd]; exact State.core_modCore_other _ _ hd
    · rw [h6]
      simp only [hm]
      rw [show AMap.get (s1.core c).bufs key [] = AMap.get (AMap.put (s.core c).bufs (bkey cctx pe p) l1) key [] by rw [e1]]
      by_cases hk : bkey cctx pe p = key
      · subst hk
        have hpp : bkey cctx pe p % 16 = p := by have := hp p (by simp); unfold bkey; omega
        simp [hpp, l1]
      · have hk' : key ≠ bkey cctx pe p := fun e => hk e.symm
        have hb : (bkey cctx pe p == key) = false := by simpa using hk
        simp [AMap.get_put_other _ _ _ hk', hb]

/-- A firing's own fields give back its core: what consume changes. -/
theorem consume_fields (k : Core) (cctx pe slot : Nat) (i : Instr) (p : Pick) :
    ∃ b m, consume k cctx pe slot i p = { k with bufs := b, matchSt := m } := by
  unfold consume
  cases p with
  | head b =>
    simp only
    split
    · exact ⟨_, _, rfl⟩
    · exact ⟨_, _, rfl⟩
  | store t b => exact ⟨_, _, rfl⟩

theorem startFiring_fired {s : State} {i : Instr} {q : Firing} (h : ∃ lit, AMap.find? (s.core q.core).nodes (nkey q.cctx q.pe q.slot) = some ⟨i, lit⟩)
    (lat : Nat) (sends : Sends) (sf : Option (List Word)) (hp : ∀ p ∈ sends, p.1 < 16) (sfe : Bool := false) :
    Fired s (startFiring s q lat sends sf sfe) q lat sends sf sfe := by
  obtain ⟨lit, h⟩ := h
  let s1 := s.modCore q.core fun k => consume k q.cctx q.pe q.slot i q.pick
  let s2 := (reserveAll s1 q.core q.cctx q.pe q.slot (sends.map (·.1))).2
  let outs := ((reserveAll s1 q.core q.cctx q.pe q.slot (sends.map (·.1))).1.zip sends).map fun p => { p.1 with tok := p.2.2 }
  let fl : Flight := ⟨s2.nextId, q.cctx, q.pe, q.slot, outs, sf, sfe⟩
  let s3 := s2.fresh.2.modCore q.core fun k => { k with flights := k.flights ++ [fl] }
  have e : startFiring s q lat sends sf sfe = (markIssued s3 q.core q.pe).after lat .resultDelivery [q.core, fl.id] := by
    simp only [startFiring, h]; rfl
  obtain ⟨b, m, hc⟩ := consume_fields (s.core q.core) q.cctx q.pe q.slot i q.pick
  have hs1 : s1.core q.core = consume (s.core q.core) q.cctx q.pe q.slot i q.pick := by simp [s1]
  obtain ⟨g1, g2, g3, g4, ⟨b', g5⟩, g6⟩ := reserveAll_spec s1 q.core q.cctx q.pe q.slot (sends.map (·.1)) (by
    intro p hp'; obtain ⟨x, hx, rfl⟩ := List.mem_map.mp hp'; exact hp x hx)
  have hk : (startFiring s q lat sends sf sfe).core q.core =
      { s2.core q.core with flights := (s2.core q.core).flights ++ [fl], issued := AMap.put (s2.core q.core).issued q.pe (s3.now + 1) } := by
    rw [e]; simp [markIssued, s3]
  have hcr : CoresOnly s s2 := CoresOnly.trans (State.modCore_coresOnly s _ _) g1
  have hnow : s3.now = s.now := by
    show s2.now = s.now
    rw [hcr.rest]
  have hm : ∀ x, maskOf (s1.core q.core) q.cctx q.pe x = maskOf (s.core q.core) q.cctx q.pe x := by intro x; rw [hs1, hc]; rfl
  have ht : operandsTaken s q = consume (s.core q.core) q.cctx q.pe q.slot i q.pick := by simp [operandsTaken, h]
  have hs2 : s2.core q.core = { s1.core q.core with bufs := b' } := g5
  have hl : (reserveAll s1 q.core q.cctx q.pe q.slot (sends.map (·.1))).1.length = sends.length := by
    have := congrArg List.length g4; simpa using this
  have hz : outs.map (fun o => (o.port, o.tok)) = sends.map fun p => (bkey q.cctx q.pe p.1, p.2) := by
    have : outs.map (fun o => (o.port, o.tok)) =
        ((reserveAll s1 q.core q.cctx q.pe q.slot (sends.map (·.1))).1.map (·.port)).zip (sends.map (·.2)) := by
      simp [outs, List.map_zip_eq_zipWith, List.zip_eq_zipWith, List.map_zipWith, List.zipWith_map]
    rw [this, g4]
    rw [List.map_map, List.zip_map']
    rfl
  have hid : ∀ key, (outs.filter (·.port == key)).map (·.id) =
      ((reserveAll s1 q.core q.cctx q.pe q.slot (sends.map (·.1))).1.filter (·.port == key)).map (·.id) := by
    intro key
    have gen : ∀ (l : List OutRes) (m : Sends), l.length = m.length →
        (((l.zip m).map fun p => ({ p.1 with tok := p.2.2 } : OutRes)).filter (·.port == key)).map (·.id) = (l.filter (·.port == key)).map (·.id) := by
      intro l
      induction l with
      | nil => simp
      | cons o l ih =>
        intro m hm
        cases m with
        | nil => simp at hm
        | cons x m =>
          have := ih m (by simpa using hm)
          by_cases hk : o.port == key <;> simp [hk, this]
    exact gen _ _ hl
  refine ⟨?_, ?_, ?_, ?_, ?_, ?_⟩
  · rw [e]
    exact ((hcr.trans (State.fresh_coresOnly _)).trans ((State.modCore_coresOnly _ _ _).trans (State.modCore_coresOnly _ _ _))).trans
      (State.after_coresOnly _ _ _ _)
  · intro d hd
    rw [e]
    simp only [State.core_after, markIssued, s3]
    rw [State.core_modCore_other _ _ hd, State.core_modCore_other _ _ hd]
    simp only [State.core_fresh]
    rw [g2 d hd]; exact State.core_modCore_other _ _ hd
  · rw [hk, hs2, hs1, hc]
  · rw [hk, ht, hs2, hs1]
  · rw [hk, hnow]; simp
  · refine ⟨fl, ?_, rfl, hz, ?_, ?_⟩
    · rw [hk, hs2, hs1, hc]
    · intro ev
      rw [e]
      have hag : (markIssued s3 q.core q.pe).agenda = s.agenda := g3
      have hn : (markIssued s3 q.core q.pe).now = s.now := hnow
      have := State.after_posts (markIssued s3 q.core q.pe) lat .resultDelivery [q.core, fl.id] ev
      rw [hag, hn] at this
      exact this
    · intro key
      rw [hk, ht]
      have := g6 key
      rw [hs1] at this
      show AMap.get (s2.core q.core).bufs key [] = _
      rw [show s2.core q.core = (reserveAll s1 q.core q.cctx q.pe q.slot (sends.map (·.1))).2.core q.core from rfl, this]
      congr 1
      have h1 := hid key
      have h2 := congrArg (List.map fun n => (⟨n, none, (maskOf (s.core q.core) q.cctx q.pe (key % 16)).1,
        (maskOf (s.core q.core) q.cctx q.pe (key % 16)).2, q.slot⟩ : OutEntry)) h1
      rw [← hs1]
      simpa [List.map_map, Function.comp_def, hm] using h2.symm

/-- Destination codes that take entries are below 16. -/
theorem outPorts_lt (f : NF) : ∀ p ∈ outPorts f, p < 16 := by
  intro p hp
  simp [outPorts] at hp
  omega

theorem nodeFiring_snip {s : State} {c cctx pe slot : Nat} {p : Pick} {q : Firing} (h : nodeFiring s c cctx pe slot p = some q) :
    q.snip = false := by
  unfold nodeFiring at h
  simp only at h
  split at h
  · simp at h
  · split at h
    · simp at h
    · split at h
      · simp at h
      · split at h
        · simp only [Option.some.injEq] at h; rw [← h]
        · simp at h

/-- finish on a node: the firing with its result. -/
theorem finish_fired {s : State} {i : Instr} {q : Firing} (h : ∃ lit, AMap.find? (s.core q.core).nodes (nkey q.cctx q.pe q.slot) = some ⟨i, lit⟩)
    (hs : q.snip = false) (lat : Nat) (v : Val) : Fired s (finish s q lat v) q lat (resultTokens q v) (sfWritten q v) := by
  unfold finish
  rw [if_neg (by simp [hs])]
  exact startFiring_fired h _ _ _ (by
    intro p hp; simp only [List.mem_map] at hp; obtain ⟨x, hx, rfl⟩ := hp; exact outPorts_lt _ _ hx)

/-- A ready node that meets no error and no X runs its body. -/
theorem withFiring_node {s : State} {i : Instr} {q : Firing} (h : NodeReady s i q) (he : q.e = false) (lat : Nat) (xok : Bool)
    (hx : xok = true ∨ q.x = false) (body : Firing → State) : withFiring s lat xok body = .next (body q) := by
  unfold withFiring
  simp only [h.place, h.fires]
  rw [if_neg (by simp [h.room]), if_neg (by simp [he]), if_neg (by rcases hx with hx | hx <;> simp [hx])]

/-- A snippet word at its turn runs its body. -/
theorem withFiring_snip {s : State} {i : Instr} {q : Firing} (h : SnipReady s i q) (lat : Nat) (xok : Bool)
    (body : Firing → State) : withFiring s lat xok body = .next (body q) := by
  unfold withFiring
  simp only [h.place, h.fires]

/-- A ready firing's fields are its word's, and the word stands in its slot; a snippet's word is marked as one. -/
theorem nodeFiring_f {s : State} {i : Instr} {q : Firing} (h : NodeReady s i q) : q.f = nodeFields i := by
  obtain ⟨lit, hw⟩ := h.word
  have hf := h.fires
  unfold nodeFiring at hf
  simp only [hw] at hf
  split at hf
  · simp at hf
  · split at hf
    · simp at hf
    · split at hf
      · simp only [Option.some.injEq] at hf; rw [← hf]
      · simp at hf

theorem snipFiring_ok {s : State} {c pe : Nat} {q : Firing} (h : snipFiring s c pe = .ok q) :
    q.snip = true ∧ q.e = false ∧ ∃ r w, AMap.find? (s.core c).snips pe = some r ∧
      AMap.find? (s.core c).nodes (nkey r.cctx pe r.pc) = some w ∧ q.f = nodeFields w.instr := by
  unfold snipFiring at h
  simp only at h
  split at h
  · simp at h
  · rename_i r hr
    split at h
    · simp at h
    · split at h
      · rename_i w sn hw hs
        split at h
        · simp only [SnipGet.ok.injEq] at h
          subst h
          exact ⟨rfl, rfl, r, w, hr, hw, rfl⟩
        all_goals simp at h
      · simp at h

theorem ready_f {s : State} {i : Instr} {q : Firing} (h : Ready s i q) : q.f = nodeFields i := by
  rcases h with ⟨h, _⟩ | h
  · exact nodeFiring_f h
  · obtain ⟨_, _, r, w, hr, hw, hf⟩ := snipFiring_ok h.fires
    obtain ⟨r', lit, hr', hw'⟩ := h.word
    rw [hr] at hr'
    cases hr'
    rw [hw] at hw'
    cases hw'
    exact hf

/-- An instruction that stands ready runs its body. -/
theorem withFiring_ready {s : State} {i : Instr} {q : Firing} (h : Ready s i q) (lat : Nat) (xok : Bool)
    (hx : xok = true ∨ q.x = false) (body : Firing → State) : withFiring s lat xok body = .next (body q) := by
  rcases h with ⟨h, he⟩ | h
  · exact withFiring_node h he lat xok hx body
  · exact withFiring_snip h lat xok body

/-- A snippet's word writes a destination and stays where it is in the snippet. -/
@[simp] theorem snipPut_pc (r : SnipRun) (code : Nat) (v : Val) (ready : Nat) : (snipPut r code v ready).pc = r.pc := by
  unfold snipPut
  split
  · rfl
  · split <;> rfl

/-- snipIssue says what a snippet's word does. -/
theorem snipIssue_stepped (s : State) (q : Firing) (lat : Nat) (x y : Option Val) : SnipStepped s (snipIssue s q lat x y) q lat x y := by
  refine ⟨⟨rfl, fun _ => rfl⟩, ?_, rfl, ?_, ?_, ?_⟩
  · intro d hd
    unfold snipIssue markIssued
    rw [State.core_modCore_other _ _ hd, State.core_modCore_other _ _ hd]
  · unfold snipIssue markIssued
    simp only [State.core_modCore_same]
    cases h : AMap.find? (s.core q.core).snips q.pe <;> rfl
  · unfold snipIssue markIssued
    simp only [State.core_modCore_same, AMap.get_put_same]
    rfl
  · intro r hr
    refine ⟨_, ?_, rfl, rfl⟩
    unfold snipIssue markIssued
    simp only [State.core_modCore_same, hr, AMap.find?_put_same]
    cases x <;> cases y <;> simp

/-- finish and finish2 say what an operation gives. -/
theorem finish_gives {s : State} {q : Firing}
    (h : q.snip = false → ∃ i lit, AMap.find? (s.core q.core).nodes (nkey q.cctx q.pe q.slot) = some ⟨i, lit⟩) (lat : Nat) (v : Val) :
    Gives s (finish s q lat v) q lat v := by
  refine ⟨fun hs => ?_, fun hs => ?_⟩
  · obtain ⟨i, hi⟩ := h hs
    exact finish_fired hi hs lat v
  · unfold finish
    rw [if_pos hs]
    exact snipIssue_stepped s q lat _ _

theorem finish2_gives {s : State} {q : Firing}
    (h : q.snip = false → ∃ i lit, AMap.find? (s.core q.core).nodes (nkey q.cctx q.pe q.slot) = some ⟨i, lit⟩) (lat : Nat) (x y : Option Val) :
    GivesTwo s (finish2 s q lat x y) q lat x y := by
  refine ⟨fun hs => ?_, fun hs => ?_⟩
  · obtain ⟨i, hi⟩ := h hs
    unfold finish2
    rw [if_neg (by simp [hs])]
    refine startFiring_fired hi _ _ _ ?_
    intro p hp
    simp only [List.mem_append] at hp
    rcases hp with hp | hp <;> split at hp <;> simp at hp
    · rename_i h; rw [hp]; simp only; omega
    · rename_i h; rw [hp]; simp only; omega
  · unfold finish2
    rw [if_pos hs]
    exact snipIssue_stepped s q lat _ _

/-- A ready node's word stands in its slot. -/
theorem ready_word {s : State} {i : Instr} {q : Firing} (h : Ready s i q) :
    q.snip = false → ∃ i lit, AMap.find? (s.core q.core).nodes (nkey q.cctx q.pe q.slot) = some ⟨i, lit⟩ := by
  intro hs
  rcases h with ⟨h, _⟩ | h
  · obtain ⟨lit, hw⟩ := h.word; exact ⟨i, lit, hw⟩
  · rw [(snipFiring_ok h.fires).1] at hs; simp at hs

end Sys2Proof.Machine
end

