-- ==== Sys2Proof/Laws/Memory.lean ====
section
/-! SUPPORT. Memory: reading a byte after a write, and the canonical form that every memory operation keeps. -/

namespace Sys2Proof.Machine

/-- Canonical form as a sorted list without zeros. -/
theorem Memory.wf_iff (m : List Host.Cell) :
    Memory.wf m = true ↔ m.Pairwise (fun a b => a.1 < b.1) ∧ ∀ c ∈ m, c.2 ≠ 0 := by
  induction m with
  | nil => simp [Memory.wf]
  | cons p t ih =>
    obtain ⟨x, v⟩ := p
    cases t with
    | nil => simp [Memory.wf]
    | cons q r =>
      obtain ⟨y, w⟩ := q
      simp only [Memory.wf, Bool.and_eq_true, bne_iff_ne, decide_eq_true_eq] at ih ⊢
      constructor
      · rintro ⟨⟨hv, hxy⟩, hr⟩
        obtain ⟨hp, hn⟩ := ih.mp hr
        refine ⟨List.pairwise_cons.mpr ⟨?_, hp⟩, ?_⟩
        · intro c hc
          rcases List.mem_cons.mp hc with rfl | hc
          · exact hxy
          · exact Nat.lt_trans hxy ((List.pairwise_cons.mp hp).1 c hc)
        · intro c hc
          rcases List.mem_cons.mp hc with rfl | hc
          · exact hv
          · exact hn c hc
      · rintro ⟨hp, hn⟩
        have hp' := List.pairwise_cons.mp hp
        exact ⟨⟨hn _ List.mem_cons_self, hp'.1 _ List.mem_cons_self⟩, ih.mpr ⟨hp'.2, fun c hc => hn c (List.mem_cons_of_mem _ hc)⟩⟩

theorem cellsAt_range (a : Nat) (bs : List Byte) : ∀ c ∈ cellsAt a bs, a ≤ c.1 ∧ c.1 < a + bs.length ∧ c.2 ≠ 0 := by
  induction bs generalizing a with
  | nil => simp [cellsAt]
  | cons b r ih =>
    unfold cellsAt
    intro c hc
    split at hc
    · obtain ⟨h1, h2, h3⟩ := ih (a + 1) c hc
      exact ⟨by omega, by simp only [List.length_cons]; omega, h3⟩
    · rename_i hb
      rcases List.mem_cons.mp hc with rfl | hc
      · exact ⟨Nat.le_refl _, by simp, hb⟩
      · obtain ⟨h1, h2, h3⟩ := ih (a + 1) c hc
        exact ⟨by omega, by simp only [List.length_cons]; omega, h3⟩

theorem cellsAt_pairwise (a : Nat) (bs : List Byte) : (cellsAt a bs).Pairwise (fun x y => x.1 < y.1) := by
  induction bs generalizing a with
  | nil => simp [cellsAt]
  | cons b r ih =>
    unfold cellsAt
    split
    · exact ih (a + 1)
    · exact List.pairwise_cons.mpr ⟨fun c hc => by have := (cellsAt_range (a + 1) r c hc).1; omega, ih (a + 1)⟩

/-- A write keeps the canonical form. -/
theorem writeBytes_wf {m : List Host.Cell} (a : Nat) (bs : List Byte) (h : Memory.wf m = true) :
    Memory.wf (writeBytes m a bs) = true := by
  obtain ⟨hp, hn⟩ := (Memory.wf_iff m).mp h
  refine (Memory.wf_iff _).mpr ⟨?_, ?_⟩
  · unfold writeBytes
    rw [List.pairwise_append, List.pairwise_append]
    refine ⟨⟨hp.filter _, cellsAt_pairwise a bs, ?_⟩, hp.filter _, ?_⟩
    · intro x hx y hy
      have h1 := (List.mem_filter.mp hx).2
      have h2 := (cellsAt_range a bs y hy).1
      simp at h1; omega
    · intro x hx y hy
      have h2 := (List.mem_filter.mp hy).2
      simp at h2
      rcases List.mem_append.mp hx with hx | hx
      · have h1 := (List.mem_filter.mp hx).2; simp at h1; omega
      · have := (cellsAt_range a bs x hx).2.1; omega
  · intro c hc
    unfold writeBytes at hc
    rcases List.mem_append.mp hc with hc | hc
    · rcases List.mem_append.mp hc with hc | hc
      · exact hn c (List.mem_filter.mp hc).1
      · exact (cellsAt_range a bs c hc).2.2
    · exact hn c (List.mem_filter.mp hc).1

theorem readByte_append (m n : List Host.Cell) (x : Nat) (h : ∀ c ∈ m, c.1 ≠ x) : readByte (m ++ n) x = readByte n x := by
  induction m with
  | nil => rfl
  | cons p t ih =>
    have h1 : ¬x = p.1 := fun e => h p List.mem_cons_self e.symm
    have h2 := ih fun c hc => h c (List.mem_cons_of_mem _ hc)
    show readByte ((p.1, p.2) :: (t ++ n)) x = _
    rw [readByte, if_neg h1, h2]

theorem readByte_none (m : List Host.Cell) (x : Nat) (h : ∀ c ∈ m, c.1 ≠ x) : readByte m x = 0 := by
  have := readByte_append m [] x h
  simpa [readByte] using this

theorem readByte_filter (m : List Host.Cell) (p : Nat → Bool) (x : Nat) (h : p x = true) :
    readByte (m.filter fun c => p c.1) x = readByte m x := by
  induction m with
  | nil => rfl
  | cons q t ih =>
    obtain ⟨y, v⟩ := q
    by_cases hy : x = y
    · subst hy; simp [h, readByte]
    · by_cases hq : p y = true
      · simp [hq, readByte, hy, ih]
      · simp [hq, readByte, hy, ih]

theorem readByte_cellsAt (a : Nat) (bs : List Byte) (i : Nat) : readByte (cellsAt a bs) (a + i) = bs.getD i 0 := by
  induction bs generalizing a i with
  | nil => simp [cellsAt, readByte]
  | cons b r ih =>
    unfold cellsAt
    cases i with
    | zero =>
      split
      · rename_i h; rw [readByte_none _ _ (fun c hc => by have := (cellsAt_range (a + 1) r c hc).1; omega)]; simp [h]
      · simp [readByte]
    | succ i =>
      have h := ih (a + 1) i
      rw [show a + 1 + i = a + (i + 1) by omega] at h
      split
      · simpa using h
      · rw [readByte, if_neg (by omega), h]; simp

theorem readByte_append_range (m n : List Host.Cell) (x : Nat) (h : ∀ c ∈ n, c.1 ≠ x) : readByte (m ++ n) x = readByte m x := by
  induction m with
  | nil => simpa [readByte] using readByte_none n x h
  | cons p t ih =>
    show readByte ((p.1, p.2) :: (t ++ n)) x = readByte ((p.1, p.2) :: t) x
    by_cases hx : x = p.1
    · rw [readByte, if_pos hx, readByte, if_pos hx]
    · rw [readByte, if_neg hx, readByte, if_neg hx, ih]

/-- A byte read after a write: the byte written, in the bytes written. -/
theorem readByte_writeBytes_in (m : List Host.Cell) (a i : Nat) (bs : List Byte) (h : i < bs.length) :
    readByte (writeBytes m a bs) (a + i) = bs.getD i 0 := by
  unfold writeBytes
  rw [readByte_append_range _ _ _ (fun c hc => by have := (List.mem_filter.mp hc).2; simp at this; omega),
    readByte_append _ _ _ (fun c hc => by have := (List.mem_filter.mp hc).2; simp at this; omega), readByte_cellsAt]

/-- A byte read after a write: as before, outside the bytes written. -/
theorem readByte_writeBytes_out (m : List Host.Cell) (a x : Nat) (bs : List Byte) (h : x < a ∨ a + bs.length ≤ x) :
    readByte (writeBytes m a bs) x = readByte m x := by
  unfold writeBytes
  rcases h with h | h
  · rw [readByte_append_range _ _ _ (fun c hc => by have := (List.mem_filter.mp hc).2; simp at this; omega),
      readByte_append_range _ _ _ (fun c hc => by have := (cellsAt_range a bs c hc).1; omega)]
    exact readByte_filter m (fun y => decide (y < a)) x (by simpa using h)
  · rw [List.append_assoc, readByte_append _ _ _ (fun c hc => by have := (List.mem_filter.mp hc).2; simp at this; omega),
      readByte_append _ _ _ (fun c hc => by have := (cellsAt_range a bs c hc).2.1; omega)]
    exact readByte_filter m (fun y => decide (a + bs.length ≤ y)) x (by simpa using h)

/-- A run of bytes read from sorted cells none of which lies below. -/
theorem readRun_eq (a n : Nat) (m : List Host.Cell) (hp : m.Pairwise fun x y => x.1 < y.1) (ha : ∀ c ∈ m, a ≤ c.1) :
    readRun a n m = (List.range n).map fun i => readByte m (a + i) := by
  induction n generalizing a m with
  | zero => rfl
  | succ n ih =>
    rw [List.range_succ_eq_map, List.map_cons, List.map_map]
    cases m with
    | nil =>
      rw [readRun, ih (a + 1) [] List.Pairwise.nil (by simp)]
      rfl
    | cons p t =>
      obtain ⟨x, v⟩ := p
      have hp' := List.pairwise_cons.mp hp
      have hx := ha _ List.mem_cons_self
      by_cases h : x = a
      · subst h
        rw [readRun, if_pos rfl, ih (x + 1) t hp'.2 (fun c hc => hp'.1 c hc)]
        refine congr (congrArg _ (by simp [readByte])) (List.map_congr_left fun i _ => ?_)
        show _ = readByte ((x, v) :: t) (x + (i + 1))
        rw [readByte, if_neg (by omega), show x + 1 + i = x + (i + 1) by omega]
      · rw [readRun, if_neg h, ih (a + 1) _ hp (fun c hc => by
          rcases List.mem_cons.mp hc with rfl | hc
          · show a + 1 ≤ x; simp only at hx; omega
          · have := hp'.1 c hc; simp only at hx this; omega)]
        refine congr (congrArg _ ?_) (List.map_congr_left fun i _ => ?_)
        · rw [readByte_none]
          intro c hc
          rcases List.mem_cons.mp hc with rfl | hc
          · show x ≠ a + 0; omega
          · have := hp'.1 c hc; simp only at hx this; omega
        · show _ = readByte ((x, v) :: t) (a + (i + 1))
          rw [show a + 1 + i = a + (i + 1) by omega]

/-- Reading n bytes reads each byte. -/
theorem readBytes_eq {m : List Host.Cell} (a n : Nat) (h : Memory.wf m = true) :
    readBytes m a n = (List.range n).map fun i => readByte m (a + i) := by
  have hp := ((Memory.wf_iff m).mp h).1
  unfold readBytes
  rw [readRun_eq a n _ (hp.filter _) (fun c hc => by have := (List.mem_filter.mp hc).2; simp at this; omega)]
  refine List.map_congr_left fun i hi => ?_
  have := List.mem_range.mp hi
  exact readByte_filter m (fun y => decide (a ≤ y) && decide (y < a + n)) (a + i) (by simp; omega)

theorem readRun_length (a n : Nat) (m : List Host.Cell) : (readRun a n m).length = n := by
  induction n generalizing a m with
  | zero => rfl
  | succ n ih =>
    cases m with
    | nil => simp [readRun, ih]
    | cons p t =>
      obtain ⟨x, v⟩ := p
      rw [readRun]
      split <;> simp [ih]

@[simp] theorem readBytes_length (m : List Host.Cell) (a n : Nat) : (readBytes m a n).length = n := readRun_length a n _

/-- Reset memory is in canonical form. -/
theorem Memory.wf_reset : Memory.wf State.reset.mem = true := rfl

theorem State.putPhys_wf {s : State} (pa : Nat) (bs : List Byte) (h : Memory.wf s.mem = true) :
    Memory.wf (s.putPhys pa bs).mem = true := writeBytes_wf pa bs h

theorem State.putScratch_wf {s : State} (c off : Nat) (bs : List Byte) (h : Memory.wf s.mem = true) :
    Memory.wf (s.putScratch c off bs).mem = true := writeBytes_wf _ bs h

theorem writeByte_wf {m : List Host.Cell} (a : Nat) (v : Byte) (h : Memory.wf m = true) : Memory.wf (writeByte m a v) = true :=
  writeBytes_wf a [v] h

/-- A write in a context's virtual space is a write at the address its walk gives. -/
theorem State.ctxWrite_ok {s t : State} {ctx va : Nat} {bs : List Byte} (h : s.ctxWrite ctx va bs = .ok t) :
    ∃ w, s.walk ctx va .write = .ok w ∧ t = s.putPhys w.pa bs := by
  unfold State.ctxWrite at h
  split at h
  · rename_i w hw; exact ⟨w, hw, by cases h; rfl⟩
  · cases h

/-- The same write, where a page that does not translate takes none. -/
theorem State.ctxPut_cases (s : State) (ctx va : Nat) (bs : List Byte) :
    s.ctxPut ctx va bs = s ∨ ∃ w, s.walk ctx va .write = .ok w ∧ s.ctxPut ctx va bs = s.putPhys w.pa bs := by
  unfold State.ctxPut
  split
  · rename_i t ht; obtain ⟨w, hw, e⟩ := State.ctxWrite_ok ht; exact Or.inr ⟨w, hw, e⟩
  · exact Or.inl rfl

theorem State.ctxPut_wf {s : State} (ctx va : Nat) (bs : List Byte) (h : Memory.wf s.mem = true) :
    Memory.wf (s.ctxPut ctx va bs).mem = true := by
  rcases s.ctxPut_cases ctx va bs with e | ⟨w, _, e⟩ <;> rw [e]
  · exact h
  · exact State.putPhys_wf _ _ h

/-- Records that move up in a ring keep the canonical form of memory. -/
theorem shiftRecs_wf {s : State} (ctx base sz tail n : Nat) (h : Memory.wf s.mem = true) :
    Memory.wf (shiftRecs s ctx base sz tail n).mem = true := by
  induction n with
  | zero => exact h
  | succ n ih =>
    simp only [shiftRecs]
    split
    · exact State.ctxPut_wf _ _ _ ih
    · exact ih

/-- A fault record keeps the canonical form of memory. -/
theorem State.record_wf {s : State} (ctx : Nat) (r : Rec) (h : Memory.wf s.mem = true) :
    Memory.wf (s.record ctx r).1.mem = true := by
  unfold State.record
  simp only
  split
  · exact h
  · split
    · split
      · exact State.ctxPut_wf (s := { s with faultLog := _ }) _ _ _ h
      · exact State.ctxPut_wf _ _ _ (shiftRecs_wf _ _ _ _ _ (State.ctxPut_wf (s := { s with faultLog := _ }) _ _ _ h))
    · exact State.ctxPut_wf _ _ _ (State.ctxPut_wf _ _ _ (shiftRecs_wf (s := { s with faultLog := _ }) _ _ _ _ _ h))

end Sys2Proof.Machine
end

