-- ==== Sys2Proof/WellFormed.lean ====
section
/-! DEFINITION. Well-formed instructions: those whose words the loader accepts (R122), by the checks of
Machine/WordCheck.lean. An event has no word and is never well-formed. -/

namespace Sys2Proof

/-- An instruction that the loader accepts with this literal word in its slot: a node word or snippet word that its
entry allows, or a control word whose fields its form allows (R122). -/
def WellFormed (i : Instr) (lit : Word) : Bool := wordOk i lit

end Sys2Proof
end

