-- ==== Sys2Proof/Tests/Slice0.lean ====
section
/-! SUPPORT. The modeller's own tests: for every obligation with hypotheses a state and operands that meet them (witness_<what>), words of the
spec's examples with what they decode to, terms that the loader's checks refuse, and values of the spec's examples (test_<what>). -/

open Sys2Proof Sys2Proof.Machine
namespace Sys2Proof.Tests

/- One proof at a time: so many kernel evaluations at once need more memory than the check gives. -/
set_option Elab.async false

/-! ## Small states -/

/-- A firing of nothing. -/
def noFiring : Firing :=
  ⟨0, 0, 0, 0, ⟨15, 15, 15, 15, 0, 0⟩, 0, ⟨[], false, none, none⟩, none, [], ⟨0, 0⟩, ⟨0, 0⟩, false, false, false, false, .head false, false⟩

/-- Instruction i placed as the first of a running core 0, its operands there (log 21). -/
def placed (i : Instr) : State := placeWord State.reset ((encode i).headD 0) (((encode i).drop 1).headD 0) i

/-- That core with its node's PE offered its issue. -/
def nodeOf (s : State) (i : Instr) : State :=
  s.as (.node 0 0 9 0 (((picksOf (s.core 0) 0 9 0 i).head?.map (·.1)).getD (.head false)))

/-- A placed node. -/
def node (i : Instr) : State := nodeOf (placed i) i

/-- The same with the core changed by f. -/
def nodeWith (i : Instr) (f : Core → Core) : State := nodeOf ((placed i).modCore 0 f) i

/-- The firing that stands ready. -/
def fire (s : State) : Firing :=
  match s.cur with
  | .node c x pe n p => (nodeFiring s c x pe n p).getD noFiring
  | _ => noFiring

/-- Whether firing q of i stands ready. -/
def readyB (s : State) (i : Instr) (q : Firing) : Bool :=
  decide (s.cur = .node q.core q.cctx q.pe q.slot q.pick)
    && ((AMap.find? (s.core q.core).nodes (nkey q.cctx q.pe q.slot)).map (·.instr) == some i)
    && (nodeFiring s q.core q.cctx q.pe q.slot q.pick == some q) && roomFor (s.core q.core) q.cctx q.pe (outPorts q.f)

/-- What passes the check stands ready. -/
theorem nodeReady_of {s : State} {i : Instr} {q : Firing} (h : readyB s i q = true) : NodeReady s i q := by
  simp only [readyB, Bool.and_eq_true, decide_eq_true_eq, beq_iff_eq] at h
  obtain ⟨⟨⟨h1, h2⟩, h3⟩, h4⟩ := h
  refine ⟨h1, ?_, h3, h4⟩
  cases hn : AMap.find? (s.core q.core).nodes (nkey q.cctx q.pe q.slot) with
  | none => simp [hn] at h2
  | some w => obtain ⟨j, l⟩ := w; simp [hn] at h2; exact ⟨l, by rw [h2]⟩

/-- A node that stands ready with no operand that has E stands ready. -/
theorem ready_of {s : State} {i : Instr} {q : Firing} (h : (readyB s i q && !q.e) = true) : Ready s i q := by
  rw [Bool.and_eq_true] at h
  exact .inl ⟨nodeReady_of h.1, by simpa using h.2⟩

/-- A memory node that passes the check stands ready. -/
theorem memReady_of {s : State} {i : Instr} {q : Firing} (h : (readyB s i q && portFree s q.core q.pe && !q.e && !q.x) = true) (b : Bool) :
    MemReady s i q b := by
  simp only [Bool.and_eq_true, Bool.not_eq_true'] at h
  exact ⟨nodeReady_of h.1.1.1, h.1.1.2, h.1.2, .inr h.2⟩

/-- Fields for an operation of two tokens, of one with none, of one with a literal. -/
def two : NF := ⟨0, 1, 2, 15, 0, 0⟩
def one : NF := ⟨0, 15, 2, 15, 0, 0⟩
def vtwo : NF := ⟨4, 5, 2, 15, 0, 0⟩
def vone : NF := ⟨4, 15, 2, 15, 0, 0⟩

/-- Operand forms: two tokens or one, scalar or vector, a literal, no destination, the tag actions of CALL and RET, a queue. -/
def shapes : List NF :=
  [two, ⟨0, 15, 2, 15, 0, 0⟩, ⟨4, 1, 2, 15, 0, 0⟩, vone, ⟨0, 5, 2, 15, 0, 0⟩, vtwo, ⟨0, 9, 2, 15, 0, 0⟩, ⟨0, 15, 15, 15, 0, 0⟩,
   ⟨0, 15, 2, 15, 0, 7⟩, ⟨0, 15, 2, 15, 4, 0⟩, ⟨0, 15, 15, 15, 5, 0⟩, ⟨0, 1, 12, 15, 0, 0⟩]
/-- Fields with which the loader accepts the operation and its literal (R122). -/
def nf (c : NF → Instr) : NF := (shapes.find? fun f => nodeOk (c f) f (defaultLit (c f))).getD one

/-- Whether an operation that the loader accepts stands ready on ordinary operands. -/
def stands (c : NF → Instr) : Bool :=
  let i := c (nf c)
  nodeOk i (nf c) (defaultLit i) && readyB (node i) i (fire (node i)) && !(fire (node i)).e && !(fire (node i)).x

/-- A token with E or X. -/
def spoil (e x : Bool) (t : Token) : Token := { t with e := e, side := if x then some (List.replicate 16 0) else none }

/-- The core with its operands spoilt. -/
def spoilt (e x : Bool) (k : Core) : Core :=
  { k with matchSt := k.matchSt.map fun p => (p.1, p.2.map fun m => { m with a := m.a.map (spoil e x) }),
           bufs := k.bufs.map fun p => (p.1, p.2.map fun b => { b with tok := b.tok.map (spoil e x) }) }

/-! ## Every node stands ready somewhere (the hypotheses of the statements about nodes) -/

theorem witness_integer : (integerTable.all fun r => stands r.1) = true := by decide
theorem witness_floatLane : (floatLaneTable.all fun r => stands r.1) = true := by decide
theorem witness_sfu : (sfuTable.all fun r => stands r.1) = true := by decide
theorem witness_rounding : (f32Table.all fun r => stands r.1) = true ∧ (halfTable.all fun r => stands r.1) = true := by decide
theorem witness_conversions : ([Instr.cvtf, .cvte, .cvtfi, .cvtif, .cvtq, .rsum, .xpnd, .rmin, .rmax, .seed].all stands) = true := by decide
theorem witness_lanes : (laneTable.all fun r => stands r.1) = true := by decide
theorem witness_control : (passTable.all fun r => stands r.1) = true ∧ (chooseTable.all fun r => stands r.1) = true ∧
  ([Instr.tagwr, .sync, .copy, .const, .sink, .iter, .errchk, .count, .done, .mark, .call, .ret, .snip].all stands) = true := by decide
theorem witness_memory : (loadStoreTable.all fun r => stands r.1) = true ∧ (atomicTable.all fun r => stands r.1) = true ∧
  ([Instr.ldx, .stx, .fence, .xfence, .cntadd, .cbput, .cbget, .cbwait, .cbroom, .prft, .wbl].all stands) = true := by decide
theorem witness_matrix : (frameTable.all fun r => stands r.1) = true ∧ stands .mxi = true ∧ stands .mxis = true := by decide
theorem witness_rows : ([Instr.cfw, .cfwr, .stamp, .disp, .binnx, .binwt, .cmbadd, .cmbout, .rwst].all stands) = true := by decide


/-! ## The clauses of those statements: error tokens, sidecars, literals, flags -/

/-- Whether an operation stands ready with its operands spoilt so. -/
def spoils (e x : Bool) (c : NF → Instr) : Bool :=
  let i := c (nf c)
  let s := nodeWith i (spoilt e x)
  readyB s i (fire s) && ((fire s).e == e) && ((fire s).x == (x && !e))

theorem witness_errorTokens : (errorTable.all fun r => spoils true false r.1) = true := by decide
theorem witness_sidecars : (noSidecarTable.all (spoils false true)) = true ∧ spoils false true .cvtf = true := by decide

/-- The node with another literal, with lanes of data, with flags. -/
def lit (w : Word) (k : Core) : Core := { k with nodes := k.nodes.map fun p => (p.1, { p.2 with lit := w }) }
/-- The operands' tokens changed. -/
def toks (f : Token → Token) (k : Core) : Core :=
  { k with matchSt := k.matchSt.map fun p => (p.1, p.2.map fun m => { m with a := m.a.map f, b := m.b.map f }),
           bufs := k.bufs.map fun p => (p.1, p.2.map fun b => { b with tok := b.tok.map f }) }
/-- Operand B's token changed. -/
def tokB (f : Token → Token) (k : Core) : Core :=
  { k with matchSt := k.matchSt.map fun p => (p.1, p.2.map fun m => { m with b := m.b.map f }) }

/-- The state of an operation with its core changed. -/
def alt (c : NF → Instr) (f : Core → Core) : State := nodeWith (c (nf c)) f
/-- Whether it stands ready there. -/
def standsAs (c : NF → Instr) (f : Core → Core) : Bool := readyB (alt c f) (c (nf c)) (fire (alt c f)) && !(fire (alt c f)).e

theorem witness_sfu_held : standsAs .frcp (fun k => { k with sfu := [(9, 1)] }) = true ∧
    0 < AMap.get ((alt .frcp fun k => { k with sfu := [(9, 1)] }).core 0).sfu 9 0 := by decide
theorem witness_shaker : (State.reset.shaker 0 9).length = 16 := by decide
theorem witness_xpnd :
    (let q := fire (alt .xpnd (lit 0x4C)); standsAs .xpnd (lit 0x4C) = true ∧ sourceType q ≠ 15) ∧
    (let q := fire (alt .xpnd fun k => lit 0x4F (tokB (fun t => { t with data := [135] }) (toks (fun t => { t with data := List.replicate 16 135 }) k)))
     sourceType q = 15 ∧ (residual (fld (lanesNat q.a.lanes) 135 128) (q.bl 0).toNat).isSome = true) ∧
    (let q := fire (alt .xpnd fun k => lit 0x4F (toks (fun t => { t with data := List.replicate 16 1000 }) k))
     sourceType q = 15 ∧ ¬ (q.bl 0).toNat < 256) := by decide
theorem witness_cvtq_rsum : sourceType (fire (node (.cvtq one))) ≠ 4 ∧ (fire (node (.rsum one))).x = false := by decide
theorem witness_reductions : ([10, 11, 7].all fun m => [Instr.rmin, .rmax].all fun c =>
    let i := c { (nf c) with m := m }; readyB (node i) i (fire (node i)) && ((fire (node i)).f.m == m)) = true := by decide
theorem witness_sync_const : (fire (node (.sync two))).b.isSome = true ∧ (fire (node (.const ⟨0, 9, 2, 15, 0, 0⟩))).b.isSome = true ∧
    readyB (node (.const ⟨0, 9, 2, 15, 0, 0⟩)) (.const ⟨0, 9, 2, 15, 0, 0⟩) (fire (node (.const ⟨0, 9, 2, 15, 0, 0⟩))) = true := by decide
theorem witness_iter_errchk :
    (fire (alt .iter (toks fun t => { t with l := true }))).l = true ∧ (fire (node (.iter one))).l = false ∧
    (fire (alt .errchk (spoilt true false))).e = true ∧ (fire (node (.errchk one))).e = false := by decide
theorem witness_count :
    (let s := nodeWith (.count ⟨0, 9, 2, 15, 0, 0⟩) (lit 1); let q := fire s
     readyB s (.count ⟨0, 9, 2, 15, 0, 0⟩) q = true ∧ q.bl 0 ≠ 0 ∧ q.sf.getD 0 0 + 1 = q.bl 0) ∧
    (let q := fire (node (.count ⟨0, 9, 2, 15, 0, 0⟩)); ¬ ((q.bl 0 ≠ 0 ∧ q.sf.getD 0 0 + 1 = q.bl 0) ∨ q.l = true)) := by decide
theorem witness_done :
    (let s := alt .done (toks fun t => { t with l := true }); let q := fire s
     (q.l && !(s.core 0).doneSet.contains (nkey q.cctx q.pe q.slot)) = true ∧ (s.launchOf 0).isSome = true) ∧
    (let q := fire (node (.done one)); q.l = false) := by decide
theorem witness_mark : ((node (.mark one)).launchOf 0).map (fun p => (timed 0 0 p.2.snapcfg).getLsbD 0) = some false := by decide
theorem witness_call : tagIsFree ((node (.call one)).core 0) 0 1 = true := by decide
theorem witness_call_none_free :
    (let s := alt .call fun k => { k with tags := (List.range 256).map fun i => (i, ((⟨0, 0⟩ : Tag), (0 : Word), 0)) }
     (List.range 256).all (fun i => !tagIsFree (s.core 0) 0 i) = true) := by decide +kernel
theorem witness_ret :
    (let s := alt .ret fun k => { k with tags := [(1, (⟨0, 0⟩, 0, 0))] }; let q := fire s
     q.tag.ctag.toNat = 1 ∧ AMap.find? (s.core 0).tags q.tag.ctag.toNat = some (⟨0, 0⟩, 0, 0) ∧ canReturn (s.core 0) 0 0 0 (fetchToken 0) false = true) ∧
    (let q := fire (node (.ret one)); q.tag.ctag ≠ 0 ∧ AMap.find? ((node (.ret one)).core 0).tags q.tag.ctag.toNat = none) := by decide

/-- END as the next word of a snippet (log 21). -/
def atEnd : State := (placed (.snipEnd ⟨0, 0, 0, 0, 0, 0⟩)).as (.snip 0 9)
theorem witness_end : (AMap.find? (atEnd.core 0).snips 9).map (fun r => (r.pc, r.outx.isNone, r.outy.isNone, r.sfNew.isNone)) = some (1, true, true, true) ∧
    (AMap.find? (atEnd.core 0).nodes (nkey 0 9 0)).isSome = true ∧ AMap.get (atEnd.core 0).issued 9 0 ≠ atEnd.now + 1 := by decide

/-- Memory with a context's page tables in it: VA 0 to 2^36 - 1 is itself, readable and writable. -/
def tables : List Host.Cell := [(1, 0x20), (7, 0x80), (0x2007, 0xC6)]
/-- A context whose fault ring of 64 records stands at 0x4000. -/
def someCtx : Ctx := ⟨.running, 0x10000000, 0x4006, 0, 0, 0, 0⟩
/-- A state with its pages. -/
def paged (s : State) : State := { s with mem := tables, ctxs := [(0, someCtx)] }

theorem test_page_walk : ((paged State.reset).walk 0 0x12340 .write).toOption.map (·.pa) = some 0x12340 := by decide
theorem witness_record :
    ((paged State.reset).ctxReadDws 0 0x4000 3).toOption = some [0, 0, 0] ∧ ((paged State.reset).ctx 0).ring = (0x4000, 6) := by decide
theorem witness_record_full :
    ({ paged State.reset with mem := writeBytes tables 0x4000 (toBytes 8 64) }.ctxReadDws 0 0x4000 3).toOption = some [64, 0, 0] := by decide

/-- An event with its numbers. -/
def ev (s : State) (l : List Nat) : State := { s with cur := .ev (.nums l) }
theorem happens_ev (s : State) (l : List Nat) : Happens (ev s l) l := rfl

/-- A running core 0 of launch 0, changed by f. -/
def cpu (f : Core → Core) : State :=
  { State.reset with
    now := 8, settledAt := 9, launches := [(0, fetchLaunch)],
    cores := [(0, f { fetchCore Core.idle with seq := ⟨true, false, 0, [], [], [], 0, .none, 0, none⟩, lastOut := 7 })], cur := .seq 0 }

theorem witness_results :
    (let f : Flight := ⟨1, 0, 9, 0, [⟨2, 5, some (fetchToken 0)⟩, ⟨3, 6, none⟩], some [], false⟩
     let s := ev (cpu fun k => { k with flights := [f], bufs := [(2, [⟨5, none, [0], false, 0⟩]), (3, [⟨6, none, [0], false, 0⟩])] }) [0, 1]
     (s.core 0).flights.find? (fun f => f.id == 1) = some f ∧ (∀ o ∈ f.outs, o.port < 8192) ∧ (f.outs.map (·.id)).Nodup) ∧
    (let n := nkey 0 9 0
     let f : Flight := ⟨1, 0, 9, 0, [⟨8192 + n * 2, 0, some (fetchToken 0)⟩], none, false⟩
     let s := cpu fun k => { k with flights := [f], matchSt := [(9, [⟨0, ⟨1, 0⟩, some (fetchToken 0), none⟩])] }
     offer ((s.core 0).store (n / 4096) (n / 64 % 64)) (n % 64) (fetchToken 0) false = none) := by decide
theorem witness_matching :
    (let t := fetchToken 0
     let e : MatchEntry := ⟨0, t.tag, some t, none⟩
     (e.slot = 0 ∧ e.tag = t.tag ∧ e.a.isSome = true ∧ e.b = none) ∧ ¬ (e.slot = 1) ∧ (List.replicate 64 e).length = 64) := by decide
theorem witness_fabricEvents :
    (let s := ev (cpu fun k => { k with seq := { k.seq with wait := .switch 1 7 } }) [0]
     (s.core 0).stopped = false ∧ firingOut s 0 = false ∧ 7 < s.now ∧ (s.core 0).lastOut < s.now) ∧
    (let s := cpu fun k => { k with bufs := [(3, [⟨5, some (fetchToken 0), [], true, 0⟩])] }
     edgeHead (AMap.get (s.core 0).bufs 3 []) = some (5, fetchToken 0) ∧ (s.launchOf 0).isSome = true ∧ fetchLaunch.sink 8 = none ∧
     ({ fetchLaunch with gmode := [(8, 2, 0)] }).sink 8 = some 0) ∧
    (offerSink (cpu id) (sinkOp 0 0 (fetchToken 0))).isSome = true ∧ fetchLaunch.guardQ = [] ∧ fetchLaunch.guardQ.length < 16 ∧
    ({ fetchLaunch with guardQ := List.replicate 16 0 }).guardQ.length = 16 ∧ AMap.find? (cpu id).launches 0 = some fetchLaunch := by decide

/-! ## Memory nodes and memory (witnesses of the clauses about accesses) -/

/-- A launch image of one window: space 0 (memory), 1 (the core's scratch). -/
def imaged (sp base size : Nat) (s : State) : State :=
  { s with entries := [(0, ⟨.inUse, 0, 0, 0, [0], 0, some ⟨1, 1, false, false, 0, [(sp, base, size)], [], [], [], [], [], [], 0⟩⟩)] }
/-- A memory operation that stands ready with such a window. -/
def memNode (c : NF → Instr) (sp : Nat) (f : Core → Core) : State := imaged sp 0x1000 4096 (alt c f)
/-- Whether it does, and its window takes n bytes at its address (or not). -/
def memStands (c : NF → Instr) (direct : Bool) (sp n : Nat) (ok : Bool) (f : Core → Core) : Bool :=
  let s := memNode c sp f
  let q := fire s
  readyB s (c (nf c)) q && portFree s q.core q.pe && !q.e && !q.x && !s.detOf q.core
    && ((memPlace s q direct (q.a.lane 0).toNat n).toOption.isSome == ok)
/-- The first operand's data. -/
def dataA (ws : List Word) (k : Core) : Core :=
  { k with matchSt := k.matchSt.map fun p => (p.1, p.2.map fun m => { m with a := m.a.map fun t => { t with data := ws } }),
           bufs := k.bufs.map fun p => (p.1, p.2.map fun b => { b with tok := b.tok.map fun t => { t with data := ws } }) }

theorem witness_loadStore : (loadStoreTable.all fun r =>
    memStands r.1 r.2.2 1 (elemBytes (fire (memNode r.1 1 id)).lit.toNat) true (dataA [8]) &&
    memStands r.1 r.2.2 1 (elemBytes (fire (memNode r.1 1 id)).lit.toNat) false (dataA [0x7FFFFFFF])) = true := by decide
theorem witness_lanes_access : ([Instr.ldx, .stx].all fun c =>
    let s := memNode c 1 (dataA [8])
    let q := fire s
    let z := memNode c 1 (dataA [0x7FFFFFFF])
    readyB s (c (nf c)) q && portFree s q.core q.pe && !q.e &&
      (lanePieces s q (elemBytes q.lit.toNat) q.lanes).toOption.isSome &&
      readyB z (c (nf c)) (fire z) && !(lanePieces z (fire z) (elemBytes (fire z).lit.toNat) (fire z).lanes).toOption.isSome) = true := by decide
theorem witness_atomics : (atomicTable.all fun r =>
    memStands r.1 false 1 4 true (dataA [8]) && memStands r.1 false 1 4 true (dataA [6])) = true := by decide
theorem witness_cntadd : (let q := fire (alt .cntadd (dataA [8191])); (q.a.lane 0).toNat = 8191) ∧
    (let q := fire (alt .cntadd (dataA [8192])); (q.a.lane 0).toNat = 8192) := by decide
theorem witness_circular : ([Instr.cbput, .cbget, .cbwait, .cbroom].all fun c =>
    let g := fun k : Core => { dataA [1] k with handles := [(0, ⟨true, 0, 0, 3, 0, 0, 0, 0⟩)] }
    memStands c false 1 0 true g && slotsOk (memNode c 1 g) (fire (memNode c 1 g)) 1 &&
    !slotsOk (alt c (dataA [1])) (fire (alt c (dataA [1]))) 1) = true := by decide
theorem witness_lines : ([Instr.prft, .wbl].all fun c =>
    memStands c false 0 1 true (dataA [8]) && memStands c false 0 1 false (dataA [0x7FFFFFFF])) = true := by decide

/-- An access of core 0 on its way, to be seen by events of number 3. -/
def someAccess (kind : AKind) (sp : Space) (a n : Nat) (data : List Byte) : Access :=
  ⟨0, .node 0 9 0, .fab, kind, false, false, 0, 0, 0, none, sp, [⟨a, n, 0⟩], data, [], some (fetchToken 0), [], 40, .sent, 0, 0, [], some (0, 0), false, [], false, 0, 0⟩
/-- The state in which it performs. -/
def performing (a : Access) : State := { ev (cpu id) [3] with accs := [(3, a)] }

theorem mayPerform_of {s : State} {id : Nat} {a : Access} (h : (AMap.find? s.accs id == some a && a.stage == .sent && !heldBack s a && !lostCopy s a &&
      (match s.launchOf a.core with | some (_, l) => !l.snapOn s.now | none => true)) = true) :
    MayPerform s id a := by
  simp only [Bool.and_eq_true, beq_iff_eq, Bool.not_eq_true'] at h
  obtain ⟨⟨⟨⟨h1, h2⟩, h3⟩, h4⟩, h5⟩ := h
  exact ⟨h1, h2, h3, h4, fun n l e => by rw [e] at h5; simpa using h5⟩

theorem witness_stores : MayPerform (performing (someAccess .store (.scratch 0) 0x1000 4 [1, 2, 3, 4])) 3
    (someAccess .store (.scratch 0) 0x1000 4 [1, 2, 3, 4]) := mayPerform_of (by decide)
theorem witness_loads : MayPerform (performing (someAccess .load .phys 0x1000 4 [])) 3 (someAccess .load .phys 0x1000 4 []) ∧
    (memRegion (cpu id) 0x1000).isSome = true ∧ homeDie 0x1000 = dieOf 0 := ⟨mayPerform_of (by decide), by decide, by decide⟩
theorem witness_atomic_performs : (∀ k ∈ [AKind.atomic 0x76, .atomic 0x80], MayPerform (performing (someAccess k (.scratch 0) 8 4 [1, 0, 0, 0]))
      3 (someAccess k (.scratch 0) 8 4 [1, 0, 0, 0])) ∧
    (∀ k ∈ [AKind.cas64 0, .add64], MayPerform (performing (someAccess k (.scratch 0) 8 8 (List.replicate 8 1))) 3
      (someAccess k (.scratch 0) 8 8 (List.replicate 8 1))) := by
  constructor <;> intro k h <;> simp only [List.mem_cons, List.not_mem_nil, or_false] at h <;> rcases h with h | h <;> subst h <;> exact mayPerform_of (by decide)
/-- An access performed, whose answer comes. -/
def answering (src : Src) (outs : List OutRes) : Access :=
  { someAccess .load (.scratch 0) 8 4 [] with src := src, outs := outs, stage := .performed, got := [5, 0, 0, 0, 0, 0, 0, 0], todo := [] }
theorem witness_answers :
    (AMap.find? (performing (answering (.seq 3) [])).accs 3).map (·.stage) = some .performed ∧
    (let a := answering (.node 0 9 0) [⟨2, 5, some (fetchToken 0)⟩]
     (∀ o ∈ a.outs, o.port < 8192) ∧ (a.outs.map (·.id)).Nodup ∧ a.tok = some (fetchToken 0) ∧
       (shapeOut (fetchToken 0) (accessVal a) ⟨2, 5, some (fetchToken 0)⟩).tok.isSome = true) := by decide
theorem witness_walks :
    (let a := someAccess .load .virt 0x12340 4 []
     let s := paged (performing a)
     (transPieces s 0 (s.ctxOf 0) a.kind.acc a.todo).toOption.map (fun r => ((r.1.all fun p => fld p.2.leaf 61 59 != 5), (redirected s a (r.1.map (·.2.leaf))).isNone)) =
       some (true, true)) ∧
    (let a := someAccess .load .virt 0x12340 4 []
     (transPieces (performing a) 0 ((performing a).ctxOf 0) a.kind.acc a.todo).toOption = none) := by decide

/-- An access in the order slice of its domain (slice 0 of die 0), its number 5, and what the slice holds of the domain. -/
def ordered (nx : BitVec 16) (held : List (BitVec 16 × Nat)) : State :=
  let a := { someAccess .load .phys 0x1000 4 [] with own := some 5, stage := .ordering }
  ({ performing a with cur := .ev (.nums [3]) }).modSlice 0 0 fun l => { l with doms := [⟨0, 0, nx, 1, 0, held⟩] }
theorem witness_orderSlice :
    ([5, 6].all fun nx => let s := ordered nx []; (AMap.find? s.accs 3).map (fun a => (a.stage, a.own)) == some (.ordering, some 5) &&
      orderSlice fetchLaunch 0 == (0, 0) && (s.slice 0 0).doms.find? (fun x => x.launch == 0 && x.dom == 0) == some ⟨0, 0, nx, 1, 0, []⟩) = true ∧
    32768 ≤ ((5 : BitVec 16) - 6).toNat ∧
    releasable ((ordered 5 [(5, 3)]).slice 0 0).doms = some (0, 0, 3) ∧ ((ordered 5 [(5, 3)]).slice 0 0).relAt ≤ (ordered 5 [(5, 3)]).now := by decide
theorem witness_wcDrain : (let s := cpu fun k => { k with wc := [⟨9, 3, List.replicate 128 7, [0], 2, []⟩] }
    (s.core 0).wc.filter (fun e => e.line == 9 && e.since == 2) = [⟨9, 3, List.replicate 128 7, [0], 2, []⟩] ∧
    (s.launchOf 0).map (fun p => p.2.snapOn s.now) = some false) := by decide
theorem witness_fill : (let s := (cpu id).modSlice 0 0 fun l => { l with ways := [(4, ⟨9, 1, 0, 0⟩)] }
    (4, (⟨9, 1, 0, 0⟩ : CLine)) ∈ (s.slice 0 0).ways ∧ ((1 : BitVec 4) ||| 0) ≠ 0) := by decide

/-! ## Stream programs and channels -/

/-- A core whose stream program runs, with a window of its scratch. -/
def strm (f : Core → Core) : State :=
  { imaged 1 0x1000 4096 (cpu fun k => f { k with strm := ⟨true, false, 0, [], 0, 0, none⟩, sprog := List.replicate 8 0 }) with cur := .strm 0 }
theorem strmReady_of {s : State} (h : (decide (s.cur = .strm 0) && (s.core 0).strm.running && !(s.core 0).stopped && !(s.core 0).gated &&
      decide ((s.core 0).strm.next ≤ s.now)) = true) : StrmReady s 0 := by
  simp only [Bool.and_eq_true, decide_eq_true_eq, Bool.not_eq_true'] at h
  exact ⟨h.1.1.1.1, h.1.1.1.2, h.1.1.2, h.1.2, h.2⟩
/-- A channel in a state, of 4 elements of 4 bytes from scratch 0x1000 on; dir 0 reads, 1 writes. -/
def someChan (st : ChState) (dir : Nat) : Channel :=
  ⟨st, [0x100000000001000, BitVec.ofNat 64 (dir * 2048), 0x400000004, 0, 0, 0, 0, 0], 0, 0, 0, 0x1000, 0, 0, 0, 0, 0, false, 0, []⟩
/-- A core with channels. -/
def chans (l : List (Nat × Channel)) (k : Core) : Core := { k with chans := l }
/-- Command fields: d, a, b. -/
def cf (d a b : Nat) (imm : Int) : CF := ⟨BitVec.ofNat 5 d, BitVec.ofNat 5 a, BitVec.ofNat 5 b, BitVec.ofInt 9 imm⟩

theorem witness_strmReady : StrmReady (strm id) 0 := strmReady_of (by decide)
theorem witness_sopen : (let k := (strm fun k => { k with table := [(7, 1, [])] }).core 0
    (k.chan 1).state = .closed ∧ (k.table.find? (fun t => t.1 == 7 && t.2.1 == 1)).isSome = true) := by decide
theorem witness_passes :
    ([0, 1].all fun d => let s := strm (chans [(1, someChan .opened d)])
      let x := (s.core 0).chan 1;
      x.state == .opened && x.dir == d && passOk s 0 x x.base && !passOk s 0 x (x.base + 0x1000) && x.dw 1 10 9 == 0 && ((s.core 0).chan 2).state == .closed) = true := by decide
theorem witness_scpy : (let s := strm fun k => chans [(1, someChan .opened 1), (2, someChan .opened 0)] k
    let x := (s.core 0).chan 1;
    let y := (s.core 0).chan 2;
    x.state = .opened ∧ y.state = .opened ∧ x.dir = 1 ∧ y.dir = 0 ∧ x.esz = y.esz ∧ x.total = y.total ∧
      passOk s 0 x x.base = true ∧ passOk s 0 y y.base = true ∧ x.space ≠ 3) := by decide
theorem witness_smc : (let s := strm fun k => { (chans [(1, someChan .opened 0)] k) with strm := { k.strm with j := [(3, 1)] } }
    let x := (s.core 0).chan 1;
    x.state = .opened ∧ x.dir = 0 ∧ (jreg (s.core 0) 3).toNat < 2 ^ 16 ∧ x.total * x.esz ≤ 2 ^ 21 ∧ passOk s 0 x x.base = true ∧
      ((List.range 16).all fun b => !bitAt 1 b || fetchLaunch.has (clusCore 0 b)) = true) := by decide
theorem witness_handles : (let s := strm fun k => { k with strm := { k.strm with j := [(3, 0x1000), (4, 3 + 2 ^ 12 * 1)] } };
    (jreg (s.core 0) 3).toNat % 64 = 0 ∧ (jreg (s.core 0) 4).toNat < 2 ^ 19 ∧ ((s.core 0).handle 1).v = false) ∧
    (let k := (strm fun k => { k with handles := [(1, ⟨true, 0, 0, 3, 0, 0, 2, 0⟩)] }).core 0;
      (k.handle 1).v = true ∧ cbCount k (cf 1 0 0 1) = 1 ∧ cbCount k (cf 1 0 0 (-1)) = -1 ∧ passesOver k = true ∧ 1 ≤ (k.handle 1).room ∧
        (1 : Nat) ≤ (k.handle 1).fill) ∧
    slotAccesses (strm id) 0 1 .str true = [] ∧ cbCount ((strm id).core 0) (cf 1 0 0 0) = 0 := by decide
theorem witness_waits_and_branches :
    (((strm (chans [(1, someChan .active 0)])).core 0).chan 1).state = .active ∧ passesOver ((strm (chans [(1, someChan .active 0)])).core 0) = false ∧
    (let k := (strm fun k => { k with strm := { k.strm with j := [(3, 1)] } }).core 0;
     jreg k 3 ≠ jreg k 0 ∧ wordAt k.sprogPad k.sprog 4 = true) := by decide

theorem witness_streamEvents :
    (let s := strm (chans [(1, { someChan .active 0 with pass := 5 })])
     let x := (s.core 0).chan 1;
     x.state = .active ∧ x.issued < x.total ∧ (chanPlace s 0 x (x.addr x.issued)).toOption = some (.scratch 0, 0x1000)) ∧
    (let s := strm fun k => { chans [(1, { someChan .active 1 with pass := 2 })] k with bind := [(0, 1)], bufs := [(behind 0 0, [⟨7, some (fetchToken 0), [], true, 0⟩])] }
     let x := (s.core 0).chan 1;
     nextIn (s.core 0) 1 x.rr = some (0, behind 0 0, 7, fetchToken 0) ∧ (fetchToken 0).e = false ∧
       (chanPlace s 0 x (x.addr x.issued)).toOption = some (.scratch 0, 0x1000)) ∧
    (let t := { fetchToken 0 with data := [3] }
     let s := strm fun k => { chans [(1, { someChan .active 1 with pass := 4, partner := 2 }), (2, { someChan .index 0 with partner := 1 })] k with
       bind := [(0, 1), (1, 2)], bufs := [(behind 0 0, [⟨7, some (fetchToken 0), [], true, 0⟩]), (behind 0 1, [⟨8, some t, [], true, 0⟩])] }
     let x := (s.core 0).chan 1;
     nextIn (s.core 0) 2 0 = some (0, behind 0 1, 8, t) ∧ nextIn (s.core 0) 1 x.rr = some (0, behind 0 0, 7, fetchToken 0) ∧ x.partner = 2 ∧
       (∀ l ∈ idxLanes t, (t.data.getD l 0).toNat < (x.dims.head?.map (·.2)).getD 0) ∧ (idxPieces s 0 x t (idxLanes t)).toOption.isSome = true) ∧
    ([1, 2, 7, 3, 4].all fun p => passOver (strm (chans [(1, { someChan .active 0 with pass := p, issued := 4, done := 4, last := true, partner := 2 })])) 0 1) = true := by decide

/-! ## The sequencer -/

/-- Whether core 0's sequencer issues, with no write pending to any register of the list. -/
def seqB (s : State) (l : List (BitVec 5)) : Bool :=
  decide (s.cur = .seq 0) && (s.core 0).issues s.now && l.all fun r => !gPending (s.core 0) s.now r.toNat
theorem seqReady_of {s : State} {l : List (BitVec 5)} (h : seqB s l = true) : SeqReady s 0 l := by
  simp only [seqB, Bool.and_eq_true, decide_eq_true_eq, List.all_eq_true, Bool.not_eq_true'] at h
  exact ⟨h.1.1, h.1.2, h.2⟩
/-- A running core 0 in a window of its scratch, its registers and wait as given. -/
def seqAt (g : AMap DWord) (w : SeqWait) (f : Core → Core) : State :=
  imaged 1 0x1000 4096 (cpu fun k => f { k with seq := { k.seq with g := g, wait := w }, prog := List.replicate 8 0 })

theorem witness_arithmetic : SeqReady (seqAt [] .none id) 0 [1, 2, 3] := seqReady_of (by decide)
theorem witness_branches :
    (let k := (seqAt [(1, 5), (2, 4)] .none id).core 0
     (branchTable.all fun r => (r.2 (greg k 1) (greg k 2) || r.2 (greg k 2) (greg k 1) || r.2 (greg k 1) (greg k 1)) &&
       !(r.2 (greg k 1) (greg k 2) && r.2 (greg k 2) (greg k 1) && r.2 (greg k 1) (greg k 1))) &&
     wordAt k.progPad k.prog 4 && !wordAt k.progPad k.prog 400 && !wordAt k.progPad k.prog (-4) && !wordAt k.progPad k.prog 2) = true := by decide
theorem witness_seqMemory :
    (let s := paged (seqAt [(1, 0x12340), (2, 0x12344)] .none id)
     (seqAddr s 0 (greg (s.core 0) 1)).toOption.isSome = true ∧ (s.core 0).seq.loads < 16 ∧ outstanding s 0 [.seq] 0 = [] ∧
       (greg (s.core 0) 2 + 8 * (0 : BitVec 9).signExtend 64).toNat % 8 ≠ 0) ∧
    (let a := { someAccess .store (.scratch 0) 8 8 [] with src := .seq 64, path := .seq }
     outstanding { seqAt [] .none id with accs := [(3, a)] } 0 [.seq] 0 ≠ []) := by decide
theorem witness_fork : SeqReady (seqAt [] .none fun k => { k with forked := false }) 0 ((List.range 32).map (BitVec.ofNat 5)) ∧
    SeqReady (seqAt [] .none fun k => { k with forked := true }) 0 ((List.range 32).map (BitVec.ofNat 5)) := ⟨seqReady_of (by decide), seqReady_of (by decide)⟩
theorem witness_join :
    joinHolds (seqAt [] .none fun k => { k with forked := true }) 0 = false ∧
    joinHolds { seqAt [] .none (fun k => { k with forked := true, strm := { k.strm with ended := true } }) with launches := [(0, { fetchLaunch with endSent := true })] } 0 = true := by decide
theorem witness_switches : (let k := (seqAt [(1, 0)] .none fun k => { k with forked := true, loaded := 1 }).core 0;
      k.seq.wait = .none ∧ k.loaded = 1 ∧ k.forked = true ∧ stageOk 0 (greg k 1) = true ∧ stageOk 1 (greg k 1) = true) ∧
    stageHolds (seqAt [] (.armed 7) fun k => { k with forked := true }) 0 0 0 = true ∧
    stageHolds (seqAt [] (.armed 7) fun k => { k with forked := true }) 0 0 1 = false ∧
    seqB (seqAt [] (.armed 7) fun k => { k with forked := true }) [1] = true := by decide
theorem witness_time : SeqReady (seqAt [] .none id) 0 [1] := seqReady_of (by decide)
theorem witness_waitev :
    (let s := { seqAt [(1, 5), (2, 20)] .none id with count := 9 }
     (greg (s.core 0) 1).toNat ≤ s.count.toNat ∧ s.count.toNat < (greg (s.core 0) 2).toNat ∧ (s.core 0).seq.wait = .none ∧
       lineAt s 0 5 s.now = false ∧ (seqAddr s 0 8).toOption.isSome = true) ∧
    lineAt (seqAt [] .none fun k => { k with pcon := [(0, 0x20)] }) 0 5 8 = true ∧
    seqB (seqAt [] (.poll 8 (some 1)) id) [1] = true ∧
    (let s := ev { seqAt [] (.until 5 1) id with count := 9 } [0]; (s.core 0).seq.wait = .until 5 1 ∧ 5 ≤ s.count.toNat ∧ (s.core 0).stopped = false ∧ (s.core 0).gated = false) ∧
    (let s := ev (seqAt [] (.poll 8 none) id) [0]; (s.core 0).seq.wait = .poll 8 none ∧ s.accs = []) := by decide
theorem witness_fences : outstanding (seqAt [] .none id) 0 (pathsOf 127) 5 = [] ∧ cutOf (seqAt [] .none id) 0 true 5 = none ∧
    (let a := someAccess .store (.scratch 0) 8 8 []
     let s := { seqAt [] .none id with accs := [(3, a)] }
     outstanding s 0 (pathsOf 127) 5 ≠ [] ∧ allPerformed s 0 [3] = false ∧ allPerformed (seqAt [] .none id) 0 [3] = true) := by decide
theorem witness_system : ((seqAt [(1, 5), (2, 32), (3, 256)] .none id).launchOf 0).map (·.1) = some 0 ∧
    (let k := (seqAt [(1, 5), (2, 32), (3, 256)] .none id).core 0;
     (greg k 1).toNat < 32 ∧ (greg k 1).getLsbD 3 = false ∧ (greg k 1).toNat % 8 ≤ 5 ∧ 32 ≤ (greg k 2).toNat ∧
     (greg k 3).toNat < 2 ^ 32 ∧ (greg k 3).extractLsb' 2 6 = 0 ∧ (greg k 3).getLsbD 0 = (timed 8 0 fetchLaunch.snapcfg).getLsbD 0) := by decide
theorem witness_brk : SeqReady (seqAt [] .none id) 0 [] ∧ fetchLaunch.live? = true := ⟨seqReady_of (by decide), by decide⟩
theorem witness_trap : (let s := paged (seqAt [] .none id); ringRoom s 0 = true ∧ (s.record 0 { cause := 20, origin := 2 }).2 = some 0 ∧ (s.core 0).seq.trapIdx = none) ∧
    ringRoom { paged (seqAt [] .none id) with mem := writeBytes tables 0x4000 (toBytes 8 64) } 0 = false ∧
    seqB (seqAt [] (.trap 3 (some (2 ^ 63))) id) [1, 2] = true ∧ ((2 ^ 63 : DWord)).getLsbD 63 = true ∧
    fetchLaunch.snapOn 8 = false ∧ { fetchLaunch with snapcfg := [(0, 0x101)] }.snapOn 8 = true := by decide +kernel
/-- The ring's header 5, 1: four records to read. -/
def ringed : State := { paged (seqAt [(1, 2)] .none id) with mem := tables ++ [(0x4000, 5), (0x4008, 1)] }
theorem witness_fltrd : (ringed.ctxReadDws 0 (ringed.ctx 0).ring.1 2).toOption = some [5, 1] := by decide
theorem witness_fltrd_field : (ringed.ctxRead64 0 0x40C0).toOption = some 0 := by decide
theorem witness_gang : fetchLaunch.gang = none := rfl
theorem witness_seam : (let k := (seqAt [(1, 1)] .none fun k => { k with bind := [(0, 16)] }).core 0;
    AMap.find? k.bind (64 * k.loaded + 0) = some 16 ∧ bitAt (greg k 1).toNat 0 = true) ∧
    sinkOk (seqAt [] .none id) fetchLaunch 0 = false ∧
    sinkOk (seqAt [] .none fun k => { k with nodes := [(0, ⟨.sink one, 0⟩)] }) fetchLaunch 0 = true := by decide

/-! ## The matrix engine -/

/-- A queued token of one k-step (frames from 0 on, handle 0 for A and B), since cycle 0. -/
def someX (id : Nat) : XTok := ⟨id, 0, 0, false, 0, none, 0⟩
/-- A core with its matrix engine changed. -/
def withMx (f : Mx → Mx) (k : Core) : Core := { k with mx := f k.mx }
/-- A core with a tile of 16 by 16 elements (format 5) at scratch 0, its handle 0, and frames of its class. -/
def tiled (f : Mx → Mx) : State :=
  let g := fun k : Core => withMx f (withMx (fun m => { m with frames := (List.range 4).map fun i => (i, Frame.blank .h112 .empty) })
    { k with handles := [(0, ⟨true, 0, 15, 0, 0, 0, 1, 0⟩)] })
  { cpu g with mem := [(2 ^ 52, 5), (2 ^ 52 + 1, 15), (2 ^ 52 + 2, 0xF0)] }

theorem witness_mxi : (let s := node (.mxi ⟨0, 1, 12, 15, 0, 0⟩)
    let q := fire s;
    readyB s (.mxi ⟨0, 1, 12, 15, 0, 0⟩) q = true ∧ q.e = false ∧ q.x = false ∧
    badToken (s.core 0) 0 ⟨0, 0, 0, false, 0, none, 0⟩ = false ∧ badToken (s.core 0) 0 ⟨0, 4, 0, false, 0, none, 0⟩ = true ∧
    ((s.core 0).mx.xq 0).length < 8) := by decide
theorem witness_mxi_bad : (let s := alt .mxi (toks fun t => { t with data := [7] })
    let q := fire s
    let tok : XTok := ⟨s.nextId, q.bl 0 ++ q.a.lane 0, q.lit, false, 0, none, s.now + 1⟩;
    badToken (s.core q.core) q.core tok = true ∧ readyB s (.mxi (nf .mxi)) q = true) ∧
    (let s := alt .mxi (toks fun t => { t with data := [0] })
    let q := fire s
    let tok : XTok := ⟨s.nextId, q.bl 0 ++ q.a.lane 0, q.lit, false, 0, none, s.now + 1⟩;
    badToken (s.core q.core) q.core tok = false ∧ readyB s (.mxi (nf .mxi)) q = true) := by decide
theorem witness_mxi_full : (let s := alt .mxi (withMx fun m => { m with xq0 := List.replicate 8 (someX 1) })
    let q := fire s;
    readyB s (.mxi (nf .mxi)) q = true ∧ 8 ≤ ((s.core 0).mx.xq (if q.f.x = 13 then 1 else 0)).length) := by decide
theorem witness_select : (let s := ev (tiled fun m => { m with xq0 := [someX 1], xq1 := [{ someX 2 with tok := 0x40000 }], c0 := 1, c1 := 1 }) [0]
    (s.core 0).mx.sel = none ∧ rendezvous s 0 = none ∧ (offered s 0 0).map (·.id) = some 1 ∧ (offered s 0 1).map (·.id) = some 2 ∧ (s.core 0).mx.c1 ≤ (s.core 0).mx.c0) := by
  decide +kernel
/-- The selected k-step of token 1. -/
def someSel : Sel := ⟨0, 1, 0, 8, false, [], 0, false, 0, .h112, 0, 0, 0, [], 0⟩
theorem witness_fetch : (let s := tiled fun m => { m with xq0 := [someX 1], sel := some someSel }
    (s.core 0).xtok 1 = some (someX 1) ∧ sameLaunch s 0 0 = true ∧ (tileCheck s 0 (someX 1) someSel).toOption.isSome = true ∧
    (tileCheck { s with mem := [] } 0 (someX 1) someSel).toOption.isSome = false) := by decide +kernel
theorem witness_issue : (let x := { someSel with fetched := true, k := 16 }
    let s := ev (tiled fun m => { m with xq0 := [someX 1], sel := some x, balance := 256 }) [0]
    allIssue s 0 = true ∧ 0 + (s.core 0).tokSpan (someX 1) ≤ 128 ∧
    ∀ f ∈ (s.core 0).framesOf 0 ((s.core 0).tokSpan (someX 1)), f.cls = x.cls ∧ f.refuses (someX 1).acc x.texp x.k = none) := by decide +kernel
theorem witness_complete : (let fl : KFlight := ⟨5, [0], [(0, 0, Elem.zero)], 1, none⟩
    ((tiled fun m => { m with flights := [fl] }).core 0).mx.flights.find? (·.id == fl.id) = some fl ∧ fl.frames.Nodup) := by decide
theorem witness_grants : Happens (ev (cpu id) [0]) [0] ∧ (cpu id).freeCtr = 0 ∧ ((cpu id).core 0).mx.lastIssue + 64 ≤ { cpu id with now := 100 }.now :=
  ⟨rfl, rfl, by decide⟩
theorem witness_frameOps : (frameTable.all fun r =>
    (let s := alt r.1 (toks fun t => { t with data := List.replicate t.data.length 0 })
     let q := fire s;
     readyB s (r.1 (nf r.1)) q && !r.2.2 (s.core 0) (q.a.lane 0).toNat q && decide ((s.core 0).mx.fq.length < 8))) = true := by decide
theorem witness_frameOps_refused : (frameTable.all fun r => r.2.1 == 0x9A || r.2.1 == 0x9C ||
    (let s := alt r.1 (toks fun t => { t with data := List.replicate t.data.length 0x7FFFFFFF })
     let q := fire s;
     readyB s (r.1 (nf r.1)) q && r.2.2 (s.core 0) (q.a.lane 0).toNat q)) = true := by decide
/-- A frame-queue entry. -/
def someFq (op a : Nat) (b : List Word) : FqEnt := ⟨4, op, 0, 0, 9, 0, ⟨0, 0⟩, { fetchToken 0 with data := [BitVec.ofNat 32 a] }, some { fetchToken 0 with data := b }, [], 0, []⟩
/-- The entry offered its start, its frames in a state. -/
def queueOf (op : Nat) (st : FState) : State :=
  ev (imaged 1 0 0x10000 (tiled fun m => { m with fq := [someFq op 0 [0x40]], frames := (List.range 8).map fun i => (i, Frame.blank .h112 st) })) [0]
theorem fqReady_of {s : State} {e : FqEnt} (h : (decide (s.cur = .ev (.nums [0])) && (s.core 0).mx.fq.head? == some e && decide ((s.core 0).mx.fqBusy ≤ s.now) &&
      !(s.core 0).stopped && !(s.core 0).mx.halted.contains 2) = true) : FqReady s 0 e := by
  simp only [Bool.and_eq_true, decide_eq_true_eq, Bool.not_eq_true', beq_iff_eq] at h
  exact ⟨h.1.1.1.1, h.1.1.1.2, h.1.1.2, h.1.2, h.2⟩
theorem witness_frameEntries : (∀ op ∈ [0x92, 0x93, 0x94, 0x95, 0x96, 0x97, 0x98, 0x99, 0x9A, 0x9B, 0x9C], FqReady (queueOf op .settled) 0 (someFq op 0 [0x40])) ∧
    (let k := (queueOf 0x92 .settled).core 0
     oneClass (k.framesOf 0 1) = true ∧ busyFrames k 0 1 = false ∧ (k.frame 0).void = false ∧ rangeIdle k 8 0 1 = true ∧
       oneClass (((queueOf 0x92 .settled).core 0).framesOf 0 16) = false) := by
  refine ⟨fun op h => ?_, by decide⟩
  simp only [List.mem_cons, List.not_mem_nil, or_false] at h
  rcases h with h | h | h | h | h | h | h | h | h | h | h <;> subst h <;> exact fqReady_of (by decide)

/-! ## Rows and bins -/

/-- A core with its row units changed. -/
def withRows (f : Rows → Rows) (k : Core) : Core := { k with rows := f k.rows }
/-- A row header of some flags: layer 0, expert 0, slot 0, home 0, 16 elements of format 5. -/
def someHdr (flags : Nat) : RowHdr := ⟨0, BitVec.ofNat 64 flags, 0, 0x50000000F⟩
/-- A message of it from core 0 to itself. -/
def someMsg (flags : Nat) : RowMsg := ⟨someHdr flags, false, List.replicate 64 0, 0, 0, 0, 16, 8, false, false, true, none⟩
/-- A bin in a state: rows of 16 elements of format 5, one k-step a group, 16 rows a firing. -/
def someBin (st : BState) : Bin := ⟨0, 0x3C000570000, 0, st, true, false, 0, 0, 16, 0, none, none, 0, 0, 0, 0, []⟩
/-- A layer slot of layer 0. -/
def someLayer (pol : Nat) : LayerSlot := ⟨0, 4, pol, false, 5, 15, 0, 0, 1000, 0, 0x2000, 64, 0, []⟩
/-- A combine range of 4 slots staged at scratch 0x1000, one local contribution and one rank. -/
def someCmb : Combine := ⟨0x15500000000F, 0x4001000, 0, none, []⟩
/-- The status doubleword of slot 0: set up, rank 0 expected. -/
def status : List Host.Cell := [(2 ^ 52 + 0x1000, 1), (2 ^ 52 + 0x1004, 2)]
/-- The arrival of a message at core 0. -/
def arriving (m : RowMsg) (f : Rows → Rows) : State := { ev (cpu (withRows f)) [3] with msgs := [(3, m)], mem := status }

theorem witness_cfw : (let s := nodeWith (.cfw vtwo) (lit 1); let q := fire s
    readyB s (.cfw vtwo) q = true ∧ bitAt q.lit.toNat 0 = true ∧ (q.a.tok).isSome = true ∧ (q.b.bind (·.tok)).isSome = true) ∧
    bitAt (fire (nodeWith (.cfw vtwo) (lit 0))).lit.toNat 0 = false ∧
    (let s := nodeWith (.cfw vtwo) (fun k => withRows (fun r => { r with paths := [(nkey 0 9 0, List.replicate 4 (⟨0, 0⟩, fetchToken 0, fetchToken 0))] }) (lit 1 k))
     4 ≤ (AMap.get (s.core 0).rows.paths (nkey 0 9 0) []).length ∧ readyB s (.cfw vtwo) (fire s) = true) := by decide
theorem witness_cfwr : (let s := nodeWith (.cfwr (nf .cfwr)) (lit 0x40); let q := fire s
    readyB s (.cfwr (nf .cfwr)) q = true ∧ bitAt q.lit.toNat 6 = true ∧ AMap.get (s.core 0).rows.paths (nkey 0 9 0) [] = []) ∧
    bitAt (fire (nodeWith (.cfwr (nf .cfwr)) (lit 0))).lit.toNat 6 = false ∧
    (let s := nodeWith (.cfwr (nf .cfwr)) (fun k => withRows (fun r => { r with paths := [(nkey 0 9 0, [((fire (node (.cfwr (nf .cfwr)))).tag, fetchToken 0, fetchToken 0)])] }) (lit 0x40 k))
     let q := fire s
     (AMap.get (s.core 0).rows.paths (nkey 0 9 0) []).find? (fun e => e.1 == q.tag) = some (q.tag, fetchToken 0, fetchToken 0) ∧ readyB s (.cfwr (nf .cfwr)) q = true) := by decide
theorem witness_stamp : (let s := alt .stamp fun k => withRows (fun r => { r with layers := [(0, someLayer 0)] }) (lit 0 k)
    let q := fire s
    readyB s (.stamp (nf .stamp)) q = true ∧ (q.a.tok).isSome = true ∧ AMap.find? (s.core 0).rows.layers (q.lit.toNat % 4) = some (someLayer 0) ∧
      (stampAll s 0 (someLayer 0) q.lit.toNat 0 [{ fetchToken 0 with data := List.replicate 16 0xFFFFFFFF }]).isSome = true ∧ (s.core 0).rows.hdrs.length + 8 ≤ 64) ∧
    (fld 4 4 2 + 1 = 2) ∧ 64 < (List.replicate 57 (someHdr 0, 0)).length + 8 := by decide
theorem witness_disp : freeHdrs (withRows (fun r => { r with hdrs := [(someHdr 0, 0)] }) Core.idle).rows 0 = 1 := by decide
theorem witness_cmbadd : (let s := { alt .cmbadd (fun k => withRows (fun r => { r with cmb := some someCmb }) (dataA [0] (tokB (fun t => { t with data := [0x2000] }) k))) with mem := status }
    let q := fire s
    readyB s (.cmbadd (nf .cmbadd)) q = true ∧ inCombine (s.core 0) (q.a.lane 0).toNat = some someCmb ∧ someCmb.loc = true ∧ bitAt (staged s 0 someCmb 0) 32 = false ∧
      (q.bl 0).toNat % 64 = 0 ∧ (q.bl 0).toNat + someCmb.width * typeBits someCmb.cfmt / 8 ≤ 2 ^ 21) ∧
    inCombine (Core.idle) 0 = none := by decide
theorem witness_binnx : (let s := alt .binnx (dataA [0x1000]); readyB s (.binnx (nf .binnx)) (fire s) = true ∧
      0x1000 + (rowHdrOf (s.scratch 0 0x1000 32)).size ≤ 2 ^ 21) ∧
    (let s := alt .binnx (dataA [0x1001]); readyB s (.binnx (nf .binnx)) (fire s) = true) ∧
    (let s := alt .binwt (dataA [0x30]); readyB s (.binwt (nf .binwt)) (fire s) = true ∧ fld 0x30 5 4 = 3) ∧
    (let s := alt .binwt (dataA [1]); readyB s (.binwt (nf .binwt)) (fire s) = true) := by decide

theorem witness_dispatch :
    (let s := arriving (someMsg 0) id; (someMsg 0).malformed 0 = false ∧ boundBin (s.core 0) (someMsg 0) = none ∧ (someHdr 0).homePkg = s.topo.pkg.toNat) ∧
    (let s := arriving (someMsg 0) fun r => { r with bins := [(0, someBin .opened)] }
     let w := windowFor (s.core 0).rows (someHdr 0);
     servesRows s 0 = true ∧ boundBin (s.core 0) (someMsg 0) = some (0, someBin .opened) ∧ w.seen 0 = false ∧ (w.note 0).seen 0 = true ∧
      (someHdr 0).fmt = (someBin .opened).rfmt ∧ (someHdr 0).len + 1 = (someBin .opened).ksteps * (someBin .opened).k ∧
      receiver (s.core 0) 0 = some (0, someBin .opened) ∧ 0 + uncounted (s.core 0) 0 < (someBin .opened).cap) := by decide
theorem witness_home : ([1, 3].all fun fl =>
    let s := arriving (someMsg fl) fun r => { r with cmb := some someCmb }
    !(someMsg fl).malformed fl && (placeOf s 0 (someHdr fl) == some (someCmb, 2 ^ 33 + 1)) && !bitAt (2 ^ 33 + 1) 8) = true ∧
    (someHdr 1).fmt = someCmb.cfmt ∧ (someHdr 1).len + 1 = someCmb.width := by decide
theorem witness_bounce : (let s := arriving (someMsg 4) fun r => { r with layers := [(0, someLayer 1)] }
    (someMsg 4).malformed 4 = false ∧ layerOf (s.core 0).rows 0 = some (0, someLayer 1) ∧ (someHdr 4).rr = false ∧ (someHdr 4).alt ≠ 0xFFFF ∧ (someLayer 1).pol ≠ 0) ∧
    (someHdr 20).rr = true ∧ (someMsg 20).malformed 4 = false := by decide
theorem witness_refusal :
    (let m := someMsg 8
     let s := paged (arriving m fun r => { r with layers := [(0, { someLayer 1 with map := 0x12340, cache := [(0, (0, 2 ^ 63))] })] })
     m.malformed 8 = false ∧ (match resolve s 0 { someLayer 1 with map := 0x12340, cache := [(0, (0, 2 ^ 63))] } 0 with | .entry _ _ _ _ => true | _ => false) = true ∧
      (s.core 0).rows.retry.find? (fun x => x.msg.hdr == (someHdr 8).setFlags 0) = none) := by decide +kernel
theorem witness_retry : (let x : Retry := ⟨5, someMsg 0, 0, 0, 8, 8⟩
    let s := ev (cpu (withRows fun r => { r with retry := [x] })) [0, 5]
    (s.core 0).rows.retry.find? (fun y => y.id == 5) = some x ∧ (s.core 0).rows.retry.head? = some x ∧ x.next ≤ s.now ∧
    x.msg.dstPkg = s.topo.pkg.toNat ∧ x.first + x.bound ≤ s.now ∧ layerOf (s.core 0).rows x.msg.hdr.layer = none) := by decide
theorem witness_combineWrite : (let s := ev (cpu (withRows fun r => { r with cmb := some { someCmb with writing := some (5, 0, false) } })) [0]
    (s.core 0).rows.cmb = some { someCmb with writing := some (5, 0, false) } ∧ 5 ≤ s.now) := by decide

/-- A core with bin 0, its handle 0 of 16 slots, and its frames. -/
def binned (x : Bin) (f : Rows → Rows) : Core → Core := fun k =>
  withRows (fun r => f { r with bins := [(0, x)] }) { k with handles := [(0, ⟨true, 0, 31, 15, 0, 0, 0, 0⟩)] }
theorem witness_rowCounted : (let s := ev (cpu (binned (someBin .opened) fun r => { r with accepted := [(3, (someMsg 0, 0, 5))] })) [0, 3]
    AMap.find? (s.core 0).rows.accepted 3 = some (someMsg 0, 0, 5) ∧ receiver (s.core 0) 0 = some (0, someBin .opened) ∧
    (s.core 0).bin 0 = some (someBin .opened) ∧ (someBin .opened).closed = false ∧ (someBin .opened).r < (someBin .opened).cap) := by decide
theorem witness_timer : (let x := { someBin .opened with timer := some 7 }; ((cpu (binned x id)).core 0).bin 0 = some x ∧ 7 ≤ (cpu id).now) := by decide
theorem witness_groupFix : (let x := { someBin .firing with r := 16 }; canFix ((cpu (binned x id)).core 0) x = true ∧ 16 * x.fixed + 16 ≤ x.r) := by decide
theorem witness_groupEnds :
    (let y : BGroup := ⟨0, 16, 0, 0, false, none⟩; ({ someBin .firing with groups := [y] }).groups.find? (fun y => !y.adv && y.toRead == 0) = some y) ∧
    (let y : BGroup := ⟨0, 16, 0, 0, true, some 7⟩; ({ someBin .firing with groups := [y] }).groups.find? (fun z => z.g == y.g) = some y) ∧
    (let x := { someBin .firing with groups := [⟨0, 16, 0, 0, true, none⟩] }; firstOvf ((cpu (binned x id)).core 0) (x.fb 0 0) (x.toks * x.frames) = none) := by decide

/-- A descriptor in scratch 0x1000. -/
def descr (d : List Nat) (f : Core → Core) : State :=
  { seqAt [(1, 0x8000000000001000), (2, 0)] .none f with mem := writeBytes [] (2 ^ 52 + 0x1000) (d.flatMap (toBytes 8)) }
/-- What such a read gives. -/
def descrOf (s : State) : List DWord := (List.range 8).map fun i => dword (ofBytes (((takeBytes s 0 [(2 ^ 52 + 0x1000, 64)]).drop (8 * i)).take 8))
theorem witness_descr : (let s := descr [] id; seqB s [1, 2] = true ∧ (seqAddr s 0 (greg (s.core 0) 1)).toOption = some (.scratch 0, 0x1000) ∧
    (seqAddr s 0 (greg (s.core 0) 1 + 56)).toOption.isSome = true ∧ reach s 0 (.scratch 0) 0x1000 64 false = .ok [(2 ^ 52 + 0x1000, 64)] ∧ (greg (s.core 0) 2).toNat < 16 ∧
    readLayer (descrOf s) = none) := by decide
theorem witness_bincfg : (let s := descr [0, 0x3C000570000] (binned (someBin .opened) id)
    let x := someBin .opened
    descrOf s = [x.dw0, x.dw1, 0, 0, 0, 0, 0, 0] ∧ binBad (s.core 0) 0 x (descrOf s) = none) := by decide
theorem witness_cmbcfg : (let s := descr [0x15500000000F, 0x4001000] (binned (someBin .opened) id)
    descrOf s = [someCmb.dw0, someCmb.dw1, 0, 0, 0, 0, 0, 0] ∧ combineBad (s.core 0) someCmb (descrOf s) = none) := by decide
theorem witness_exmap : (readLayer [0x400500000 + 15, 0, 1000, 0x2000, 64, 0, 0, 0]).isSome = true := by decide
theorem witness_bintrg : fld (0x1000010 : Nat) 23 4 ≤ (someBin .opened).cap ∧ fld (0x100000000 : Nat) 47 32 ≠ 0 ∧ fld (0x100000000 : Nat) 31 18 = 0 ∧ (someBin .opened).twin = 0 := by decide
theorem witness_cmbwt : someCmb.next - someCmb.base = 0 := by decide
theorem witness_spillcfg : ([0, 64, 0x100000080, 64] : List Nat).all (fun n => decide (n % 64 = 0)) = true ∧ fld 0x100000080 63 32 = 1 ∧ 128 ≤ fld 0x100000080 31 0 := by decide

/-! ## Barriers, counters, queues and units -/

/-- A counting entry of context 0 that expects 4. -/
def someBar (n : Nat) (w : List (Nat × BitVec 16)) : Bar := ⟨.counting, 0, 0, 4, n, 7, 100, 0, 5, w, [], [], 0⟩
/-- An operation of core 0 that has reached its unit. -/
def someOp (op target : Nat) (v : DWord) : UnitOp := ⟨0, 0, op, target, v, 1, 8, none, none, [], none, []⟩
/-- Its arrival, core 0 waiting for the answer. -/
def opState (o : UnitOp) : State := { ev (seqAt [] .answer id) [3] with ops := [(3, o)] }
/-- Whether it is the only one its unit serves. -/
def opB (l : List Nat) (t op : Nat) : Bool :=
  let o := someOp op t 2
  (opState o).ops.filter (fun p => l.contains p.2.op && p.2.target == o.target && decide (p.2.half ≤ (opState o).now)) == [(3, o)]
theorem opArrives_of (l : List Nat) (t : Nat) (h : l.all (opB l t) = true) (op : Nat) (m : op ∈ l) :
    OpArrives (opState (someOp op t 2)) 3 (someOp op t 2) l :=
  ⟨rfl, rfl, by simpa [opB] using List.all_eq_true.mp h op m⟩

theorem witness_barriers :
    (let s := seqAt [(1, 3), (2, 5)] .none id
     barWord (greg (s.core 0) 1) = true ∧ barConfig (greg (s.core 0) 2).toNat = true ∧ foreign s 0 3 = false ∧ barWord (2 ^ 14) = false ∧ arrivalOk s 0 (greg (s.core 0) 1) = false) ∧
    (let s := { seqAt [(1, 3)] .none id with bars := [(3, someBar 1 [])] }
     arrivalOk s 0 3 = true ∧ allPerformed s 0 (earlier s 0 5) = true ∧ (s.bar 3).releases 7 = false ∧ (s.bar 3).releases 6 = true ∧ (s.core 0).seq.wait = .none) ∧
    (let s := { seqAt [(1, 3)] .none id with bars := [(3, someBar 1 [])], accs := [(3, someAccess .store (.scratch 0) 8 8 [])] }
     allPerformed s 0 (earlier s 0 5) = false) ∧
    seqB (seqAt [(1, 3)] (.arrived (some 7)) id) [1, 2] = true := by decide
theorem witness_barrierOps : (∀ op ∈ barrierOps, OpArrives (opState (someOp op 3 2)) 3 (someOp op 3 2) barrierOps) ∧
    (∀ op ∈ counterOps, OpArrives (opState (someOp op 3 2)) 3 (someOp op 3 2) counterOps) ∧
    (∀ op ∈ [0x39, 0x3A], OpArrives (opState (someOp op 3 2)) 3 (someOp op 3 2) [0x39, 0x3A]) ∧
    (∀ op ∈ [0x3B, 0x3C, 0x3D], OpArrives (opState (someOp op 0 2)) 3 (someOp op 0 2) [0x3B, 0x3C, 0x3D]) :=
  ⟨opArrives_of _ _ (by decide), opArrives_of _ _ (by decide), opArrives_of _ _ (by decide), opArrives_of _ _ (by decide)⟩
theorem witness_awaits : Awaits (opState (someOp 0x30 3 2)) (someOp 0x30 3 2) ∧ ((opState (someOp 0x30 3 2)).bar 3).state = .idle ∧
    ((opState (someOp 0x30 3 2)).bar 3).waiters = [] ∧ ((opState (someOp 0x34 3 2)).wcnt 3).v = false := ⟨⟨rfl, rfl⟩, rfl, rfl, rfl⟩
theorem witness_barrierCounts : (someBar 1 []).count + 2 < (someBar 1 []).expect ∧ (someBar 2 []).count + 2 = (someBar 2 []).expect ∧
    (someBar 3 []).expect < (someBar 3 []).count + 2 ∧ (someBar 1 []).scope ≠ 2 ∧ (someBar 1 []).state ≠ .idle ∧ (someBar 1 []).state ≠ .broken := by decide
theorem witness_barrierTimeout : (let b := someBar 1 []; b.state = .counting ∧ b.t0 = 5 ∧ b.tmo ≠ 0 ∧ 0 < b.count ∧ b.queue = []) := by decide
theorem witness_systemBarrier : (let b := { someBar 4 [] with scope := 2 }
    b.count = b.expect ∧ b.scope = 2 ∧ ((barMembers (cpu id) b).all [0].contains = true)) := by decide
theorem witness_release : (let s := ev (seqAt [] .answer id) [0, 3, 7, 0]; (s.core 0).launch.isSome = true ∧ (s.core 0).seq.wait = .answer ∧ outstanding s 0 [.seq] 0 = []) := by decide
theorem witness_counters :
    (let s := { seqAt [(1, 3), (2, 8192)] .none id with wcnts := [(3, ⟨true, 0, 5, 0, []⟩)] }
     (s.wcnt 3).v = true ∧ (s.wcnt 3).owner = s.ctxOf 0 ∧ allPerformed s 0 (earlier s 0 5) = true ∧ (s.wcnt 3).value ≠ 0 ∧ (s.wcnt 3).waiters = [] ∧ s.ops = [] ∧
       8192 ≤ (greg (s.core 0) 2).toNat) := by decide
theorem witness_halt : (let s := { seqAt [] .none (fun k => { k with strm := { k.strm with ended := true } }) with launches := [(0, { fetchLaunch with endSent := true })] }
    joinHolds s 0 = true ∧ ∀ d ∈ fetchLaunch.cores, d = 0) := by decide
theorem witness_ends : owing (seqAt [] .none id) (reached (seqAt [] .none id) 0 fetchLaunch 1) = false ∧
    (let s := { seqAt [] .none id with accs := [(3, someAccess .store (.scratch 0) 8 8 [])] }
     owing s (reached s 0 fetchLaunch 1) = true) := by decide
/-- A queue of 4 records at 0x4000. -/
def someQueue (en : Bool) (st : QState) (tail : BitVec 32) : Queue := { Queue.reset with base := 0x4002, en := en, state := st, tail := tail }
theorem witness_queues : (2 ^ 63 : DWord).getLsbD 31 = false ∧ (0x80000000 : DWord).getLsbD 31 = true ∧
    (someQueue true .empty 0).en = true ∧ (someQueue false .suspended 1).tail ≠ (someQueue false .suspended 1).head ∧
    ((4 : BitVec 32) - (someQueue true .blocked 0).head).toNat ≤ 2 ^ fld (someQueue true .blocked 0).base.toNat 4 0 ∧
    2 ^ fld (someQueue true .blocked 0).base.toNat 4 0 < ((5 : BitVec 32) - (someQueue true .blocked 0).head).toNat := by decide +kernel
theorem witness_enq : (let s := { paged (seqAt [(1, 5), (2, 0x12340)] .none id) with queues := [(5, someQueue true .empty 0)] }
    let x := s.queue 5;
    x.ctx = s.ctxOf 0 ∧ (greg (s.core 0) 2).toNat % 64 = 0 ∧ allPerformed s 0 (earlier s 0 5) = true ∧ (!x.en || x.state == .error || x.used == 2 ^ fld x.base.toNat 4 0) = false ∧
    (s.walk 0 0x12340 .read).toOption.isSome = true ∧ (s.walk 0 (0x12340 + 64) .read).toOption.isSome = true ∧
    (s.walk 0 (x.ringAddr x.tail.toNat) .write).toOption.map (·.pa) = some 0x4000 ∧ (memRegion s 0x4000).isSome = true) := by decide +kernel
theorem witness_enq_reads : ((paged (seqAt [] .none id)).ctxRead 0 0x12340 64).toOption.isSome = true := by decide
theorem witness_units : (let s := { seqAt [(1, 3), (2, 9)] .none id with pqs := [(3, { Pq.reset with en := true })] }
    pqNamed s 0 (greg (s.core 0) 1) = true ∧ greg (s.core 0) 2 ≠ BitVec.allOnes 64 ∧ pqNamed s 0 (greg (s.core 0) 2) = false ∧ hasDeques s 0 = false) ∧
    (let s := { seqAt [(1, 3)] .none id with launches := [(0, { fetchLaunch with recd := [0x80], rows := 1, cols := 2 })] }
     hasDeques s 0 = true ∧ stealOrder { fetchLaunch with recd := [0x80], rows := 1, cols := 2 } 0 = [1]) := by decide
theorem witness_pq : (let p := { Pq.reset with back := [7] }; p.nextStart ≤ 8 ∧ p.transit.length < p.free.length ∧ leastItem p.back = some 7) ∧
    (let p := { Pq.reset with transit := [(8, 7)] }; p.transit.find? (fun t => decide (t.1 ≤ 8)) = some (8, 7) ∧ p.free ≠ []) ∧
    ({ Pq.reset with front := [(0, 9)] }).laneLeast 0 = some (0, 9) ∧ Pq.reset.served ≠ 9 := by decide +kernel
theorem witness_deques : dequeLen (opState (someOp 0x3B 0 2)) 0 = 0 ∧ ((opState (someOp 0x3B 0 2)).core 0).dqServed ≠ 9 ∧
    dequeLen { opState (someOp 0x3C 0 2) with mem := [(2 ^ 52 + 0x1FDFF4, 1)] } 0 = 1 := by decide
/-- Access tables that let every master read and write the scheduler and Banker blocks. -/
def open_ : State :=
  let e : AccEnt := ⟨0xE000000000000000, 0, 0xFFFFFFFFFFFFFFFF, 0⟩
  { cpu id with access := [(0x4000001000000, e), (0x4000002000000, e)] }
theorem witness_registers : accessOk open_ 0 0x4000001000010 true = true ∧ regAt 0x4000001000010 = some .gangbase ∧ regAt 0x4000001000018 = some (.other 0x4000001000018) ∧
    accessOk open_ 0 0x4000001000018 true = true ∧ accessOk (cpu id) 0x3000 0x4000001000010 true = false ∧ regAt 0x4000001100000 = some (.qbase 0) ∧
    regAt 0x4000001100008 = some (.qcfg 0) ∧ regAt 0x4000001100010 = some (.qtail 0) ∧ regAt 0x4000002000008 = some (.bkfree 0) ∧
    regAt 0x4000001200000 = some (.pqcfg 0 false) := by decide +kernel

/-! ## Pages, contexts and the scheduler -/

/-- Tables that end in a level-4 leaf: the page at 0x10000 is itself, of a state (R398), managed. -/
def leafTables (st : Nat) : List Host.Cell :=
  [(1, 0x20), (7, 0x80), (0x2001, 0x60), (0x2007, 0x80), (0x6001, 0x80), (0x6007, 0x80), (0x800A, 1), (0x800F, BitVec.ofNat 8 (0xC7 + 8 * st))]
/-- A core whose g1 names the page, its context's tables in memory. -/
def pageState (st : Nat) (g : Nat) : State := { paged (seqAt [(1, BitVec.ofNat 64 g), (2, 0)] .none id) with mem := leafTables st }

theorem witness_promote : ([0, 5, 6].all fun st =>
    (translate (pageState st 0x12340) 0 0 0x10000 .read).toOption.map (fun p => (fld p.1.leaf 61 59, p.1.pa)) == some (st, 0x10000)) = true ∧
    memRegion State.reset 0x10000 = some 0 := by decide
theorem witness_translate_far : (let s := { pageState 0 0x12340 with mem := leafTables 0 ++ [(0x800D, 0)] }
    (translate s 0 0 0x10000 .read).toOption.isSome = true) := by decide
theorem witness_tlbinv : (greg ((pageState 0 0x12340).core 0) 1).toNat < 2 ^ 56 ∧ 2 ^ 56 ≤ (0x100000000000000 : Nat) ∧ (12 : Nat) < 0x12340 ∧ (0x12340 / 65536 * 65536) % 65536 = 0 := by decide
theorem witness_bnkhint : (let v := 0x001000001; fld v 35 24 ≠ 0 ∧ fld v 35 24 ≤ 768 ∧ fld v 23 0 ≠ 0 ∧ (fld v 47 36 + fld v 35 24) * 65536 ≤ ({ fetchLaunch with ways := 8, cols := 2 }).winSize) := by decide
theorem witness_pstat : ((pageState 0 0x12340).walk 0 0x12340 .look).toOption.isSome = true ∧ (translate (pageState 0 0x12340) 0 0 0x12340 .look).toOption.isSome = true ∧
    ((seqAt [] .none id).walk 0 0 .look).toOption.isSome = false := by decide
/-- A bank with a job that waits. -/
def someBank (dem : Bool) : Bank := ⟨if dem then [(0, ⟨false, 9, 0, 0⟩)] else [], 1, [⟨9, dem, false, 0, 1, 0⟩], 0, none⟩
theorem witness_bank : (let s := ev ((cpu id).modDie 0 fun d => { d with banks := [(3, someBank false)] }) [0, 3]
    s.bankAt 0 3 = someBank false ∧ bankIdle s 0 3 = true ∧ (someBank false).holding 9 = none ∧ (someBank false).choose = some 0 ∧
    ((someBank true).holding 9).isSome = true ∧ AMap.find? (someBank true).slots 0 = some ⟨false, 9, 0, 0⟩) ∧ 0 + 4096 ≤ { cpu id with now := 5000 }.now := by decide
theorem witness_bank_busy : (let a := someAccess .load .phys 0x1000 4 []
    let s := { cpu id with accs := [(3, a)] }
    bankIdle s (homeDie 0x1000) (bankRow 0x1000).1 = false) := by decide
/-- A die whose Banker has a move queued. -/
def bankered (f : Die → Die) : State := ev ((pageState 0 0).modDie 0 f) [0]
theorem witness_bankerMove : (let s := bankered fun d => { d with bkctl := 0x8000000000000000, bkq := [⟨0, 0, 0x10000, 0x8008⟩], bkspare := [0x20000] }
    let k := s.die 0
    k.bkrun = none ∧ k.bkctl.msb = true ∧ (s.walk 0 0x10000 .look).toOption.map (fun t => (t.level, t.leafPa)) = some (4, 0x8008) ∧
      (dword (s.phys64 0x8008)).getLsbD 56 = true ∧ leafState (dword (s.phys64 0x8008)) = 0 ∧ returnFull k = false) := by decide
theorem witness_migration : (let s := bankered fun d => { d with bkrun := some (⟨0, 0, 0x10000, 0x8008⟩, 0x20000, 0xC700000000010000) }
    s.phys64 0x8008 = 0xC700000000010000 ∧ s.phys64 0x8008 ≠ (0 : DWord).toNat) := by decide
/-- A stalled page of context 0, its record at index 2. -/
def stalled (q : List (Nat × Nat × Nat)) : State := (cpu id).modDie 4 fun d => { d with stalls := [⟨0, 1, false, 2, 8, [], q⟩] }
theorem witness_pager : ({ stalled [] with cur := .ev (.word 0 2) }).pgrsp.msb = true ∧ (stalledAt (stalled []) 0 2).map (·.2.asks) = some [] ∧
    (stalledAt (stalled [(7, 0, 1)]) 0 2).map (·.2.asks) = some [(7, 0, 1)] ∧ stalledAt (stalled []) 0 3 = none ∧ fld (0x10000000000 : Nat) 47 40 ≠ 0 := by decide
/-- Contexts in states. -/
def ctxAt (st : CtxState) : State := { cpu id with ctxs := [(0, { someCtx with state := st })] }
theorem witness_contexts : (cpu id).ctxrsp.msb = true ∧ ([CtxState.free, .running, .gating, .frozen, .faulted, .dead].all fun st => ((ctxAt st).ctx 0).state == st) = true ∧
    ((ctxAt .running).launches.filter fun p => p.2.ctx == 0).find? (fun p => p.2.live?) = some (0, fetchLaunch) ∧
    (∀ p ∈ (ctxAt .running).launches, p.2.ctx = 0 → p.2.state ≠ .loading) ∧ (∀ q ∈ (ctxAt .dead).queues, ¬ (q.2.ctx = 0 ∧ q.2.en = true)) ∧
    (∀ b ∈ (ctxAt .running).bars, b.2.owner ≠ 0) := by decide
theorem witness_ctxCreate : (List.range 4096).find? (fun x => ((ctxAt .running).ctx x).state == .free) = some 1 ∧
    ctxDescOk [0x10000000, 0x4006, 0, 0, 0, 0, 0, 0] = true ∧ ctxDescOk [0, 0, 0, 0, 0, 0, 0, 0] = false ∧ memRegion State.reset 0x1000 = some 0 := by decide +kernel
/-- A launch record of one core with its image at 0x20000. -/
def someRec : List DWord := [0x01010000, 0x20000, 0, 0, 0, 0, 0, 0, 0, 0, 0, 0, 0, 0, 0, 0]
/-- A machine without launches whose queue 0 has that record at its head. -/
def headAt (st : QState) (recs : List (List DWord)) : State :=
  { paged (cpu id) with
      launches := [], cores := [], cur := .ev (.nums [0]), mem := tables ++ [(0x8002, 1), (0x8003, 1), (0x800A, 2)],
      queues := [(0, { someQueue true st 1 with base := 0x8002, recs := recs })] }
theorem witness_headCheck : (ringRecs (headAt .blocked []) 0 0 1).toOption = some [someRec] := by decide +kernel
theorem witness_headOk : recOk someRec = true ∧ recGang someRec = false ∧ recLen someRec = 1 ∧ recOk [4] = false ∧ recKind someRec = 0 := by decide
theorem witness_dependences : (match evalDeps (headAt .blocked [someRec]) 0 someRec 4 with | .ok p => p == (true, false) | .error _ => false) = true ∧
    (match evalDeps (headAt .blocked [0x10001010000 :: (someRec.drop 1).take 4 ++ [0x5000] ++ someRec.drop 6]) 0 (0x10001010000 :: (someRec.drop 1).take 4 ++ [0x5000] ++ someRec.drop 6) 4 with
      | .ok p => p == (false, false) | .error _ => false) = true := by decide +kernel
theorem witness_decision : (let s := headAt .armed [someRec]
    let s := { s with queues := s.queues.map fun p => (p.1, { p.2 with deficit := 1 }) }
    (armedQueues s).map (·.1) = [0] ∧ headPrio (s.queue 0) = 0 ∧ headCost s 0 = 1 ∧ placeable s 0 0 = true) ∧ armedQueues (headAt .blocked [someRec]) = [] := by decide +kernel
theorem witness_yield : yieldsTo (seqAt [] .none id) 0 fetchLaunch = false := by decide
theorem witness_yields : (let s := { headAt .armed [someRec] with launches := [(0, { fetchLaunch with queue := 7 })], cores := (seqAt [] .none id).cores }
    yieldsTo s 0 { fetchLaunch with queue := 7 } = true) := by decide +kernel

/-! ## Collectives, launches, cuts and gangs -/

/-- Gang 0 of packages 0 and 1, its descriptor at 0x400000. -/
def ganged (s : State) : State :=
  { s with gangbase := 0x8000000000400000, mem := s.mem ++ [(0x400000, 3), (0x400024, 1)] }
theorem witness_aredx : (let s := ganged (descr [] id)
    members (gangDesc s 0) = [0, 1] ∧ aredxOk s (descrOf s) = true ∧ aredxOk s (0x80 :: (descrOf s).drop 1) = false ∧
      lowestFree 4 ((s.core 0).colls.map (·.1)) = some 0 ∧ seqB s [1, 2] = true) := by decide +kernel
/-- A collective of frame 0, in a phase. -/
def someColl (phase : Nat) : Coll := ⟨1, 0, 0, 0, 0, 0, 0x20000, 10, phase, 0, false, [], 0⟩
theorem witness_aredx_full : lowestFree 4 ([(0, someColl 0), (1, someColl 0), (2, someColl 0), (3, someColl 0)].map (·.1)) = none := by decide
theorem witness_colwt : (let s := seqAt [(1, 0x100000000), (2, 7)] .none fun k => { k with colls := [(0, someColl 4), (1, someColl 2)] }
    AMap.find? (s.core 0).colls 0 = some (someColl 4) ∧ (someColl 4).count.toNat = (greg (s.core 0) 1).toNat / 2 ^ 32 ∧ fld (greg (s.core 0) 1).toNat 31 2 = 0 ∧
    AMap.find? (s.core 0).colls ((greg (s.core 0) 2).toNat % 4) = none) := by decide
/-- A core whose frame 0 (class H112) has contributed and awaits member 1's image. -/
def collState (img : List Byte) : State :=
  { ganged (paged (cpu fun k => withMx (fun m => { m with frames := [(0, Frame.blank .h112 .settled)] }) { k with colls := [(0, someColl 2)] })) with
      cur := .ev (.bytes [0, 0, 1, 0, 0, 0] img) }
theorem witness_image : (let b := (Frame.blank .h112 .settled).image
    let s := collState b
    let k := s.core 0
    collSelf s (someColl 2) = ([0, 1], 0) ∧ s.cores.map (·.1) = [0] ∧ s.images = [] ∧
    (match reach s 0 .virt (0x20000 + (someColl 2).size k) b.length true with | .ok _ => true | _ => false) = true ∧
    (match imageFrames (((someColl 2).frames k).map (·.cls)) b with | .ok r => sameShape ((someColl 2).frames k) r | .error _ => false) = true) := by decide +kernel
theorem witness_image_waits : (cpu id).cores.all (fun p => p.2.colls.isEmpty) = true := by decide
theorem witness_collTimeout : (let x := { someColl 3 with deadline := 5 }
    let s := ev (cpu fun k => { k with colls := [(0, x)] }) [0, 0, 1, 5]
    AMap.find? (s.core 0).colls 0 = some x ∧ x.count.toNat = 1 ∧ x.deadline = 5 ∧ x.phase ≠ 4 ∧ x.phase ≠ 0) := by decide
/-- The state whose collective times out: its image has not come, though the path is there. -/
def timedOut : State :=
  { ev (ganged (cpu fun k => { k with colls := [(0, { someColl 2 with deadline := 5 })] })) [0, 0, 1, 5] with
      routes := [(1, 0x9000000000000000)], ports := [(0, { Port.reset with state := .up })] }
theorem witness_collStep : stepColl timedOut 0 0 = timedOut := by decide +kernel
theorem witness_management : fwGood State.reset State.reset.fwActive = true ∧ ((cpu id).port 0).state ≠ .failed ∧
    ({ cpu id with ports := [(0, { Port.reset with state := .failed })] }.port 0).state = .failed := by decide

/-- An entry whose image at 0x20000 is decoded for launch 0. -/
def someEntry : Entry := ⟨.decoding, 0, 0x20000, 0, [0], 0, none⟩
/-- Launch 0, placed and waiting for it. -/
def waiting : Launch := { fetchLaunch with recd := someRec, state := .loading, started := false }
/-- The state at the end of decoding; the image in memory as given. -/
def decoding (img : List Host.Cell) (pages : Bool) : State :=
  { ev (cpu id) [0] with launches := [(0, waiting)], entries := [(0, someEntry)], ctxs := [(0, someCtx)], mem := (if pages then tables else []) ++ img }
/-- A least image: its magic, its version. -/
def leastImage : List Host.Cell := [(0x20000, 1), (0x20001, 0x7C), (0x20002, 0xAB), (0x20004, 1)]
theorem witness_decode : (match loadImage (decoding leastImage true) someEntry (some someRec) with | .ok (im, _) => waiting.fits im | .error _ => false) = true ∧
    (match loadImage (decoding [] true) someEntry (some someRec) with | .ok _ => false | .error b => b.stall.isNone) = true ∧
    (match loadImage (decoding [] false) someEntry (some someRec) with | .ok _ => false | .error b => b.stall.isSome) = true := by decide +kernel
/-- A least image decoded. -/
def someImage : Image := ⟨1, 1, false, false, 0, [], [], [], [], [], [], [], 128⟩
/-- The state in which launch 0 stands as l, its image there, and an event about it comes. -/
def launchAt (l : Launch) (a : List Nat) : State :=
  { ev (cpu id) a with launches := [(0, l)], entries := [(0, { someEntry with state := .inUse, img := some someImage })] }
theorem launchEvent_of (l : Launch) (a : List Nat) : LaunchEvent (launchAt l (0 :: a)) (0 :: a) 0 l := ⟨rfl, rfl, rfl⟩
theorem witness_loads_launch : (launchAt waiting [0]).imageOf waiting = some someImage ∧ waiting.gang = none ∧ waiting.snapOn 8 = false ∧ waiting.started = false ∧ waiting.state = .loading := by decide
theorem witness_restore : restoreBad (launchAt { waiting with started := true, rows := 0 } [0]) { waiting with started := true, rows := 0 } 0 0 = none := by decide
theorem witness_stop : ((launchAt fetchLaunch [0, 0]).core 0).launch = some 0 ∧ fetchLaunch.toStop = [] := by decide
theorem witness_cuts : fetchLaunch.snapOn 8 = false ∧ { fetchLaunch with snapcfg := [(0, 0x101)] }.snapOn 8 = true ∧ fetchLaunch.cutDue 8 = none ∧
    ({ fetchLaunch with snapcfg := [(0, 0x101)] }.cutDue 8).isSome = true ∧ fetchLaunch.rollbacks < 2 ∧ (cpu id).launchOf 0 = some (0, fetchLaunch) ∧ (cpu id).dies.all (·.2.tlb.isEmpty) = true := by
  decide +kernel
theorem witness_sweep : fetchLaunch.gstate ≠ .released ∧ fetchLaunch.gstate ≠ .reserved ∧
    (let s := launchAt fetchLaunch [0]; (fetchLaunch.cores.all fun c => coreEmpty s c && !activeSince (s.core c) (s.now - fetchLaunch.sweepTime)) = false) := by decide
theorem witness_sweep_quiet : (let l := { fetchLaunch with state := .gating, gstate := .gated }
    let s := { launchAt l [0] with now := 5000, cores := [(0, { Core.idle with launch := some 0, gated := true, seq := { Core.idle.seq with wait := .until (2 ^ 64) 3 } })] }
    (l.cores.all fun c => coreEmpty s c && !activeSince (s.core c) (s.now - l.sweepTime)) = true ∧ (s.core 0).seq.wait = .until (2 ^ 64) 3) := by decide +kernel
theorem witness_watchdog : (let s := { launchAt fetchLaunch [0] with cores := [(0, { fetchCore Core.idle with bufs := [(2, List.replicate 4 ⟨5, none, [], false, 0⟩)] })] }
    let u := s.modLaunch 0 fun x => { x with stalled := 0 }
    (fetchLaunch.cores.find? fun c => (countedWait u c).isSome) = some 0 ∧ (u.launchOf 0).isSome = true) := by decide
/-- Launch 0 as a member's share of gang 0, round 0, which has posted READY (1) or GOes (2). -/
def gangLaunch (st : Nat) : Launch := { waiting with gang := some ⟨0, 0, 5, st, 9⟩ }
/-- Its state at a package cycle count. -/
def gangAt (n : BitVec 64) (posts : List (Nat × Nat × Nat)) (a : List Nat) : State :=
  { ganged (launchAt (gangLaunch 1) a) with count := n, gangPosts := posts }
theorem witness_gangs : (let s := gangAt 3 [(0, 0, 0)] [0, 0, 1]
    gangLaunches s 0 0 = [(0, gangLaunch 1)] ∧ (0, 0, 1) ∉ s.gangPosts ∧ allPosted s 0 0 = false ∧ s.count.toNat < 5) ∧
    (let s := gangAt 7 [(0, 0, 0)] [0, 0, 1]
     allPosted { s with gangPosts := s.gangPosts ++ [(0, 0, 1)] } 0 0 = true ∧ 5 ≤ s.count.toNat ∧ s.count.toNat ≤ 5 + gangGrace (gangDesc s 0)) ∧
    (let s := gangAt 40000 [] [0, 0, 0, 1]; 5 + gangGrace (gangDesc s 0) < s.count.toNat ∧ allPosted s 0 0 = false) := by decide +kernel
theorem witness_gangStart : (gangLaunch 2).gang = some ⟨0, 0, 5, 2, 9⟩ ∧ (gangLaunch 1).state = .loading ∧ (3 : BitVec 64).toNat < 9 := by decide
theorem witness_gangRetry : ({ Queue.reset with skip := 2 ^ 62 }).round = 0 ∧ Queue.reset.skip ≠ 2 ^ 62 := by decide

/-! ## Links -/

/-- A package whose port 0 leads to package 1, the port as given. -/
def linked (k : Port) : State := { cpu id with ports := [(0, k)], topo := { (cpu id).topo with ports := [(0, 1)] } }
/-- A port in a state. -/
def portAt (st : PState) : Port := { Port.reset with state := st, since := 3 }
/-- A flit that ends a message for a package. -/
def someFlit (dpkg : Nat) (about : List Nat) : Flit := { (⟨0, 0, 0, true, 1, dpkg, 0, 0, true, [], 0, 0, 0, about, 0, 0⟩ : Flit) with vc := 0 }
theorem witness_ports : listed (linked (portAt .down)) 0 = true ∧ ([PState.down, .training, .attesting, .up, .retraining, .failed].all fun st =>
    ((linked (portAt st)).port 0).state == st && ((linked (portAt st)).port 0).since == 3 && ((linked (portAt st)).port 0).replay.isEmpty) = true ∧
    listed (linked (portAt .down)) 1 = false ∧ (recentRetrains (linked (portAt .up)) (portAt .up)).length < 3 ∧
    3 ≤ (recentRetrains (linked (portAt .up)) { portAt .up with retrains := [1, 2, 3] }).length := by decide
theorem witness_flits : (let s := linked { portAt .up with rxSeq := 3, replay := [] }
    (s.port 0).state = .up ∧ (s.port 0).rxSeq = 3 ∧ s.self = 0 ∧ (s.port 0).naked = false ∧
    (someFlit 0 [1, 2, 0, 64, 8]).kind = 0 ∧ (someFlit 1 []).dpkg ≠ s.self ∧ (someFlit 1 []).hops < 8 ∧ 8 ≤ { someFlit 1 [] with hops := 8 }.hops ∧
    { someFlit 0 [3, 1, 2] with fseq := 3 }.fseq = (s.port 0).rxSeq ∧ (someFlit 0 []).fseq ≠ (s.port 0).rxSeq) := by decide
theorem witness_acks : (let l := [{ someFlit 1 [] with fseq := 4 }, { someFlit 1 [] with fseq := 5 }]
    let s := linked { portAt .up with replay := l, lastAck := 6 }
    retired (s.port 0).replay (BitVec.ofNat 12 4) = 1 ∧ retired (s.port 0).replay 5 = 2 ∧ retired (s.port 0).replay (BitVec.ofNat 12 4 - 1) = 0 ∧
    (s.port 0).replay ≠ [] ∧ (s.port 0).tries < 7 ∧ (s.port 0).lastAck = 6 ∧
    7 ≤ { s.port 0 with tries := 7 }.tries ∧ retired (s.port 0).replay 4095 = 0) := by decide
theorem witness_time_flits : (let s := linked { portAt .up with hops := 3 }
    let away := { s with topo := { s.topo with master := 1 } }
    timeRef s = none ∧ timeRef away = some 0 ∧ timeRef (away.modPort 0 fun k => { k with hops := min 15 (1 + 1) }) = some 0 ∧
    s.count = 0 ∧ ({ away with timeSet := true }).timeSet = true ∧ away.timeSet = false) := by decide
theorem witness_evidence : (let s := linked (portAt .attesting)
    (s.port 0).state = .attesting ∧ s.topo.ports.contains (0, 1) = true ∧ s.topo.ports.contains (0, 2) = false) := by decide
/-- A package whose hub 0 lets package 1 read and write all of memory. -/
def shared (dw0 : DWord) : State := { cpu id with access := [(0x4000003000000, ⟨dw0, 0, 0xFFFF, 0x100⟩)] }
theorem witness_peer : (let s := shared 0xE0000000FFFF3001
    s.peerResp = [] ∧ s.poison = [] ∧ accessEntry s 0x4000003000000 0x3001 0x40 = some ⟨0xE0000000FFFF3001, 0, 0xFFFF, 0x100⟩ ∧
    accessEntry s 0x4000003000000 0x3002 0x40 = none ∧ (accessEntry (shared 0x80000000FFFF3001) 0x4000003000000 0x3001 0x40).map (·.dw0.getLsbD 62) = some false ∧
    (memRegion s 0x140).isSome = true ∧ (memRegion s (2 ^ 55)).isNone = true ∧ (memRegion s (2 ^ 50)).isNone = true) := by decide
theorem witness_peer_again : (([(1, 2, [0])] : List (Nat × Nat × List Byte)).find? fun x => x.1 == 1 && x.2.1 == 2) = some (1, 2, [0]) := by decide

/-! ## The machine as a whole -/

/-- Reset with an instruction placed as the first (log 21). -/
def fresh (nbits w : Nat) : State := State.reset.withFetchWord nbits w
/-- Whether party p is offered its issue. -/
def offeredB (s : State) (p : Nat) : Bool :=
  s.agenda.isEmpty && s.powered && decide (s.now < s.settledAt) && decide (s.offered ≤ lateMark) && (nextParty s == some p)
theorem offered_of {s : State} {p : Nat} (h : offeredB s p = true) : Offered s p := by
  simp only [offeredB, Bool.and_eq_true, decide_eq_true_eq, beq_iff_eq, List.isEmpty_iff] at h
  obtain ⟨⟨⟨⟨h1, h2⟩, h3⟩, h4⟩, h5⟩ := h
  exact ⟨fun k r i a hd => by obtain ⟨⟨t, ht⟩, -, -⟩ := hd; simp [h1] at ht, h2, h3, h4, h5⟩
theorem witness_offered_seq : (let s := fresh 32 0x0318C1FB
    offeredB s 0 = true ∧ (s.core 0).issues s.now = true ∧ fetchWords (s.core 0).prog (s.core 0).seq.pc = some (0x0318C1FB, 0) ∧
    (s.core 0).progPad.contains ((s.core 0).seq.pc / 4) = false) := by decide
theorem witness_offered_none : decodeSeq 0xFF000000 0 = none ∧ fetchWords [] 0 = none := by decide
theorem witness_offered_strm : (let s := fresh 32 0xC9110000
    offeredB s 1 = true ∧ (s.core 0).strm.running = true ∧ (s.core 0).stopped = false ∧ (s.core 0).gated = false ∧ (s.core 0).strm.next ≤ s.now ∧
    fetchWords (s.core 0).sprog (s.core 0).strm.pc = some (0xC9110000, 0) ∧ (s.core 0).sprogPad = []) := by decide
theorem witness_offered_node : (let s := fresh 32 0x42450F00
    offeredB s 11 = true ∧ AMap.find? (s.core 0).snips 9 = none ∧ (s.core 0).fires s.now = true ∧ isDet s 0 = true) := by decide
theorem witness_offered_snip : (let s := fresh 32 0x30000000
    offeredB s 11 = true ∧ ((AMap.find? (s.core 0).snips 9).bind fun r => AMap.find? (s.core 0).nodes (nkey r.cctx 9 r.pc)).isSome = true) := by decide
theorem witness_mainSideOff : MainSideOff { State.reset with powered := false, fwMin := 9 } :=
  ⟨rfl, by decide, by intro e he; exact absurd he List.not_mem_nil⟩
theorem witness_event_due : ({ State.reset with agenda := [(0, .timeFlitSend, .nums [])] } : State).agenda = (0, .timeFlitSend, .nums []) :: [] := rfl

/-! ## Further clauses of those statements -/

/-- The state of an operation with vector operands, its literal and its core as given. -/
def vec (c : NF → Instr) (f : NF) (w : Word) (g : Core → Core) : State := nodeWith (c f) (fun k => g (lit w k))
/-- Whether the loader accepts it and it stands ready there. -/
def vecStands (c : NF → Instr) (f : NF) (w : Word) (g : Core → Core) : Bool :=
  nodeOk (c f) f w && readyB (vec c f w g) (c f) (fire (vec c f w g)) && (fire (vec c f w g)).isVec && !(fire (vec c f w g)).e

theorem witness_conversion_vectors :
    ([(Instr.cvtf, 0x57), (.cvte, 0x27), (.cvtfi, 0xA7), (.cvtif, 0x7A)].all fun p =>
      vecStands p.1 vone (BitVec.ofNat 32 p.2) id && (fire (vec p.1 vone (BitVec.ofNat 32 p.2) id)).a.side.isNone &&
      vecStands p.1 vone (BitVec.ofNat 32 p.2) (spoilt false true) && (fire (vec p.1 vone (BitVec.ofNat 32 p.2) (spoilt false true))).a.side.isSome) = true := by decide
theorem witness_cvtq :
    (let q := fire (vec .cvtq vtwo 0x47 (toks fun t => { t with data := List.replicate 16 0x3F800000 }))
     let xs := cvtqInputs q
     vecStands .cvtq vtwo 0x47 (toks fun t => { t with data := List.replicate 16 0x3F800000 }) = true ∧ q.x = false ∧ sourceType q = 7 ∧ xs.any (· == .nan) = false ∧
       (xs.foldl (fun m v => maxMag m (absMag v)) (0, 1)).1 ≠ 0) ∧
    (let q := fire (vec .cvtq vtwo 0x47 (toks fun t => { t with data := List.replicate 16 0 }))
     ((cvtqInputs q).foldl (fun m v => maxMag m (absMag v)) (0, 1)).1 = 0) ∧
    (let q := fire (vec .cvtq vtwo 0x47 (toks fun t => { t with data := List.replicate 16 0x7FC00000 }))
     (cvtqInputs q).any (· == .nan) = true) ∧
    vecStands .cvtq vone 0x74 id = true ∧ sourceType (fire (vec .cvtq vone 0x74 id)) = 4 := by decide +kernel
theorem witness_call_error : (let s := alt .call (spoilt true false)
    readyB s (.call (nf .call)) (fire s) = true ∧ (fire s).e = true ∧ tagIsFree (s.core 0) 0 1 = true) ∧
    (let s := alt .done fun k => toks (fun t => { t with l := true, e := true }) k
     (fire s).e = true ∧ (fire s).l = true ∧ readyB s (.done (nf .done)) (fire s) = true) := by decide

theorem witness_memory_ports : ([Instr.ldx, .stx, .fence, .xfence, .cntadd, .cbput, .cbget, .cbwait, .cbroom, .prft, .wbl].all fun c =>
    portFree (node (c (nf c))) 0 9) = true := by decide
theorem witness_drain_performs : MayPerform (performing (someAccess .drain .phys 0x1000 4 [1, 2, 3, 4])) 3 (someAccess .drain .phys 0x1000 4 [1, 2, 3, 4]) :=
  mayPerform_of (by decide)
theorem witness_return_waits : (let n := nkey 0 9 0
    let s := cpu fun k => { k with matchSt := [(9, [⟨0, ⟨1, 0⟩, some (fetchToken 0), none⟩])] }
    n < 16384 ∧ offer ((s.core 0).store (n / 4096) (n / 64 % 64)) (n % 64) ((s.core 0).returned n false (fetchToken 0)) false = none) := by decide
theorem witness_walk_migrating : (let a := someAccess .load .virt 0x12340 4 []
    let s := { paged (performing a) with mem := leafTables 5 }
    (transPieces s 0 (s.ctxOf 0) a.kind.acc a.todo).toOption.map (fun r => r.1.any fun p => fld p.2.leaf 61 59 == 5) = some true) := by decide
theorem witness_streamAsks :
    (let s := strm fun k => { k with handles := [(1, ⟨true, 0, 0, 3, 0, 0, 0, 0⟩)], strm := { k.strm with ask := some (.put 1 2) } }
     (s.core 0).strm.ask = some (.put 1 2) ∧ ((s.core 0).handle 1).fill + 2 ≤ ((s.core 0).handle 1).cnt + 1 ∧ ((s.core 0).handle 1).cnt + 1 < ((s.core 0).handle 1).fill + 5 ∧
       ((s.core 0).handle 1).fill < 1) ∧
    (let s := strm fun k => { k with handles := [(1, ⟨true, 0, 0, 3, 0, 2, 2, 0⟩)], strm := { k.strm with ask := some (.get 1 2) } }
     (s.core 0).strm.ask = some (.get 1 2) ∧ 2 ≤ ((s.core 0).handle 1).fill) ∧
    (let k := (strm fun k => { k with handles := [(1, ⟨true, 0, 0, 3, 0, 0, 0, 0⟩)] }).core 0
     (k.handle 1).v = true ∧ (k.handle 1).fill = 0) ∧ handleWaited (strm fun k => { k with handles := [(1, ⟨true, 0, 0, 3, 0, 0, 0, 0⟩)] }) 0 1 = false ∧
    ((strm (chans [(1, someChan .index 1)])).core 0 |>.chan 1).state = .index ∧ ((strm (chans [(1, someChan .index 1)])).core 0 |>.chan 1).dir = 1 := by decide
theorem witness_fence_waits : seqB (seqAt [] (.fence [3] none) id) [] = true ∧ allPerformed (seqAt [] (.fence [3] none) id) 0 [3] = true ∧
    cutOf (seqAt [] (.fence [3] none) id) 0 true 5 = none ∧ allPerformed { seqAt [] (.fence [3] none) id with accs := [(3, someAccess .store (.scratch 0) 8 8 [])] } 0 [3] = false := by decide
theorem witness_clear : Clear (seqAt [(1, 3)] .none id) 0 5 ∧ Fresh ((seqAt [(1, 3)] .none id).core 0) ∧
    earlier { seqAt [] .none id with accs := [(3, someAccess .store (.scratch 0) 8 8 [])] } 0 5 ≠ [] := ⟨⟨by decide, by decide⟩, by unfold Fresh; decide, by decide⟩
theorem witness_fltrd_write : (ringed.ctxWrite 0 (0x4000 + 8) (toBytes 8 3)).toOption.isSome = true := by decide
theorem witness_ends_level : (let l := { fetchLaunch with ending := some (1, true, []) }
    AMap.find? (launchAt l [0]).launches 0 = some l ∧ l.state = .running) := by decide
theorem witness_later : (let s := paged State.reset
    laterRecs { s with faultLog := s.faultLog ++ [[]] } 0 0x4000 6 0 0 0 = 0) := by decide
theorem witness_dueAt : DueAt { State.reset with agenda := [(0, .timeFlitSend, .nums [])] } 0
    ((eventRank { State.reset with agenda := [(0, .timeFlitSend, .nums [])] } .timeFlitSend (.nums [])).getD 0) .timeFlitSend (.nums []) :=
  ⟨⟨0, rfl⟩, fun j h e he => by
    have : j = 0 := by omega
    subst this; simp at he; subst he; decide, by decide⟩
theorem witness_arrives : Arrives (arriving (someMsg 0) id) .dispatchArrival 3 (someMsg 0) ∧ Arrives (arriving (someMsg 1) id) .resultArrival 3 (someMsg 1) :=
  ⟨⟨rfl, by decide, by decide, by decide⟩, ⟨rfl, by decide, by decide, by decide⟩⟩
theorem witness_rxPort : rxPort (linked { portAt .up with rxSeq := 3 }) 0 7 = 0 ∧ (someFlit 0 [1, 2, 0, 64, 8]).dpkg = (linked (portAt .up)).self := by decide
theorem witness_queue_saved : ({ someQueue false .suspended 0 with saved := true }).saved = true ∧ (someQueue false .suspended 0).saved = false ∧
    (someQueue false .suspended 0).tail = (someQueue false .suspended 0).head := by decide
theorem witness_frozen : (let l := { fetchLaunch with state := .freezing }
    l.snapOn 8 = false ∧ l.gstate ≠ .released ∧ (cpu id).ctxs.filter (fun x => x.2.state != .free) = []) := by decide
theorem witness_area_bad : areaBad [] [[3]] false = some 0x10000 := by decide +kernel
theorem witness_frame_memory :
    (let s := queueOf 0x96 .settled
     let e := someFq 0x96 0 [0x40]
     let img := ((s.core 0).framesOf 0 1).flatMap (·.image)
     (fqPlace s 0 e img.length).toOption = some (.scratch 0, 0x40) ∧ (match reach s 0 (.scratch 0) 0x40 img.length true with | .ok _ => true | _ => false) = true) ∧
    (let b := (Frame.blank .h112 .settled).image
     (framesIn .h112 1 b).toOption.map (·.length) = some 1 ∧ (framesIn .h112 1 []).toOption.isNone = true ∧ (framesIn .n80 1 b).toOption.isNone = true) ∧
    (let s := queueOf 0x98 .settled
     let k := s.core 0
     (addFrames k 0 [Frame.blank .h112 .settled]).toOption.isSome = true ∧ (addFrames k 0 [Frame.blank .h112 .empty]).toOption.isNone = true) := by decide +kernel
theorem witness_frame_reads :
    (let k := (queueOf 0x94 .empty).core 0; (k.frame 0).void = true) ∧
    (let k := (queueOf 0x94 .settled).core 0; (k.frame 0).void = false ∧ (k.frame 0).state ≠ .accumulating ∧ busyFrames k 0 1 = false) ∧
    (let s := queueOf 0x95 .settled
     let k := s.core 0
     let n := k.span 0 16 16
     n ≤ 8 ∧ oneClass (k.framesOf 0 n) = true ∧ firstOvf k 0 n = none ∧ busyFrames k 0 n = false ∧ (∀ f ∈ k.framesOf 0 n, f.void = false ∧ f.state ≠ .accumulating)) := by decide +kernel

/-! ## Clauses of the second review -/

theorem witness_fltrd_reads : (let s := ringed
    let l := [(0x4000, 16)]
    let b := takeBytes (touchUnit (acquireFar s 0) 0 .seq l false) 0 l
    reach s 0 .virt (s.ctx 0).ring.1 16 false = .ok l ∧ seqBehind s 0 .virt 0x4000 16 l = false ∧ (ofBytes (b.take 8), ofBytes ((b.drop 8).take 8)) = (5, 1) ∧
    reach s 0 .virt 0x4008 8 true = .ok [(0x4008, 8)] ∧ seqBehind s 0 .virt 0x4008 8 [(0x4008, 8)] = false ∧
    reach s 0 .virt 0x40C0 8 false = .ok [(0x40C0, 8)] ∧ seqBehind s 0 .virt 0x40C0 8 [(0x40C0, 8)] = false) := by decide +kernel
theorem witness_release_free : seqRelease ringed 0 (pathsOf 127) 5 = none ∧ earlier ringed 0 5 = [] ∧
    bufferedStores (seqAt [] .none id) 0 (pathsOf 127) = [] ∧ outstanding (seqAt [] .none id) 0 (pathsOf 127) 0 = [] := by decide +kernel
theorem witness_descr_read : seqBehind (descr [] id) 0 (.scratch 0) 0x1000 64 [(2 ^ 52 + 0x1000, 64)] = false := by decide
theorem witness_row_leaves : (let m := { someMsg 0 with left := false }
    let s := arriving m id; AMap.find? s.msgs 3 = some m ∧ m.dstPkg = s.topo.pkg.toNat) := by decide
theorem witness_group_read : (let k := { binned { someBin .firing with groups := [⟨0, 16, 0, 0, false, none⟩] } id Core.idle with handles := [(0, ⟨true, 0, 31, 15, 0, 0, 16, 0⟩)] }
    (someBin .firing).ksteps ≤ (k.handle (someBin .firing).ha).fill) := by decide
theorem witness_enq_parts : (let a := { someAccess .load .virt 0x12340 128 [] with src := .seq 65, path := .seq, stage := .performed, got := List.replicate 128 0, merged := [(0x4000, 0x123C0, 0, 0)] }
    let s := { ev (seqAt [] .answer id) [5, 0, 0x12340, 1] with accs := [(3, a)], queues := [(5, someQueue true .empty 0)] }
    AMap.find? s.accs 3 = some a ∧ a.kind = .load ∧ enqCopying s 0 = false ∧ enqCopying { s with accs := [(3, { a with stage := .sent })] } 0 = true ∧
    enqUnder s 5 = false ∧ (s.queue 5).state ≠ .error ∧ (s.queue 5).used ≠ 2 ^ fld (s.queue 5).base.toNat 4 0) := by decide +kernel
theorem witness_page_waits : (let o := { someOp 0x42 0 0 with half := 0, victims := [3] }
    allSettled { seqAt [] .none id with ops := [(3, o)] } o.victims = true ∧
    allSettled { seqAt [] .none id with ops := [(3, o)], accs := [(3, someAccess .store (.scratch 0) 8 8 [])] } o.victims = false) := by decide
theorem witness_hold_ends : ([false, true].all fun dem =>
    let b := { someBank dem with jobs := [], running := some (⟨9, dem, false, 0, 1, 0⟩, 0), held := 8 }
    let s := ev ((cpu id).modDie 0 fun d => { d with banks := [(3, b)] }) [0, 3]
    decide (s.bankAt 0 3 = b) && decide (b.held ≤ s.now) && ((AMap.find? b.slots 0).isSome == dem)) = true := by decide
theorem witness_pager_asks : (stalledAt (stalled [(1, 0, 0x20000)]) 0 2).map (·.2.asks) = some [(1, 0, 0x20000)] ∧
    (stalledAt (stalled [(0, 7, 0x12340)]) 0 2).map (fun x => (x.2.asks, x.2.ids)) = some ([(0, 7, 0x12340)], []) := by decide
theorem witness_yield_serves : (let l := { fetchLaunch with yields := true }
    AMap.find? (launchAt l [0]).launches 0 = some l ∧ l.state = .running ∧ (launchAt l [0]).launches.length = 1) := by decide
theorem witness_image_stalls : (let s := decoding [] false
    (s.die 4).stalls = [] ∧ (match loadImage s someEntry (some someRec) with | .error b => b.stall.any (fun x => x.1 != 5) | _ => false) = true) := by decide +kernel
theorem witness_not_ending : endingReach (launchAt waiting [0]) = [] ∧
    (endingReach (launchAt { fetchLaunch with ending := some (1, true, []) } [0])).contains 0 = true ∧ endsNow (seqAt [] .none id) 0 = false := by decide
theorem witness_restored_gang : (let l := { gangLaunch 0 with started := true, rows := 0 }
    restoreBad (launchAt l [0]) l 0 0 = none ∧ l.gang.map (·.st) = some 0) := by decide +kernel
/-- A queue whose head names gang 0, its round 1 due at 5. -/
def gangQueue : Queue := { Queue.reset with recs := [[0x01010040, 0x20000]], round := 1, deadline := 5 }
theorem witness_gang_rounds : (let s := { gangAt 9 [] [0, 1, 0, 0, 0] with launches := [], queues := [(0, gangQueue)] }
    recGang (gangQueue.recs.getD 0 []) = true ∧ gangQueue.names 0 = true ∧ gangQueue.gangRound = 1 ∧ gangDue s 0 1 = some 5 ∧ gangBegun s 0 1 = false ∧
    s.count.toNat < 5 + gangGrace (gangDesc s 0) ∧ 5 + gangGrace (gangDesc s 0) ≤ { s with count := 40000 }.count.toNat ∧
    gangLaunches s 0 1 = [] ∧ { gangQueue with skip := 2 ^ 62 }.gangRound = 2 ∧ coordinator (gangDesc s 0) = s.topo.pkg.toNat) := by decide +kernel
theorem witness_gang_abandoned : (gangLaunch 1).started = false ∧ { gangLaunch 1 with started := true }.started = true ∧
    ({ gangLaunch 0 with gang := some ⟨0, 0, 0, 0, 0⟩ }).gang.map (fun g : Gang => (g.st, g.deadline)) = some (0, 0) := by decide
theorem witness_flit_parts : (let f := someFlit 0 [3, 0, 1]
    let s := linked { portAt .up with rxSeq := 0 }
    rxPort s 0 (f.vc + 4 * f.spkg + 1024 * f.src + 2 ^ 21 * f.dst) = 0 ∧ 240 * f.idx ≤ (AMap.get (s.port 0).rx (f.vc + 4 * f.spkg + 1024 * f.src + 2 ^ 21 * f.dst) []).length ∧
    f.about = [3, 0, 1]) := by decide
/-- Package 1's request to read 8 bytes of the window of hub 0. -/
def someReq (phase : Nat) : PeerReq := ⟨0, 1, 2, 0x140, 0, 8, [], phase⟩
theorem witness_peer_phases : (let s := { shared 0xE0000000FFFF3001 with cur := .ev (.peer (someReq 1)) }
    peerUnder s (someReq 0) = false ∧ peerUnder { s with agenda := [(9, .peerRequest, .peer (someReq 1))] } (someReq 0) = true ∧
    bankHeld s 0x140 = false ∧ peerLevel s (someReq 1) 0x140 / 2 ≠ 0 ∧
    bankHeld { s.modDie (homeDie 0x140) (fun d => { d with banks := [((bankRow 0x140).1, { Bank.reset with held := 60 })] }) with now := 8 } 0x140 = true) := by decide +kernel
theorem witness_rounding_drain : (let s := alt .mxdr (fun k => withMx (fun m => { m with frames := [(0, Frame.blank .n80 .settled)] })
      (lit 0x150000 (dataA [0] (tokB (fun t => { t with data := [0, 64] }) k))))
    let q := fire s
    readyB s (.mxdr (nf .mxdr)) q = true ∧ s.rnd 0 (fld q.lit.toNat 18 16) = 5 ∧ drainCause (s.core 0) q.lit.toNat (q.b.bind (·.tok)) (q.a.lane 0).toNat = none) := by decide +kernel
theorem witness_control_completes :
    (let s := alt .ret fun k => { k with tags := [(1, (⟨0, 0⟩, 0, 0))] }; let q := fire s
     q.x = false ∧ canReturn (s.core 0) 0 0 0 ⟨[q.a.lane 0], ⟨0, fixItag 0⟩, none, q.m, q.l, q.e⟩ false = true) ∧
    (AMap.find? (atEnd.core 0).snips 9).map (fun r => decide (r.endAt ≤ atEnd.now)) = some true ∧
    (let k := (seqAt [] .none fun k => { k with forked := true, loaded := 1 }).core 0; k.loaded ≠ 0 ∧ k.seq.wait = .none) ∧
    (seqB (seqAt [] (.poll 8 (some 1)) id) [1, 2] && seqB (seqAt [] (.armed 7) fun k => { k with forked := true }) [1] &&
      seqB (seqAt [(1, 5)] .none id) [1, 2] && seqB (seqAt [] (.fence [3] none) id) []) = true := by decide
theorem witness_barrier_completes :
    (let s := { seqAt [(1, 3), (2, 7)] .none id with bars := [(3, someBar 1 [])] }
     barWord 3 = true ∧ foreign s 0 3 = false ∧ (s.bar 3).releases 7 = false ∧ (s.bar 3).releases 6 = true ∧ arrivalOk s 0 3 = true ∧ (s.bar 3).waiters = []) ∧
    (∀ op ∈ [0x31], OpArrives (opState (someOp op 3 2)) 3 (someOp op 3 2) barrierOps) ∧
    (let b := { someBar 1 [] with scope := 2 }; 0 ∉ b.arrives ∧ (let s := ganged (cpu id); (barMembers s b).all ([0] : List Nat).contains = false)) ∧
    (let b := { someBar 4 [] with scope := 2 }; b.count = b.expect ∧ b.queue = [] ∧ (cpu id).ops = []) ∧
    (let s := ev (seqAt [] (.trap 3 none) id) [0]; (s.core 0).seq.wait = .trap 3 none ∧ (s.core 0).stopped = false ∧ (s.core 0).gated = false) ∧
    (let s := ev (seqAt [] .answer id) [0, 3, 7, 0, 7]; outstanding s 0 [.seq] ((s.bar 3).scope + 3) = []) :=
  ⟨by decide, fun op h => opArrives_of barrierOps 3 (by decide) op (by revert h; revert op; decide), ⟨by decide, by decide +kernel⟩, by decide, by decide, by decide⟩

/-! ## Words of the spec's examples, and words the loader refuses -/

theorem test_words_node :
    decodeNode 0x1B398F02 = some (.cmp ⟨3, 9, 8, 15, 0, 2⟩) ∧
    decodeNode 0x1A745F00 = some (.lea ⟨7, 4, 5, 15, 0, 0⟩) ∧
    decodeNode 0x1D092601 = some (.tst ⟨0, 9, 2, 6, 0, 1⟩) ∧
    decodeNode 0x27495104 = some (.cmpct ⟨4, 9, 5, 1, 0, 4⟩) ∧
    decodeNode 0x43745F00 = some (.fma ⟨7, 4, 5, 15, 0, 0⟩) ∧
    decodeNode 0x53745F00 = some (.cvtq ⟨7, 4, 5, 15, 0, 0⟩) ∧
    decodeNode 0x703F6F00 = some (.ld ⟨3, 15, 6, 15, 0, 0⟩) ∧
    decodeNode 0x89301200 = some (.cntadd ⟨3, 0, 1, 2, 0, 0⟩) ∧
    decodeNode 0x9030CF00 = some (.mxi ⟨3, 0, 12, 15, 0, 0⟩) ∧
    decodeNode 0x953A1F00 = some (.mxdr ⟨3, 10, 1, 15, 0, 0⟩) ∧
    decodeNode 0xA0746F00 = some (.cfw ⟨7, 4, 6, 15, 0, 0⟩) ∧
    decodeNode 0xA14F6F00 = some (.cfwr ⟨4, 15, 6, 15, 0, 0⟩) ∧
    decodeNode 0xA24F1F00 = some (.stamp ⟨4, 15, 1, 15, 0, 0⟩) ∧
    decodeNode 0x25891F00 = some (.const ⟨8, 9, 1, 15, 0, 0⟩) ∧
    decodeNode 0x26796F01 = some (.filt ⟨7, 9, 6, 15, 0, 1⟩) ∧
    decodeNode 0x26793F00 = some (.filt ⟨7, 9, 3, 15, 0, 0⟩) ∧
    decodeNode 0x5C493F00 = some (.bcast ⟨4, 9, 3, 15, 0, 0⟩) ∧
    decodeNode 0x234F7F00 = some (.copy ⟨4, 15, 7, 15, 0, 0⟩) ∧
    decodeNode 0x78153F00 = some (.amin ⟨1, 5, 3, 15, 0, 0⟩) ∧
    decodeNode 0x1F2F0F00 = some (.mov ⟨2, 15, 0, 15, 0, 0⟩) ∧
    decodeNode 0x01192F00 = some (.add ⟨1, 9, 2, 15, 0, 0⟩) ∧
    decodeNode 0x5F095F00 = some (.lane ⟨0, 9, 5, 15, 0, 0⟩) ∧
    decodeNode 0x71A70F00 = some (.st ⟨10, 7, 0, 15, 0, 0⟩) := by decide
theorem test_words_seq :
    decodeSeq 0x53014003 0 = some (.syswr ⟨0, 5, 0, 3⟩) ∧
    decodeSeq 0x5238000A 0 = some (.sysrd ⟨7, 0, 0, 10⟩) ∧
    decodeSeq 0x50190011 0 = some (.trap ⟨3, 4, 0, 17⟩) ∧
    decodeSeq 0x54100000 0 = some (.marker ⟨2, 0, 0, 0⟩) ∧
    decodeSeq 0x57300008 0 = some (.fltrd ⟨6, 0, 0, 8⟩) ∧
    decodeSeq 0x56000000 0 = some (.halt ⟨0, 0, 0, 0⟩) ∧
    decodeSeq 0x38184400 0 = some (.enq ⟨3, 1, 2, 0⟩) ∧
    decodeSeq 0x3A398000 0 = some (.pqpop ⟨7, 6, 0, 0⟩) ∧
    decodeSeq 0x3D280004 0 = some (.dqsteal ⟨5, 0, 0, 4⟩) ∧
    decodeSeq 0x3E000002 0 = some (.cancel ⟨0, 0, 0, 2⟩) ∧
    decodeSeq 0x3F000004 0 = some (.seqDone ⟨0, 0, 0, 4⟩) ∧
    decodeSeq 0x28214001 0 = some (.seam ⟨4, 5, 0, 1⟩) ∧
    decodeSeq 0x2931C002 0 = some (.guard ⟨6, 7, 0, 2⟩) ∧
    decodeSeq 0x2A180001 0 = some (.grpid ⟨3, 0, 0, 1⟩) ∧
    decodeSeq 0x2B100000 0 = some (.gang ⟨2, 0, 0, 0⟩) ∧
    decodeSeq 0x30090C00 0 = some (.barini ⟨1, 4, 6, 0⟩) ∧
    decodeSeq 0x33190001 0 = some (.baraw ⟨3, 4, 0, 1⟩) ∧
    decodeSeq 0x32298E00 0 = some (.barwt ⟨5, 6, 7, 0⟩) ∧
    decodeSeq 0x35121200 0 = some (.cntaddg ⟨2, 8, 9, 0⟩) ∧
    decodeSeq 0x36520000 0 = some (.cntwz ⟨10, 8, 0, 0⟩) ∧
    decodeSeq 0x37580001 0 = some (.quies ⟨11, 0, 0, 1⟩) := by decide
theorem test_words_seq2 :
    decodeSeq 0x40190001 0 = some (.promote ⟨3, 4, 0, 1⟩) ∧
    decodeSeq 0x41190001 0 = some (.demote ⟨3, 4, 0, 1⟩) ∧
    decodeSeq 0x42010000 0 = some (.tlbinv ⟨0, 4, 0, 0⟩) ∧
    decodeSeq 0x43114000 0 = some (.slways ⟨2, 5, 0, 0⟩) ∧
    decodeSeq 0x44010A01 0 = some (.bnkhint ⟨0, 4, 5, 1⟩) ∧
    decodeSeq 0x45310000 0 = some (.pstat ⟨6, 4, 0, 0⟩) ∧
    decodeSeq 0x4800C800 0 = some (.bincfg ⟨0, 3, 4, 0⟩) ∧
    decodeSeq 0x4901C001 0 = some (.bintrg ⟨0, 7, 0, 1⟩) ∧
    decodeSeq 0x4A124000 0 = some (.binseal ⟨2, 9, 0, 0⟩) ∧
    decodeSeq 0x4C298000 0 = some (.cmbwt ⟨5, 6, 0, 0⟩) ∧
    decodeSeq 0x4E010001 0 = some (.exmap ⟨0, 4, 0, 1⟩) ∧
    decodeSeq 0x58190000 0 = some (.aredx ⟨3, 4, 0, 0⟩) ∧
    decodeSeq 0x5928C000 0 = some (.colwt ⟨5, 3, 0, 0⟩) ∧
    decodeSeq 0x5928C001 0 = some (.colwt ⟨5, 3, 0, 1⟩) ∧
    decodeSeq 0x5A300009 0 = some (.lnkst ⟨6, 0, 0, 9⟩) ∧
    decodeSeq 0x0939C00A 0 = some (.shri ⟨7, 7, 0, 10⟩) ∧
    decodeSeq 0x20000000 0 = some (.fork ⟨0, 0, 0, 0⟩) ∧
    decodeSeq 0x23014001 0 = some (.stage ⟨0, 5, 0, 1⟩) ∧
    decodeSeq 0x25418000 0 = some (.waitev ⟨8, 6, 0, 0⟩) ∧
    decodeSeq 0x22000001 0 = some (.ctx ⟨0, 0, 0, 1⟩) ∧
    decodeSeq 0x21000000 0 = some (.join ⟨0, 0, 0, 0⟩) := by decide
theorem test_words_stream :
    decodeStrm 0xC8114C00 0 = some (.scb ⟨2, 5, 6, 0⟩) ∧
    decodeStrm 0xCA1001FF 0 = some (.cbwaits ⟨2, 0, 0, 511⟩) ∧
    decodeStrm 0xC6080400 0 = some (.scpy ⟨1, 0, 2, 0⟩) ∧
    decodeStrm 0xC9100001 0 = some (.cbputs ⟨2, 0, 0, 1⟩) ∧
    decodeStrm 0xCD18D000 0 = some (.sloop ⟨3, 3, 8, 0⟩) ∧
    decodeStrm 0xCC000000 0 = some (.send ⟨0, 0, 0, 0⟩) ∧
    decodeStrm 0xC0080000 0x40 = some (.sopen ⟨1, 0, 0, 0⟩ 0x40) := by decide
/-- What the loader refuses: each line breaks one check of a word that it accepts otherwise. -/
theorem test_loader_accepts : ([(.add ⟨0, 1, 2, 15, 0, 0⟩, 0), (.ld ⟨3, 15, 6, 15, 0, 0⟩, 0x00230A40), (.cvtq ⟨7, 4, 5, 15, 0, 0⟩, 0x47),
    (.call ⟨0, 15, 2, 15, 4, 0⟩, 7), (.cfwr ⟨4, 15, 6, 15, 0, 0⟩, 0xC3), (.snipEnd ⟨0, 0, 0, 0, 0, 0⟩, 0), (.addi ⟨3, 3, 0, 0x1FB⟩, 0),
    (.seqXfence ⟨0, 3, 16, 0x40⟩, 0), (.scpy ⟨1, 0, 2, 0⟩, 0)] : List (Instr × Word)).all (fun x => WellFormed x.1 x.2) = true := by decide
theorem test_loader_refuses_ports : ([(.add ⟨15, 1, 2, 15, 0, 0⟩, 0), (.abs ⟨0, 1, 2, 15, 0, 0⟩, 0), (.add ⟨0, 1, 9, 15, 0, 0⟩, 0),
    (.add ⟨0, 1, 2, 2, 0, 0⟩, 0), (.count ⟨0, 9, 10, 15, 0, 0⟩, 0), (.sink ⟨0, 15, 2, 15, 0, 0⟩, 0),
    (.merge ⟨1, 1, 2, 15, 0, 0⟩, 0), (.mxi ⟨3, 0, 2, 15, 0, 0⟩, 0)] : List (Instr × Word)).all (fun x => !WellFormed x.1 x.2) = true := by decide
theorem test_loader_refuses_no_port : nodeOk (.add ⟨9, 10, 2, 15, 0, 0⟩) ⟨9, 10, 2, 15, 0, 0⟩ 0 = false ∧ nodeOk (.add ⟨1, 1, 2, 15, 0, 0⟩) ⟨1, 1, 2, 15, 0, 0⟩ 0 = false ∧
    nodeOk (.snipEnd ⟨0, 0, 0, 0, 0, 0⟩) ⟨0, 0, 0, 0, 0, 0⟩ 0 = false := by decide
theorem test_loader_refuses_fields : ([(.add ⟨0, 1, 2, 15, 4, 0⟩, 0), (.add ⟨0, 1, 2, 15, 0, 1⟩, 0), (.fadd ⟨0, 1, 2, 15, 0, 6⟩, 0),
    (.cmp ⟨0, 1, 2, 15, 0, 6⟩, 0), (.ld ⟨3, 15, 6, 15, 0, 0⟩, 0x0000C000), (.cvtq ⟨7, 4, 5, 15, 0, 0⟩, 0x44),
    (.call ⟨0, 15, 2, 15, 4, 0⟩, 0x2000), (.call ⟨0, 15, 2, 15, 0, 0⟩, 7), (.cfwr ⟨4, 15, 6, 15, 0, 0⟩, 0x83),
    (.mxst ⟨0, 15, 2, 15, 0, 0⟩, 1)] : List (Instr × Word)).all (fun x => !WellFormed x.1 x.2) = true := by decide
theorem test_loader_refuses_snippet : ([(.snipEnd ⟨0, 0, 0, 0, 0, 1⟩, 0), (.snipEnd ⟨0, 0, 0, 0, 0, 0⟩, 1), (.fadd ⟨12, 13, 10, 15, 1, 0⟩, 0), (.fadd ⟨12, 14, 10, 15, 0, 0⟩, 0),
    (.fadd ⟨12, 13, 8, 15, 0, 0⟩, 0), (.fadd ⟨12, 13, 10, 15, 0, 0⟩, 1), (.ld ⟨12, 13, 10, 15, 0, 0⟩, 0)] : List (Instr × Word)).all
      (fun x => !WellFormed x.1 x.2) = true := by decide
theorem test_loader_refuses_control : ([(.li ⟨4, 1, 0, 0⟩ 5, 0), (.jmp ⟨1, 0, 0, 0⟩ 5, 0), (.halt ⟨0, 0, 0, 1⟩, 0), (.seqXfence ⟨0, 3, 16, 0⟩, 0),
    (.seqXfence ⟨0, 3, 24, 0x40⟩, 0), (.scpy ⟨1, 0, 3, 0⟩, 0), (.sld ⟨16, 0, 0, 0⟩, 0), (.perform, 0), (.powerOn, 0)] : List (Instr × Word)).all
      (fun x => !WellFormed x.1 x.2) = true := by decide

/-! ## Runs of one step -/

/-- What a step leaves in register g of core 0 and in its pc. -/
def after (r : Res) (g : Nat) : DWord × Nat := match r with | .next t => (greg (t.core 0) g, (t.core 0).seq.pc) | _ => (0, 0)
/-- ADDI g3, g3, −5 placed first: the register and the pc. -/
theorem test_addi_step : after (step (fresh 32 0x0318C1FB)) 3 = (0xFFFFFFFFFFFFFFFB, 4) := by decide +kernel
/-- LI g4, 0x12345 placed first. -/
theorem test_li_step : after (step (fresh 64 0x000123450B200000)) 4 = (0x12345, 8) := by decide +kernel

/-! ## Values of the spec's number examples -/

/-- 464 to e4m3 rounds to 448, 465 to NaN without saturation and to 448 with it (R58, R59). -/
theorem test_e4m3 : roundOnce 2 0 false 0 (f32 0x43E80000) = 0x7E ∧ roundOnce 2 0 false 0 (f32 0x43E88000) = 0x7F ∧
    roundOnce 2 0 true 0 (f32 0x43E88000) = 0x7E := by decide
/-- −3.0 to e5m2 is exact; 61,440 overflows under RNE and does not under RZ. -/
theorem test_e5m2 : roundOnce 3 0 false 0 (f32 0xC0400000) = 0xC2 ∧ roundOnce 3 0 false 0 (f32 0x47700000) = 0x7C ∧
    roundOnce 3 0 true 0 (f32 0x47700000) = 0x7B ∧ roundOnce 3 1 false 0 (f32 0x47700000) = 0x7B := by decide
/-- The shaker's states from 1 (R46). -/
theorem test_shaker : shakerNext 1 = 0x00042021 ∧ shakerNext 0x00042021 = 0x04080601 ∧ shakerNext 0x04080601 = 0x9DCCA8C5 := by decide

end Sys2Proof.Tests
end

section
/-! PROOFS. The Shaker states of a PE (R46-R50): reading them after a change, what a firing leaves of them, and SEED. -/

namespace Sys2Proof.Machine

/-! ## Reading the Shaker states -/

@[simp] theorem State.shaker_setShaker_same (s : State) (c pe : Nat) (sh : List Word) :
    (s.setShaker c pe sh).shaker c pe = sh := by
  simp [State.shaker, State.setShaker]

theorem State.shaker_setShaker_other (s : State) {c d pe p : Nat} (sh : List Word) (h : (d, p) ≠ (c, pe)) :
    (s.setShaker c pe sh).shaker d p = s.shaker d p := by
  unfold State.shaker State.setShaker
  by_cases hd : d = c
  · subst hd
    have hp : p ≠ pe := fun hp => h (by rw [hp])
    simp [AMap.get_put_other _ _ _ hp]
  · rw [State.core_modCore_other _ _ hd]

@[simp] theorem State.setShaker_nodes (s : State) (c d pe : Nat) (sh : List Word) :
    ((s.setShaker c pe sh).core d).nodes = (s.core d).nodes := by
  unfold State.setShaker
  by_cases hd : d = c
  · subst hd; simp
  · rw [State.core_modCore_other _ _ hd]

/-! ## A result leaves the Shaker states as they are -/

theorem Fired.shaker {s t : State} {q : Firing} {lat : Nat} {sends : Sends} {sf : Option (List Word)} {sfe : Bool}
    (h : Fired s t q lat sends sf sfe) (d p : Nat) : t.shaker d p = s.shaker d p := by
  unfold State.shaker
  by_cases hd : d = q.core
  · rw [hd, h.own]
  · rw [h.others d hd]

theorem SnipStepped.shaker {s t : State} {q : Firing} {lat : Nat} {x y : Option Val}
    (h : SnipStepped s t q lat x y) (d p : Nat) : t.shaker d p = s.shaker d p := by
  unfold State.shaker
  by_cases hd : d = q.core
  · rw [hd, h.own]
  · rw [h.others d hd]

theorem Gives.shaker {s t : State} {q : Firing} {lat : Nat} {v : Val}
    (h : Gives s t q lat v) (d p : Nat) : t.shaker d p = s.shaker d p := by
  cases hs : q.snip with
  | false => exact (h.1 hs).shaker d p
  | true => exact (h.2 hs).shaker d p

/-- A ready operation that changes its PE's Shaker states and then sends v gives v from the changed state. -/
theorem finish_setShaker_gives {s : State} {i : Instr} {q : Firing} (h : Ready s i q) (sh : List Word) (lat : Nat) (v : Val) :
    Gives (s.setShaker q.core q.pe sh) (finish (s.setShaker q.core q.pe sh) q lat v) q lat v :=
  finish_gives (fun hs => by simpa using ready_word h hs) lat v

/-! ## SEED -/

/-- The lane state of R47 with its product taken modulo 2^32. -/
theorem seedLane_eq (s : Word) (i l : Nat) :
    seedLane s i l =
      let x := s ^^^ (0x9E3779B9#32 * BitVec.ofNat 32 (16 * i + l + 1))
      if x = 0 then 0x6D2B79F5#32 else x := by
  simp only [seedLane, BitVec.ofNat_mul]
  rfl

@[simp] theorem seedAll_length (s : Word) (i : Nat) : (seedAll s i).length = 16 := by simp [seedAll]

theorem seedAll_getD (s : Word) (i : Nat) {l : Nat} (h : l < 16) : (seedAll s i).getD l 0 = seedLane s i l := by
  simp [seedAll, h]

/-- SEED takes an operand with X as well, so it runs wherever it stands ready (R170). -/
theorem exec_seed_ready {f : NF} {s : State} {q : Firing} (h : Ready s (.seed f) q) :
    exec (.seed f) s = .next (finish (s.setShaker q.core q.pe (seedAll (q.a.lane 0) q.pe)) q 1 q.a.val) := by
  rw [exec_seed]
  exact withFiring_ready h 1 true (.inl rfl) _

/-- Settles O4: SEED writes its PE's states and then sends A, and sending a result changes no Shaker state. -/
theorem seedSetsEveryLane : Obligations.SeedSetsEveryLane := by
  intro f s q h lane
  have hlane : lane = seedLane (q.a.lane 0) q.pe := funext fun l => (seedLane_eq _ _ l).symm
  have hall : (List.range 16).map lane = seedAll (q.a.lane 0) q.pe := by rw [hlane]; rfl
  have hgives := finish_setShaker_gives h (seedAll (q.a.lane 0) q.pe) 1 q.a.val
  refine ⟨_, exec_seed_ready h, fun l hl => ?_, ?_, fun d p hdp => ?_, ?_⟩
  · rw [hgives.shaker, State.shaker_setShaker_same, seedAll_getD _ _ hl, hlane]
  · rw [hgives.shaker, State.shaker_setShaker_same, seedAll_length]
  · rw [hgives.shaker, State.shaker_setShaker_other _ _ hdp]
  · rw [hall]; exact hgives

end Sys2Proof.Machine
end

section
/-! PROOFS. COPY and CONST (R144, R146): a ready node's result fired to its destinations. -/

namespace Sys2Proof.Machine

/-- A ready node that ends with result v fires v to its destinations. -/
theorem NodeReady.finish_fired {s : State} {i : Instr} {q : Firing} (h : NodeReady s i q) (lat : Nat) (v : Val) :
    Fired s (finish s q lat v) q lat (resultTokens q v) (sfWritten q v) := by
  obtain ⟨lit, hword⟩ := h.word
  exact Machine.finish_fired ⟨lit, hword⟩ (nodeFiring_snip h.fires) lat v

/-- COPY takes an operand with X as well, so it runs on every operand without E (R144). -/
theorem exec_copy_ready {f : NF} {s : State} {q : Firing} (h : NodeReady s (.copy f) q) (he : q.e = false) :
    exec (.copy f) s = .next (finish s q 1 q.a.val) := by
  rw [exec_copy]
  exact withFiring_node h he 1 true (.inl rfl) _

/-- CONST on operands without E and X sends the value of its B operand (R146). -/
theorem exec_const_ready {f : NF} {s : State} {q : Firing} (h : NodeReady s (.const f) q) (he : q.e = false) (hx : q.x = false)
    {b : Opnd} (hb : q.b = some b) : exec (.const f) s = .next (finish s q 1 b.val) := by
  rw [exec_const, execConst, withFiring_node h he 1 false (.inr hx), hb]

/-- Settles O5: both run their bodies when ready, and each body ends with the value that the rule names. -/
theorem copyAndConstSendTheirOperand : Obligations.CopyAndConstSendTheirOperand := by
  constructor
  · intro f s q h he
    exact ⟨_, exec_copy_ready h he, h.finish_fired 1 q.a.val⟩
  · intro f s q h he hx b hb
    exact ⟨_, exec_const_ready h he hx hb, h.finish_fired 1 b.val⟩

end Sys2Proof.Machine
end

section
/-! PROOFS. Writing a fault record and freezing a context's launches (R287, R293): what each may change, and BRK (R303). -/

namespace Sys2Proof.Machine

/-! ## What writing a record may change (R293) -/

/-- The record index that the TRAP of core k holds may have changed to what k' holds; nothing else of the core did. -/
def TrapIndexMoved (k k' : Core) : Prop :=
  k' = { k with seq := { k.seq with trapIdx := k'.seq.trapIdx, wait := k'.seq.wait } }

theorem TrapIndexMoved.refl (k : Core) : TrapIndexMoved k k := rfl

theorem TrapIndexMoved.ite {k k' : Core} {p : Prop} [Decidable p] (h : TrapIndexMoved k k') :
    TrapIndexMoved k (if p then k' else k) := by
  split
  · exact h
  · exact refl k

/-- From s to t only memory, the fault log, the stall entries of dies, and the record indexes that TRAPs hold may differ. -/
structure RecordOnly (s t : State) : Prop where
  rest : t = { s with mem := t.mem, poison := t.poison, faultLog := t.faultLog, dies := t.dies, cores := t.cores }
  core : ∀ c, TrapIndexMoved (s.core c) (t.core c)

theorem RecordOnly.refl (s : State) : RecordOnly s s := ⟨rfl, fun _ => .refl _⟩

theorem RecordOnly.trans {s t u : State} (h : RecordOnly s t) (k : RecordOnly t u) : RecordOnly s u := by
  refine ⟨by rw [k.rest, h.rest], fun c => ?_⟩
  have hst := h.core c
  have htu := k.core c
  unfold TrapIndexMoved at *
  rw [htu, hst]

theorem RecordOnly.now {s t : State} (h : RecordOnly s t) : t.now = s.now := by rw [h.rest]
theorem RecordOnly.launches {s t : State} (h : RecordOnly s t) : t.launches = s.launches := by rw [h.rest]
theorem RecordOnly.pc {s t : State} (h : RecordOnly s t) (c : Nat) : (t.core c).seq.pc = (s.core c).seq.pc := by
  rw [h.core c]

theorem State.ctxPut_recordOnly (s : State) (ctx va : Nat) (bs : List Byte) : RecordOnly s (s.ctxPut ctx va bs) := by
  rcases s.ctxPut_cases ctx va bs with e | ⟨w, _, e⟩ <;> rw [e]
  · exact RecordOnly.refl s
  · exact ⟨rfl, fun _ => rfl⟩

/-- A relation of each listed value to its image, and of the default to itself, holds between what the maps give. -/
theorem AMap.get_map_rel {α : Type} {R : α → α → Prop} {g : Nat × α → Nat × α} {d : α} (hkey : ∀ p, (g p).1 = p.1)
    (hval : ∀ p, R p.2 (g p).2) (hd : R d d) (m : AMap α) (k : Nat) : R (AMap.get m k d) (AMap.get (m.map g) k d) := by
  induction m with
  | nil => exact hd
  | cons p t ih =>
    simp only [AMap.get, List.map_cons, AMap.find?, hkey] at ih ⊢
    split
    · exact hval p
    · exact ih

theorem shiftRecs_recordOnly (s : State) (ctx base sz tail n : Nat) : RecordOnly s (shiftRecs s ctx base sz tail n) := by
  induction n with
  | zero => exact RecordOnly.refl s
  | succ n ih =>
    simp only [shiftRecs]
    split
    · refine (ih.trans (State.ctxPut_recordOnly ..)).trans ⟨rfl, ?_⟩
      refine AMap.get_map_rel (fun p => ?_) (fun p => ?_) (TrapIndexMoved.refl Core.idle) _
      · rfl
      · exact TrapIndexMoved.ite rfl
    · exact ih

/-- A record changes no more than its bytes and the indexes of the records it moves. -/
theorem State.record_recordOnly (s : State) (ctx : Nat) (r : Rec) : RecordOnly s (s.record ctx r).1 := by
  have hlog : RecordOnly s { s with faultLog := s.faultLog ++ [r.dws ctx s.count] } := ⟨rfl, fun _ => rfl⟩
  simp only [State.record]
  split
  · exact hlog
  · split
    · split
      · exact hlog.trans (State.ctxPut_recordOnly ..)
      · exact ((hlog.trans (State.ctxPut_recordOnly ..)).trans (shiftRecs_recordOnly ..)).trans (State.ctxPut_recordOnly ..)
    · exact ((hlog.trans (shiftRecs_recordOnly ..)).trans (State.ctxPut_recordOnly ..)).trans (State.ctxPut_recordOnly ..)

/-! ## A freeze as a fold over the launches (R287) -/

/-- The launch once it freezes, to stand in state aft when every core has stopped. -/
def Launch.freezing (l : Launch) (aft : LState) (now : Nat) : Launch :=
  { l with state := .freezing, after := aft, kind := 1, toStop := l.cores, frozeAt := now }

/-- A stop wave to cores of launch n, lag cycles late, each core after twice its hops from a core. -/
def State.stopWave (s : State) (n lag from_ : Nat) (cores : List Nat) : State :=
  cores.foldl (fun s k => s.after (lag + 2 * hops from_ k) .stopWaveArrival [n, k]) s

/-- What a freeze of context ctx that begins at core c of launch n does to launch p of the list: its stop wave and its new state. -/
def State.freezeOne (n c ctx : Nat) (aft : LState) (s : State) (p : Nat × Launch) : State :=
  if p.2.ctx == ctx && p.2.live? then
    let s := s.stopWave p.1 (if p.1 = n then 0 else 32) (if p.1 = n then c else p.2.origin) p.2.cores
    s.modLaunch p.1 fun x => x.freezing aft s.now
  else s

theorem State.freeze_eq {s : State} {n : Nat} {l : Launch} (h : AMap.find? s.launches n = some l) (c : Nat) (aft : LState) :
    s.freeze n c aft = (s.launches.foldl (State.freezeOne n c l.ctx aft) s).refreshCtx l.ctx := by
  unfold State.freeze
  rw [h]
  rfl

/-- The launch of the freeze, while it is live: its wave begins at core c with no lag. -/
theorem State.freezeOne_live {l : Launch} (hlive : l.live? = true) (n c : Nat) (aft : LState) (s : State) :
    s.freezeOne n c l.ctx aft (n, l) =
      (s.stopWave n 0 c l.cores).modLaunch n fun x => x.freezing aft (s.stopWave n 0 c l.cores).now := by
  simp [State.freezeOne, hlive]

/-! ## What freezing a context's launches may change (R281, R287) -/

/-- From s to t launches froze to aft, events were added and context states renewed; nothing else changed. -/
structure FreezesOnly (aft : LState) (s t : State) : Prop where
  rest : t = { s with agenda := t.agenda, launches := t.launches, ctxs := t.ctxs }
  agenda : ∀ e ∈ s.agenda, e ∈ t.agenda
  launch : ∀ n l, AMap.find? s.launches n = some l →
    AMap.find? t.launches n = some l ∨ AMap.find? t.launches n = some (l.freezing aft s.now)

namespace FreezesOnly

variable {aft : LState}

theorem refl (s : State) : FreezesOnly aft s s := ⟨rfl, fun _ => id, fun _ _ => .inl⟩

section
variable {s t u : State}

theorem now (h : FreezesOnly aft s t) : t.now = s.now := by rw [h.rest]
theorem mem (h : FreezesOnly aft s t) : t.mem = s.mem := by rw [h.rest]
theorem core (h : FreezesOnly aft s t) (c : Nat) : t.core c = s.core c := by rw [h.rest]; rfl

/-- A launch that freezes again in the same cycle is as it was (R281). -/
theorem trans (h : FreezesOnly aft s t) (k : FreezesOnly aft t u) : FreezesOnly aft s u := by
  refine ⟨by rw [k.rest, h.rest], fun e he => k.agenda e (h.agenda e he), fun n l hl => ?_⟩
  rcases h.launch n l hl with ht | ht
  · exact h.now ▸ k.launch n l ht
  · exact .inr ((k.launch n _ ht).elim id fun hu => h.now ▸ hu)

/-- A launch that freezes stays so. -/
theorem keeps_freezing (h : FreezesOnly aft s t) {n : Nat} {l : Launch}
    (hl : AMap.find? s.launches n = some (l.freezing aft s.now)) : AMap.find? t.launches n = some (l.freezing aft s.now) :=
  (h.launch n _ hl).elim id id

end

theorem after (s : State) (d : Nat) (i : Instr) (a : List Nat) : FreezesOnly aft s (s.after d i a) :=
  ⟨rfl, fun _ => mem_insertDue_old, fun _ _ => .inl⟩

theorem refreshCtx (s : State) (ctx : Nat) : FreezesOnly aft s (s.refreshCtx ctx) := by
  have hmod : ∀ f, FreezesOnly aft s (s.modCtx ctx f) := fun f => ⟨rfl, fun _ => id, fun _ _ => .inl⟩
  simp only [State.refreshCtx]
  split <;> split
  · exact refl s
  · exact hmod _
  · exact refl s
  · exact hmod _

theorem modLaunch (s : State) (n : Nat) : FreezesOnly aft s (s.modLaunch n fun x => x.freezing aft s.now) := by
  unfold State.modLaunch
  split
  · exact refl s
  next x hx =>
    refine ⟨rfl, fun _ => id, fun m l hm => ?_⟩
    by_cases hmn : m = n
    · subst hmn
      cases hx.symm.trans hm
      exact .inr (AMap.find?_put_same ..)
    · exact .inl ((AMap.find?_put_other _ _ hmn).trans hm)

section
variable {α : Type} {f : State → α → State}

theorem foldl (hf : ∀ s p, FreezesOnly aft s (f s p)) (l : List α) (s : State) : FreezesOnly aft s (l.foldl f s) :=
  List.foldlRecOn l f (refl s) fun t h p _ => h.trans (hf t p)

/-- Each element of the list has its turn in the fold, with only freezing before and after it. -/
theorem foldl_turn (hf : ∀ s p, FreezesOnly aft s (f s p)) {l : List α} {p : α} (hp : p ∈ l) (s : State) :
    ∃ u, FreezesOnly aft s u ∧ FreezesOnly aft (f u p) (l.foldl f s) := by
  obtain ⟨before, later, rfl⟩ := List.append_of_mem hp
  refine ⟨before.foldl f s, foldl hf before s, ?_⟩
  rw [List.foldl_append, List.foldl_cons]
  exact foldl hf later _

end

theorem stopWave (s : State) (n lag from_ : Nat) (cores : List Nat) : FreezesOnly aft s (s.stopWave n lag from_ cores) :=
  foldl (fun s _ => after s _ _ _) cores s

theorem freezeOne (n c ctx : Nat) (s : State) (p : Nat × Launch) : FreezesOnly aft s (s.freezeOne n c ctx aft p) := by
  unfold State.freezeOne
  split
  · exact (stopWave ..).trans (modLaunch ..)
  · exact refl s

theorem freeze (s : State) (n c : Nat) : FreezesOnly aft s (s.freeze n c aft) := by
  cases h : AMap.find? s.launches n with
  | none => simpa [State.freeze, h] using refl s
  | some l =>
    rw [State.freeze_eq h]
    exact (foldl (freezeOne n c l.ctx) _ s).trans (refreshCtx ..)

end FreezesOnly

/-! ## A freeze takes the live launch it begins at (R287) -/

theorem AMap.mem_of_find? {α : Type} {m : AMap α} {k : Nat} {v : α} (h : AMap.find? m k = some v) : (k, v) ∈ m := by
  induction m with
  | nil => cases h
  | cons p t ih =>
    obtain ⟨j, u⟩ := p
    simp only [AMap.find?] at h
    split at h
    next hk => cases h; subst hk; exact List.mem_cons_self
    · exact List.mem_cons_of_mem _ (ih h)

theorem State.modLaunch_find? {s : State} {n : Nat} {l : Launch} (h : AMap.find? s.launches n = some l) (f : Launch → Launch) :
    AMap.find? (s.modLaunch n f).launches n = some (f l) := by
  simp [State.modLaunch, h]

/-- The wave reaches each of its cores. -/
theorem State.stopWave_arrives (s : State) (n lag from_ : Nat) {cores : List Nat} {k : Nat} (hk : k ∈ cores) :
    (s.now + (lag + 2 * hops from_ k), .stopWaveArrival, .nums [n, k]) ∈ (s.stopWave n lag from_ cores).agenda := by
  obtain ⟨u, hsu, hut⟩ := FreezesOnly.foldl_turn (aft := .frozen)
    (fun s k => FreezesOnly.after s (lag + 2 * hops from_ k) .stopWaveArrival [n, k]) hk s
  exact hut.agenda _ (hsu.now ▸ mem_insertDue ..)

/-- The live launch that a freeze begins at freezes, and a stop wave from core c goes to each of its cores. -/
theorem State.freeze_live {s : State} {n : Nat} {l : Launch} (h : AMap.find? s.launches n = some l) (hlive : l.live? = true)
    (c : Nat) (aft : LState) :
    AMap.find? (s.freeze n c aft).launches n = some (l.freezing aft s.now) ∧ WaveFrom s (s.freeze n c aft) n l c := by
  obtain ⟨u, hsu, hut⟩ := FreezesOnly.foldl_turn (FreezesOnly.freezeOne (aft := aft) n c l.ctx) (AMap.mem_of_find? h) s
  replace hut := hut.trans (FreezesOnly.refreshCtx _ l.ctx)
  rw [State.freezeOne_live hlive, ← State.freeze_eq h] at hut
  have hwave : FreezesOnly aft s (u.stopWave n 0 c l.cores) := hsu.trans (FreezesOnly.stopWave ..)
  constructor
  · have hnow := (hwave.trans (FreezesOnly.modLaunch _ n)).now
    refine hnow ▸ hut.keeps_freezing ?_
    rw [hnow, hwave.now]
    rcases hwave.launch n l h with hl | hl <;> exact State.modLaunch_find? hl _
  · intro k hk
    have harrives := u.stopWave_arrives n 0 c hk
    rw [Nat.zero_add, hsu.now] at harrives
    exact hut.agenda _ (by simpa using harrives)

/-! ## BRK (R303) -/

/-- A sequencer that stands ready runs its instruction's body (R344). -/
theorem withSeq_ready {s : State} {c : Nat} {regs : List (BitVec 5)} (h : SeqReady s c regs) (body : Nat → Core → State) :
    withSeq s (regs.map (·.toNat)) body = .next (body c (s.core c)) := by
  obtain ⟨hcur, hissues, hregs⟩ := h
  have hfree : (regs.map (·.toNat)).any (gPending (s.core c) s.now) = false := by
    simpa [List.any_eq_false] using hregs
  simp [withSeq, hcur, hissues, hfree]

@[simp] theorem seqNext_pc (s : State) (c n i : Nat) : ((seqNext s c n i).core c).seq.pc = (s.core c).seq.pc + n := by
  simp [seqNext, State.modSeq]

@[simp] theorem seqNext_now (s : State) (c n i : Nat) : (seqNext s c n i).now = s.now := rfl
@[simp] theorem seqNext_mem (s : State) (c n i : Nat) : (seqNext s c n i).mem = s.mem := rfl
@[simp] theorem seqNext_launches (s : State) (c n i : Nat) : (seqNext s c n i).launches = s.launches := rfl

theorem State.launchOf_find? {s : State} {c n : Nat} {l : Launch} (h : s.launchOf c = some (n, l)) :
    AMap.find? s.launches n = some l := by
  unfold State.launchOf at h
  split at h
  · cases h
  · obtain ⟨x, hx, e⟩ := Option.map_eq_some_iff.mp h
    cases e
    exact hx

theorem Launch.live_not_freezing {l : Launch} (h : l.live? = true) : l.state ≠ .freezing := by
  intro hs
  simp [Launch.live?, hs] at h

@[simp] theorem hops_self (c : Nat) : hops c c = 0 := by simp [hops, absDiff]

/-- The record that BRK writes for launch l (R294, R303). -/
def brkRecord (s : State) (c : Nat) (l : Launch) (f : CF) : Rec :=
  { cause := 21, origin := 2, core := c, offset := (s.core c).seq.pc, frz := true, queue := l.queue, code := f.imm.toNat }

/-- BRK of a live launch: its record, SEQPC past it, then the freeze. -/
theorem exec_brk_live {s : State} {c n : Nat} {l : Launch} (f : CF) (h : SeqReady s c []) (hl : s.launchOf c = some (n, l))
    (hlive : l.live? = true) :
    exec (.brk f) s = .next ((seqNext (s.record l.ctx (brkRecord s c l f)).1 c 4 1).freeze n c .frozen) := by
  rw [exec_brk, execBrk]
  refine (withSeq_ready h _).trans ?_
  simp [hl, brkRecord, Launch.live_not_freezing hlive]

/-- Settles O24: the record and the step of SEQPC leave the launches as they were, and the freeze that follows changes neither
memory nor SEQPC and takes the launch. -/
theorem brkFreezes : Obligations.BrkFreezes := by
  intro s c n l f h hl hlive _
  have hrec := s.record_recordOnly l.ctx (brkRecord s c l f)
  let u := seqNext (s.record l.ctx (brkRecord s c l f)).1 c 4 1
  have hfreeze : FreezesOnly .frozen u (u.freeze n c .frozen) := FreezesOnly.freeze u n c
  have hfind : AMap.find? u.launches n = some l := by
    rw [seqNext_launches, hrec.launches]
    exact State.launchOf_find? hl
  obtain ⟨hlaunch, hwave⟩ := State.freeze_live hfind hlive c .frozen
  refine ⟨u.freeze n c .frozen, _, exec_brk_live f h hl hlive, hfreeze.mem, ?_, hlaunch, rfl, rfl, fun hc => ?_⟩
  · rw [hfreeze.core, seqNext_pc, hrec.pc]
  · simpa [u, hrec.now] using hwave c hc

end Sys2Proof.Machine
end

section
/-! PROOFS. What a result of the sequencer changes (R345), for every instruction that ends with one, and TIME (R358). -/

namespace Sys2Proof.Machine

/-! ## Changes of the sequencer alone (R344) -/

namespace SeqIs

variable {s t u : State} {c : Nat} {q r : Seq}

theorem trans (h : SeqIs s t c q) (k : SeqIs t u c r) : SeqIs s u c r := by
  obtain ⟨⟨honly, hother, hcore⟩, hagenda⟩ := h
  obtain ⟨⟨konly, kother, kcore⟩, kagenda⟩ := k
  refine ⟨⟨honly.trans konly, fun d hd => (kother d hd).trans (hother d hd), ?_⟩, kagenda.trans hagenda⟩
  rw [kcore, hcore]

theorem seq (h : SeqIs s t c q) : (t.core c).seq = q := by
  obtain ⟨⟨_, _, hcore⟩, _⟩ := h
  rw [hcore]

/-- The TIMEHI latch is not one of the sequencer's fields. -/
theorem latch (h : SeqIs s t c q) : (t.core c).latch = (s.core c).latch := by
  obtain ⟨⟨_, _, hcore⟩, _⟩ := h
  rw [hcore]

/-- A change of a core that is one of its sequencer. -/
theorem modCore (s : State) (c : Nat) (f : Core → Core) (hf : f (s.core c) = { s.core c with seq := q }) :
    SeqIs s (s.modCore c f) c q :=
  ⟨⟨s.modCore_coresOnly c f, fun _ hd => s.core_modCore_other f hd, (s.core_modCore_same c f).trans hf⟩, rfl⟩

theorem modSeq (s : State) (c : Nat) (f : Seq → Seq) : SeqIs s (s.modSeq c f) c (f (s.core c).seq) :=
  modCore s c (fun k => { k with seq := f k.seq }) rfl

theorem seqNext (s : State) (c n i : Nat) :
    SeqIs s (seqNext s c n i) c ((s.core c).seq.to ((s.core c).seq.pc + n) (s.now + i)) :=
  modSeq s c _

end SeqIs

/-! ## A result of the sequencer (R345) -/

@[simp] theorem Seq.wrote_pc (q : Seq) (d : BitVec 5) (v : DWord) (t : Nat) : (q.wrote d v t).pc = q.pc := by
  unfold Seq.wrote
  split <;> rfl

/-- A write of g_d is a change of the sequencer, and none for g0 (R344). -/
theorem Core.setG_wrote (k : Core) (d : BitVec 5) (v : DWord) (t : Nat) :
    k.setG d.toNat v t = { k with seq := k.seq.wrote d v t } := by
  by_cases hd : d = 0
  · simp [Core.setG, Seq.wrote, hd]
  · have hn : d.toNat ≠ 0 := fun h => hd (BitVec.eq_of_toNat_eq h)
    rw [Core.setG, if_neg hn, Seq.wrote, if_neg hd]

theorem seqResult_gives (s : State) (c : Nat) (d : BitVec 5) (v : DWord) (lat n i : Nat) :
    SeqGives s (seqResult s c d.toNat v lat n i) c d v lat n i := by
  have hwrote := SeqIs.modCore s c (·.setG d.toNat v (s.now + lat)) ((s.core c).setG_wrote d v (s.now + lat))
  have hnext := hwrote.trans (SeqIs.seqNext _ c n i)
  rwa [hwrote.seq, Seq.wrote_pc] at hnext

/-! ## TIME (R358) -/

/-- TIME of a sequencer that stands ready gives the package cycle count, to be read 2 cycles later. -/
theorem exec_time_ready {s : State} {c : Nat} (f : CF) (h : SeqReady s c [f.d]) :
    exec (.time f) s = .next (seqResult s c f.d.toNat s.count 2 4 1) := by
  rw [exec_time, execTime]
  exact withSeq_ready h _

/-- Settles O21: TIME ends with a result of the sequencer, which changes no field beside the sequencer's. -/
theorem timeReadsTheCount : Obligations.TimeReadsTheCount := by
  intro s c f h
  have hgives := seqResult_gives s c f.d s.count 2 4 1
  exact ⟨_, exec_time_ready f h, hgives, hgives.latch⟩

end Sys2Proof.Machine
end

section
/-! PROOFS. What taking a fault of the sequencer does (R287, R295, R344), for every instruction that ends with one, then GRPID and GANG
(R376, R377). -/

namespace Sys2Proof.Machine

/-! ## Taking a fault leaves each SEQPC where it is (R295) -/

@[simp] theorem State.modLaunch_core (s : State) (n : Nat) (f : Launch → Launch) (d : Nat) : (s.modLaunch n f).core d = s.core d := by
  simp [State.core]

/-- A fault on a launch that freezes already changes no core. -/
@[simp] theorem State.refreeze_core (s : State) (n c : Nat) (l : Launch) (passed : Bool) (d : Nat) :
    (s.refreeze n c l passed).core d = s.core d := by
  have hwave : (if passed then s else s.waveFrom n c l).core d = s.core d := by
    split
    · rfl
    · exact (FreezesOnly.foldl (aft := .faulted) (fun s k => .after s (2 * hops c k) .stopWaveArrival [n, k]) l.cores s).core d
  simp only [State.refreeze]
  generalize (if passed then s else s.waveFrom n c l) = u at hwave ⊢
  rw [(FreezesOnly.refreshCtx (aft := .faulted) _ l.ctx).core]
  refine List.foldlRecOn (motive := fun t : State => t.core d = s.core d) _ _ hwave fun t ht p _ => ?_
  split
  · rwa [State.modLaunch_core]
  · exact ht

@[simp] theorem State.raise_pc (s : State) (r : Rec) (d : Nat) : ((s.raise r).core d).seq.pc = (s.core d).seq.pc := by
  unfold State.raise
  split
  · rfl
  next n l _ =>
    dsimp only
    split
    · rw [State.refreeze_core, (s.record_recordOnly l.ctx _).pc]
    · rw [(FreezesOnly.freeze _ n r.core).core, (s.record_recordOnly l.ctx _).pc]

/-! ## A fault takes the live launch of its core (R287, R295) -/

/-- A fault of a live launch's core writes its record, marked as freezing, and freezes the launch to FAULTED. -/
theorem State.raise_live {s : State} {r : Rec} {n : Nat} {l : Launch} (hl : s.launchOf r.core = some (n, l)) (hlive : l.live? = true) :
    s.raise r = (s.record l.ctx { r with frz := true, queue := l.queue }).1.freeze n r.core .faulted := by
  have hstate : l.state ≠ .freezing ∧ l.state ≠ .rollingBack := by
    constructor <;> intro h <;> simp [Launch.live?, h] at hlive
  simp [State.raise, hl, hlive, hstate]

theorem State.raise_faultTaken (s : State) (r : Rec) : FaultTaken s (s.raise r) r.core r := by
  intro n l hl hlive
  have hrec := s.record_recordOnly l.ctx { r with frz := true, queue := l.queue }
  have hfind := hrec.launches ▸ State.launchOf_find? hl
  obtain ⟨hlaunch, hwave⟩ := State.freeze_live hfind hlive r.core .faulted
  rw [State.raise_live hl hlive]
  refine ⟨(FreezesOnly.freeze _ n r.core).mem, ⟨_, hlaunch, rfl, rfl, rfl, rfl⟩, fun hc => ?_⟩
  simpa [hrec.now] using hwave r.core hc

/-! ## A fault of the sequencer (R344) -/

/-- The wait of the sequencer that a fault sets is none of what FaultTaken speaks of. -/
theorem seqFault_faultTaken (s : State) (c cause : Nat) : FaultTaken s (seqFault s c cause) c (seqRecord s c cause) :=
  s.raise_faultTaken (seqRecord s c cause)

@[simp] theorem seqFault_pc (s : State) (c cause : Nat) : ((seqFault s c cause).core c).seq.pc = (s.core c).seq.pc := by
  simp [seqFault, State.modSeq]

/-! ## GRPID (R376) -/

/-- What GRPID of a kind reads on core k of launch l. -/
def grpidValue (k : Core) (l : Launch) : Nat → Nat
  | 0 => k.grel + k.grel / l.cols * 2 ^ 8 + k.grel % l.cols * 2 ^ 12
  | 1 => l.gnum
  | _ => l.slices.length + l.ways * 2 ^ 8

theorem exec_grpid_ready {s : State} {c n : Nat} {l : Launch} (f : CF) (h : SeqReady s c [f.d]) (hl : s.launchOf c = some (n, l)) :
    exec (.grpid f) s = .next (seqResult s c f.d.toNat (dword (grpidValue (s.core c) l f.imm.toNat)) 2 4 2) := by
  rw [exec_grpid, execGrpid]
  refine (withSeq_ready h _).trans ?_
  simp only [hl]
  rfl

theorem grpidReadsTheGroup : Parts.GrpidReadsTheGroup := by
  intro s c n l f h hl
  have hgives : ∀ v, grpidValue (s.core c) l f.imm.toNat = v →
      ∃ t, exec (.grpid f) s = .next t ∧ SeqGives s t c f.d (dword v) 2 4 2 := by
    rintro v rfl
    exact ⟨_, exec_grpid_ready f h hl, seqResult_gives ..⟩
  exact ⟨fun hk => hgives _ (by rw [hk]; rfl), fun hk => hgives _ (by rw [hk]; rfl), fun hk => hgives _ (by rw [hk]; rfl)⟩

/-! ## GANG (R377) -/

theorem exec_gang_none {s : State} {c n : Nat} {l : Launch} (f : CF) (h : SeqReady s c [f.d]) (hl : s.launchOf c = some (n, l))
    (hg : l.gang = none) : exec (.gang f) s = .next (seqFault s c 1) := by
  rw [exec_gang, execGang]
  refine (withSeq_ready h _).trans ?_
  simp [hl, hg]

theorem exec_gang_some {s : State} {c n : Nat} {l : Launch} {g : Gang} (f : CF) (h : SeqReady s c [f.d])
    (hl : s.launchOf c = some (n, l)) (hg : l.gang = some g) :
    exec (.gang f) s =
      .next (seqResult s c f.d.toNat (dword (if f.imm = 0 then g.gang * 2 ^ 32 + g.round else g.start)) 2 4 2) := by
  rw [exec_gang, execGang]
  refine (withSeq_ready h _).trans ?_
  simp [hl, hg]

theorem gangReadsTheGang : Parts.GangReadsTheGang := by
  intro s c n l f h hl
  refine ⟨fun hg => ⟨_, exec_gang_none f h hl hg, seqFault_faultTaken s c 1, seqFault_pc s c 1⟩, fun g hg => ⟨fun hk => ?_, fun hk => ?_⟩⟩
  · refine ⟨_, exec_gang_some f h hl hg, ?_⟩
    rw [if_pos hk]
    exact seqResult_gives ..
  · refine ⟨_, exec_gang_some f h hl hg, ?_⟩
    rw [if_neg (by simp [hk])]
    exact seqResult_gives ..

/-- Settles O25: with a launch at hand each kind of GRPID or GANG ends with a result of the sequencer, and GANG without a gang ends
with the sequencer's fault, which takes the launch and leaves SEQPC. -/
theorem grpidAndGangReadTheirGroup : Obligations.GrpidAndGangReadTheirGroup :=
  ⟨grpidReadsTheGroup, gangReadsTheGang⟩

end Sys2Proof.Machine
end
